-- ==== Sys2Proof/Word.lean ====
section
/-! DEFINITION. The word types of the H24 (R3: little endian; registers of 64 bits, R126). -/

namespace Sys2Proof

/-- A scalar register or memory word. -/
abbrev Word := BitVec 64

/-- A byte of memory. -/
abbrev Byte := BitVec 8

/-- A vector register, 512 bits (R154). -/
abbrev VecReg := BitVec 512

/-- A mask register, 16 bits (R154). -/
abbrev Mask := BitVec 16

/-- A scalar register field (R52): g0-g7, o0-o7, l0-l7, i0-i7. -/
abbrev Reg := BitVec 5

/-- A vector register field that R52 allows: v0-v7. -/
abbrev VReg := BitVec 3

/-- A mask register k0-k3, fields 8-11 of R52. -/
abbrev KReg := BitVec 2

/-- A branch immediate (R53). -/
abbrev BrImm := BitVec 16

end Sys2Proof
end

