-- ==== Sys2Proof/Machine/Bits.lean ====
section
/-! DEFINITION. Bit counting, fields, lanes and the Philox generator: plain functions on words used by the meanings. -/

namespace Sys2Proof.Machine

/-- Bits `hi` to `lo` of a word, as a number. -/
def field (w : Word) (hi lo : Nat) : Nat := (w.toNat >>> lo) % 2 ^ (hi + 1 - lo)

/-- Bit `i` of a word. -/
def bitOf (w : Word) (i : Nat) : Bool := w.getLsbD i

/-- A word of a number. -/
def word (n : Nat) : Word := BitVec.ofNat 64 n

/-- A word of an integer, modulo 2^64. -/
def wordInt (n : Int) : Word := BitVec.ofInt 64 n

/-- `w` with bits `hi` to `lo` replaced by `v`. -/
def setField (w : Word) (hi lo v : Nat) : Word :=
  let width := hi + 1 - lo
  let keep := w.toNat - ((w.toNat >>> lo) % 2 ^ width) <<< lo
  word (keep + (v % 2 ^ width) <<< lo)

/-- 1 or 0. -/
def boolNat (b : Bool) : Nat := if b then 1 else 0

/-- 1 or 0 as a word (`CMP`, `SLT` and the like). -/
def boolWord (b : Bool) : Word := if b then 1#64 else 0#64

/-- The number of leading zero bits of a 64-bit word, 64 for zero (R148). -/
def clz64 (w : Word) : Nat := if w = 0#64 then 64 else 63 - w.toNat.log2

/-- The number of one bits among the low `k` bits of a number. -/
def popcount (n : Nat) : Nat → Nat
  | 0 => 0
  | k + 1 => boolNat (n.testBit k) + popcount n k

/-- The low `w` bits of a number read as a two's complement integer. -/
def toSigned (w n : Nat) : Int :=
  let m := n % 2 ^ w
  if m < 2 ^ (w - 1) then m else (m : Int) - 2 ^ w

/-- An integer as its low `w` bits. -/
def ofSigned (w : Nat) (i : Int) : Nat := (i % (2 ^ w : Nat)).toNat

/-- Lane `i`, of `w` bits, of a vector register (R154). -/
def lane (w : Nat) (v : VecReg) (i : Nat) : Nat := (v.toNat >>> (w * i)) % 2 ^ w

/-- The first `l` lanes of a vector register. -/
def lanes (w l : Nat) (v : VecReg) : List Nat := (List.range l).map (lane w v)

/-- Lanes of `w` bits packed from the low end. -/
def packNat (w : Nat) : List Nat → Nat
  | [] => 0
  | x :: xs => x % 2 ^ w + (packNat w xs) <<< w

/-- A vector register from its lanes, zero above them. -/
def packLanes (w : Nat) (l : List Nat) : VecReg := BitVec.ofNat 512 (packNat w l)

/-- The lane width of a vec operation (R154). -/
def laneBits (wide : Bool) : Nat := if wide then 64 else 32

/-- The lane count of a vec operation (R154). -/
def laneCount (wide : Bool) : Nat := if wide then 8 else 16

/-- Bytes of a number, low byte first. -/
def bytesOf (n : Nat) : Nat → List Byte
  | 0 => []
  | k + 1 => BitVec.ofNat 8 n :: bytesOf (n >>> 8) k

/-- The number of a list of bytes, low byte first. -/
def natOfBytes : List Byte → Nat
  | [] => 0
  | b :: bs => b.toNat + natOfBytes bs <<< 8

/-- One round of Philox4x32 (R153) on the counter words and the key words. -/
def philoxRound (c0 c1 c2 c3 k0 k1 : Nat) : Nat × Nat × Nat × Nat :=
  let p0 := 0xD2511F53 * c0
  let p1 := 0xCD9E8D57 * c2
  (((p1 >>> 32) ^^^ c1) ^^^ k0, p1 % 2 ^ 32, ((p0 >>> 32) ^^^ c3) ^^^ k1, p0 % 2 ^ 32)

/-- `rounds` rounds of Philox4x32, the key stepped after each (R153). -/
def philoxGo : Nat → Nat → Nat → Nat → Nat → Nat → Nat → Nat × Nat × Nat × Nat
  | 0, c0, c1, c2, c3, _, _ => (c0, c1, c2, c3)
  | n + 1, c0, c1, c2, c3, k0, k1 =>
    let (d0, d1, d2, d3) := philoxRound c0 c1 c2 c3 k0 k1
    philoxGo n d0 d1 d2 d3 ((k0 + 0x9E3779B9) % 2 ^ 32) ((k1 + 0xBB67AE85) % 2 ^ 32)

/-- Philox4x32-10 of a key and a counter given as two words, high and low (R153). -/
def philox (key hi lo : Word) : Nat :=
  let (c0, c1, c2, c3) := philoxGo 10 (field lo 31 0) (field lo 63 32) (field hi 31 0) (field hi 63 32)
    (field key 31 0) (field key 63 32)
  c0 + c1 <<< 32 + c2 <<< 64 + c3 <<< 96

/-- Looks up a key in an association list. -/
def lookup {α β : Type} [DecidableEq α] (k : α) : List (α × β) → Option β
  | [] => none
  | (a, b) :: rest => if a = k then some b else lookup k rest

/-- Removes a key from an association list. -/
def erase {α β : Type} [DecidableEq α] (k : α) : List (α × β) → List (α × β)
  | [] => []
  | (a, b) :: rest => if a = k then erase k rest else (a, b) :: erase k rest

/-- Sets a key of an association list, in place where it stands, at the end where it does not. -/
def insert {α β : Type} [DecidableEq α] (k : α) (v : β) : List (α × β) → List (α × β)
  | [] => [(k, v)]
  | (a, b) :: rest => if a = k then (k, v) :: rest else (a, b) :: insert k v rest

end Sys2Proof.Machine
end

