-- ==== Sys2Proof/Machine/Fp.lean ====
section
/-! DEFINITION. IEEE 754 arithmetic (R162 to R170, R173): exact dyadic numbers, one rounding, the five flags. -/

namespace Sys2Proof.Machine

/-- A binary format: exponent bits, fraction bits, exponent bias. -/
structure FFmt where
  ebits : Nat
  mbits : Nat
  bias : Nat
  deriving DecidableEq, Repr

/-- binary32 (R162). -/
def f32 : FFmt := ⟨8, 23, 127⟩
/-- binary64 (R162). -/
def f64 : FFmt := ⟨11, 52, 1023⟩
/-- BF16 (R177). -/
def bf16 : FFmt := ⟨8, 7, 127⟩
/-- FP8 E5M2 (R179). -/
def e5m2 : FFmt := ⟨5, 2, 15⟩

/-- Rounding directions (R130 RM). -/
inductive RMode where
  | rne | rtz | rup | rdn
  deriving DecidableEq, Repr

/-- The sticky flags of one operation: NX bit 0, UF 1, OF 2, DZ 3, NV 4, as in STS bits 20:16 (R130). -/
abbrev FFlags := BitVec 5

/-- Inexact. -/
def fNX : FFlags := 1#5
/-- Underflow. -/
def fUF : FFlags := 2#5
/-- Overflow. -/
def fOF : FFlags := 4#5
/-- Division by zero. -/
def fDZ : FFlags := 8#5
/-- Invalid operation. -/
def fNV : FFlags := 16#5

/-- A flag raised where a condition holds. -/
def flagIf (b : Bool) (f : FFlags) : FFlags := if b then f else 0#5

/-- An extended number: a NaN, an infinity, or ± mant × 2^exp exactly (zero where mant is 0). -/
inductive FNum where
  | nan (signalling : Bool)
  | inf (neg : Bool)
  | fin (neg : Bool) (mant : Nat) (exp : Int)
  deriving DecidableEq, Repr

/-- All bits of a format's exponent field. -/
def FFmt.emaxField (f : FFmt) : Nat := 2 ^ f.ebits - 1
/-- The number of bits of a format. -/
def FFmt.bits (f : FFmt) : Nat := 1 + f.ebits + f.mbits
/-- The canonical quiet NaN of a format (R164, R181). -/
def FFmt.qnan (f : FFmt) : Nat :=
  f.emaxField <<< f.mbits + 2 ^ (f.mbits - 1)
/-- An infinity. -/
def FFmt.inf (f : FFmt) (neg : Bool) : Nat := boolNat neg <<< (f.ebits + f.mbits) + f.emaxField <<< f.mbits
/-- The largest finite number, with a sign. -/
def FFmt.maxFin (f : FFmt) (neg : Bool) : Nat := f.inf neg - 1
/-- A zero. -/
def FFmt.zero (f : FFmt) (neg : Bool) : Nat := boolNat neg <<< (f.ebits + f.mbits)

/-- The number a bit pattern of a format stands for (R162, R177, R179). -/
def FFmt.num (f : FFmt) (x : Nat) : FNum :=
  let m := x % 2 ^ f.mbits
  let e := (x >>> f.mbits) % 2 ^ f.ebits
  let s := x.testBit (f.ebits + f.mbits)
  if e = f.emaxField then
    if m = 0 then .inf s else .nan (!(m.testBit (f.mbits - 1)))
  else if e = 0 then .fin s m (1 - (f.bias : Int) - f.mbits)
  else .fin s (m + 2 ^ f.mbits) ((e : Int) - f.bias - f.mbits)

/-- The sign bit of a pattern. -/
def FFmt.sign (f : FFmt) (x : Nat) : Bool := x.testBit (f.ebits + f.mbits)

/-- Is it a NaN? -/
def FNum.isNan : FNum → Bool
  | .nan _ => true
  | _ => false

/-- Is it a signalling NaN? -/
def FNum.isSnan : FNum → Bool
  | .nan s => s
  | _ => false

/-- Is it a zero? -/
def FNum.isZero : FNum → Bool
  | .fin _ m _ => m == 0
  | _ => false

/-- Is it an infinity? -/
def FNum.isInf : FNum → Bool
  | .inf _ => true
  | _ => false

/-- The sign, of a number that has one. -/
def FNum.neg? : FNum → Bool
  | .nan _ => false
  | .inf s => s
  | .fin s _ _ => s

/-- The sign inverted. -/
def FNum.negate : FNum → FNum
  | .nan s => .nan s
  | .inf s => .inf !s
  | .fin s m e => .fin (!s) m e

/-- The magnitude. -/
def FNum.abs : FNum → FNum
  | .nan s => .nan s
  | .inf _ => .inf false
  | .fin _ m e => .fin false m e

/-- Whether the exact value `(mant + part) × 2^-r`, `part` in (0,1) where `sticky`, rounds away from zero from its floor
`m`, in direction `rm` (R163). -/
def roundsUp (rm : RMode) (neg : Bool) (mant r : Nat) (sticky : Bool) : Bool :=
  let m := mant >>> r
  let rem := mant % 2 ^ r
  let inexact := rem != 0 || sticky
  match rm with
  | .rne =>
    if r = 0 then false
    else
      let half := 2 ^ (r - 1)
      half < rem || (rem == half && (sticky || m % 2 == 1))
  | .rtz => false
  | .rup => inexact && !neg
  | .rdn => inexact && neg

/-- Rounds `mant × 2^exp` (a little more where `sticky`) to an integer multiple of `2^q`: the multiple, and whether that
was inexact. -/
def roundAt (rm : RMode) (neg : Bool) (mant : Nat) (exp q : Int) (sticky : Bool) : Nat × Bool :=
  if q ≤ exp then (mant <<< (exp - q).toNat, sticky)
  else
    let r := (q - exp).toNat
    (mant >>> r + boolNat (roundsUp rm neg mant r sticky), mant % 2 ^ r != 0 || sticky)

/-- The outcome of rounding to `p` bits with least exponent unit `qmin`, unbounded above: significand, exponent,
inexact, tiny (R165: tininess after rounding). -/
structure Rounded where
  mant : Nat
  exp : Int
  inexact : Bool
  tiny : Bool
  deriving DecidableEq, Repr

/-- Rounds to precision `p` with the least unit `2^qmin` (R163, R165). `emin` is the exponent of the least normal. -/
def roundUnb (p : Nat) (qmin : Int) (rm : RMode) (neg : Bool) (mant : Nat) (exp : Int) (sticky : Bool) : Rounded :=
  let top : Int := exp + mant.log2 + 1
  let qu := top - p
  let q := if qu < qmin then qmin else qu
  let (m, ix) := roundAt rm neg mant exp q sticky
  let (mu, _) := roundAt rm neg mant exp qu sticky
  -- below the least normal 2^(qmin + p - 1) after rounding to p bits with an unbounded exponent
  let tiny := decide (mu = 0) || decide (qu + (mu.log2 : Int) < qmin + p - 1)
  if m = 2 ^ p then ⟨2 ^ (p - 1), q + 1, ix, tiny⟩ else ⟨m, q, ix, tiny⟩

/-- The bits of a finite significand and exponent already representable in the format. -/
def FFmt.pack (f : FFmt) (neg : Bool) (m : Nat) (q : Int) : Nat :=
  if m < 2 ^ f.mbits then f.zero neg + m
  else f.zero neg + (q + f.bias + f.mbits).toNat <<< f.mbits + (m - 2 ^ f.mbits)

/-- The overflow result of a direction (R163): an infinity or the largest finite number. -/
def overflowInf (rm : RMode) (neg : Bool) : Bool :=
  match rm with
  | .rne => true
  | .rtz => false
  | .rup => !neg
  | .rdn => neg

/-- Rounds an exact number into a format (R163, R165). -/
def FFmt.round (f : FFmt) (rm : RMode) (x : FNum) (sticky : Bool) : Nat × FFlags :=
  match x with
  | .nan _ => (f.qnan, 0#5)
  | .inf s => (f.inf s, 0#5)
  | .fin s m e =>
    if m = 0 && !sticky then (f.zero s, 0#5)
    else
      let r := roundUnb (f.mbits + 1) (1 - (f.bias : Int) - f.mbits) rm s m e sticky
      if (f.emaxField : Int) - 1 < r.exp + f.bias + f.mbits && 2 ^ f.mbits ≤ r.mant then
        (if overflowInf rm s then f.inf s else f.maxFin s, fOF ||| fNX)
      else (f.pack s r.mant r.exp, flagIf r.inexact fNX ||| flagIf (r.inexact && r.tiny) fUF)

/-- The exact product; a NaN where there is none. -/
def FNum.mul (a b : FNum) : FNum :=
  match a, b with
  | .nan _, _ => .nan false
  | _, .nan _ => .nan false
  | .inf s, .inf t => .inf (s != t)
  | .inf s, .fin t m _ => if m = 0 then .nan false else .inf (s != t)
  | .fin s m _, .inf t => if m = 0 then .nan false else .inf (s != t)
  | .fin s m e, .fin t n g => .fin (s != t) (m * n) (e + g)

/-- A signed integer multiple of `2^e`; `zneg` is the sign of zero. -/
def FNum.ofInt (i : Int) (e : Int) (zneg : Bool) : FNum :=
  if i = 0 then .fin zneg 0 e else .fin (i < 0) i.natAbs e

/-- The exact sum; `zneg` is the sign of an exact zero sum of operands of unlike sign (R163). -/
def FNum.add (zneg : Bool) (a b : FNum) : FNum :=
  match a, b with
  | .nan _, _ => .nan false
  | _, .nan _ => .nan false
  | .inf s, .inf t => if s = t then .inf s else .nan false
  | .inf s, .fin .. => .inf s
  | .fin .., .inf t => .inf t
  | .fin s m e, .fin t n g =>
    if m = 0 && n = 0 then .fin (if s = t then s else zneg) 0 e
    else
      let q := if e < g then e else g
      let x : Int := m <<< (e - q).toNat
      let y : Int := n <<< (g - q).toNat
      FNum.ofInt ((if s then -x else x) + (if t then -y else y)) q zneg

/-- Whether an exact zero sum is negative (R163). -/
def zeroNeg (rm : RMode) : Bool := rm == .rdn

/-- The exact order of two numbers that are not NaN: less than. -/
def FNum.lt (a b : FNum) : Bool :=
  match a, b with
  | .nan _, _ => false
  | _, .nan _ => false
  | .inf s, .inf t => s && !t
  | .inf s, .fin .. => s
  | .fin .., .inf t => !t
  | .fin s m e, .fin t n g =>
    let q := if e < g then e else g
    let x : Int := m <<< (e - q).toNat
    let y : Int := n <<< (g - q).toNat
    decide ((if s then -x else x) < (if t then -y else y))

/-- Equality of numbers that are not NaN (−0 equals +0, R167). -/
def FNum.eq (a b : FNum) : Bool := !a.isNan && !b.isNan && !FNum.lt a b && !FNum.lt b a

/-- NV for a signalling NaN among operands (R164). -/
def snanFlag (l : List FNum) : FFlags := flagIf (l.any FNum.isSnan) fNV

/-- NV where an operation on numbers has no value (R164). -/
def invalidFlag (r : FNum) (l : List FNum) : FFlags := flagIf (r.isNan && !l.any FNum.isNan) fNV

/-- a + b (R168). -/
def FFmt.add (f : FFmt) (rm : RMode) (a b : Nat) : Nat × FFlags :=
  let x := f.num a
  let y := f.num b
  let r := FNum.add (zeroNeg rm) x y
  let (v, fl) := f.round rm r false
  (v, fl ||| snanFlag [x, y] ||| invalidFlag r [x, y])

/-- The sign of a pattern inverted, a NaN kept. -/
def FFmt.flip (f : FFmt) (a : Nat) : Nat :=
  a ^^^ 2 ^ (f.ebits + f.mbits)

/-- a − b (R168). -/
def FFmt.sub (f : FFmt) (rm : RMode) (a b : Nat) : Nat × FFlags := f.add rm a (f.flip b)

/-- a × b (R168). -/
def FFmt.mul (f : FFmt) (rm : RMode) (a b : Nat) : Nat × FFlags :=
  let x := f.num a
  let y := f.num b
  let r := FNum.mul x y
  let (v, fl) := f.round rm r false
  (v, fl ||| snanFlag [x, y] ||| invalidFlag r [x, y])

/-- a × b + d, rounded once (R163, R168); 0 × ∞ plus a quiet NaN raises NV (R164). -/
def FFmt.fma (f : FFmt) (rm : RMode) (a b d : Nat) : Nat × FFlags :=
  let x := f.num a
  let y := f.num b
  let z := f.num d
  let p := FNum.mul x y
  let r := FNum.add (zeroNeg rm) p z
  let (v, fl) := f.round rm r false
  (v, fl ||| snanFlag [x, y, z] ||| invalidFlag p [x, y] ||| flagIf (r.isNan && !p.isNan && !z.isNan) fNV)

/-- a / b (R168). -/
def FFmt.div (f : FFmt) (rm : RMode) (a b : Nat) : Nat × FFlags :=
  match f.num a, f.num b with
  | .fin s m e, .fin t n g =>
    if n = 0 then
      if m = 0 then (f.qnan, fNV) else (f.inf (s != t), fDZ)
    else
      let k := 128 + n.log2
      let q := (m <<< k) / n
      f.round rm (.fin (s != t) q (e - g - k)) ((m <<< k) % n != 0)
  | .inf s, .fin t _ _ => (f.inf (s != t), 0#5)
  | .fin s _ _, .inf t => (f.zero (s != t), 0#5)
  | .inf _, .inf _ => (f.qnan, fNV)
  | x, y => (f.qnan, snanFlag [x, y])

/-- The integer square root, one bit at a time from bit `k - 1` down. -/
def isqrtGo (n : Nat) : Nat → Nat → Nat
  | 0, acc => acc
  | k + 1, acc => if (acc + 2 ^ k) * (acc + 2 ^ k) ≤ n then isqrtGo n k (acc + 2 ^ k) else isqrtGo n k acc

/-- ⌊√n⌋. -/
def isqrt (n : Nat) : Nat := isqrtGo n (n.log2 / 2 + 1) 0

/-- A finite number with an even exponent. -/
def evenExp (m : Nat) (e : Int) : Nat × Int := if e % 2 = 0 then (m, e) else (2 * m, e - 1)

/-- √a (R168). -/
def FFmt.sqrt (f : FFmt) (rm : RMode) (a : Nat) : Nat × FFlags :=
  match f.num a with
  | .nan s => (f.qnan, flagIf s fNV)
  | .inf s => if s then (f.qnan, fNV) else (f.inf false, 0#5)
  | .fin s m e =>
    if m = 0 then (f.zero s, 0#5)
    else if s then (f.qnan, fNV)
    else
      let (m, e) := evenExp m e
      let n := m <<< 256
      let q := isqrt n
      f.round rm (.fin false q (e / 2 - 128)) (q * q != n)

/-- 1 / √a (R173). -/
def FFmt.rsqrt (f : FFmt) (rm : RMode) (a : Nat) : Nat × FFlags :=
  match f.num a with
  | .nan s => (f.qnan, flagIf s fNV)
  | .inf s => if s then (f.qnan, fNV) else (f.zero false, 0#5)
  | .fin s m e =>
    if m = 0 then (f.inf s, fDZ)
    else if s then (f.qnan, fNV)
    else
      let (m, e) := evenExp m e
      let k := 128 + m.log2
      let q := isqrt (2 ^ (2 * k) / m)
      f.round rm (.fin false q (-(e / 2) - k)) (q * q * m != 2 ^ (2 * k))

/-- 1 / a (R173). -/
def FFmt.recip (f : FFmt) (rm : RMode) (a : Nat) : Nat × FFlags :=
  f.div rm (f.bias <<< f.mbits) a

/-- Bounds of 2^x for a fraction x whose bits, from 2^-1 down, are the top `k` bits of `frac`: the product of the
square roots of 2 that its one bits select, in fixed point with `p` fraction bits, rounded down and up. -/
def exp2Bounds (p frac : Nat) : Nat → Nat → Nat → Nat → Nat → Nat × Nat
  | 0, _, _, lo, hi => (lo, hi)
  | k + 1, rlo, rhi, lo, hi =>
    let rlo := isqrt (rlo <<< p)
    let rhi := isqrt (rhi <<< p) + 1
    if frac.testBit k then exp2Bounds p frac k rlo rhi ((lo * rlo) >>> p) ((hi * rhi) >>> p + 1)
    else exp2Bounds p frac k rlo rhi lo hi

/-- 2^(n + frac/2^k), rounded once (R173): bounds of rising precision until both round alike. DEDUCED (log 10). -/
def FFmt.exp2Frac (f : FFmt) (rm : RMode) (n : Int) (frac k : Nat) : Nat → Nat → Nat × FFlags
  | 0, p => f.round rm (.fin false (exp2Bounds p frac k (2 <<< p) (2 <<< p) (1 <<< p) (1 <<< p)).1 (n - p)) true
  | fuel + 1, p =>
    let (lo, hi) := exp2Bounds p frac k (2 <<< p) (2 <<< p) (1 <<< p) (1 <<< p)
    let a := f.round rm (.fin false lo (n - p)) true
    let b := f.round rm (.fin false hi (n - p)) true
    if a = b then a else exp2Frac f rm n frac k fuel (2 * p)

/-- 2 to the a (R173). -/
def FFmt.exp2 (f : FFmt) (rm : RMode) (a : Nat) : Nat × FFlags :=
  match f.num a with
  | .nan s => (f.qnan, flagIf s fNV)
  | .inf s => (if s then f.zero false else f.inf false, 0#5)
  | .fin s m e =>
    if m = 0 then f.round rm (.fin false 1 0) false
    else if 12 < e + m.log2 then
      -- |a| of 2^13 or more: past every exponent of the format
      f.round rm (.fin false 1 (if s then -8192 else 8192)) true
    else if e + m.log2 < -80 then
      -- so small that 2^a differs from 1 by less than any rounding sees
      if s then f.round rm (.fin false (2 ^ 128 - 1) (-128)) true
      else f.round rm (.fin false (2 ^ 128) (-128)) true
    else if 0 ≤ e then
      let i : Int := m <<< e.toNat
      f.round rm (.fin false 1 (if s then -i else i)) false
    else
      let k := (-e).toNat
      let x : Int := if s then -(m : Int) else m
      let n := x / (2 ^ k : Nat)
      let frac := (x % (2 ^ k : Nat)).toNat
      if frac = 0 then f.round rm (.fin false 1 n) false
      else f.exp2Frac rm n frac k 4 160

/-- `FMIN` and `FMAX` (R166): minimumNumber and maximumNumber, −0 below +0. -/
def FFmt.minmax (f : FFmt) (isMax : Bool) (a b : Nat) : Nat × FFlags :=
  let a := a % 2 ^ f.bits
  let b := b % 2 ^ f.bits
  let x := f.num a
  let y := f.num b
  let fl := snanFlag [x, y]
  if x.isNan then (if y.isNan then f.qnan else b, fl)
  else if y.isNan then (a, fl)
  else
    let aLess := FNum.lt x y || (FNum.eq x y && x.neg? && !y.neg?)
    (if aLess != isMax then a else b, fl)

/-- The comparisons of R85 and R167. -/
def FFmt.cmp (f : FFmt) (c : Nat) (a b : Nat) : Bool × FFlags :=
  let x := f.num a
  let y := f.num b
  let un := x.isNan || y.isNan
  let quietF := snanFlag [x, y]
  let loudF := flagIf un fNV
  match c with
  | 0 => (!un && FNum.eq x y, quietF)
  | 1 => (FNum.lt x y, loudF)
  | 2 => (!un && !FNum.lt y x, loudF)
  | 3 => (un, quietF)
  | 4 => (un || !FNum.eq x y, quietF)
  | 5 => (!un && !FNum.lt x y, loudF)
  | 6 => (FNum.lt y x, loudF)
  | _ => (!un, quietF)

/-- A number rounded to a signed integer of `w` bits (R169), sign-extended by the caller. -/
def toIntSat (w : Nat) (rm : RMode) (x : FNum) : Int × FFlags :=
  match x with
  | .nan _ => (0, fNV)
  | .inf s => (if s then -(2 ^ (w - 1) : Nat) else (2 ^ (w - 1) : Nat) - 1, fNV)
  | .fin s m e =>
    let (n, ix) := roundAt rm s m e 0 false
    let i : Int := if s then -(n : Int) else n
    if ((2 ^ (w - 1) : Nat) : Int) ≤ i then ((2 ^ (w - 1) : Nat) - 1, fNV)
    else if i < -((2 ^ (w - 1) : Nat) : Int) then (-((2 ^ (w - 1) : Nat) : Int), fNV)
    else (i, flagIf ix fNX)

/-- A signed integer as a number. -/
def numOfInt (i : Int) : FNum := FNum.ofInt i 0 false

/-- From one binary format to another (R169). -/
def convert (src dst : FFmt) (rm : RMode) (a : Nat) : Nat × FFlags :=
  let x := src.num a
  let (v, fl) := dst.round rm x false
  (v, fl ||| snanFlag [x])

/-- a × 2^n (R200). -/
def FFmt.scale (f : FFmt) (rm : RMode) (a : Nat) (n : Int) : Nat × FFlags :=
  match f.num a with
  | .fin s m e =>
    -- beyond these bounds the result is already past every exponent of the format
    let n := if 10000 < n then 10000 else if n < -10000 then -10000 else n
    f.round rm (.fin s m (e + n)) false
  | x => (if x.isNan then f.qnan else a, snanFlag [x])

/-- Clamp of a to ±|b| (R200). -/
def FFmt.clamp (f : FFmt) (a b : Nat) : Nat × FFlags :=
  let x := f.num a
  let y := f.num b
  let fl := snanFlag [x, y]
  if x.isNan then (f.qnan, fl)
  else if y.isNan then (a, fl)
  else
    let hi := b % 2 ^ (f.ebits + f.mbits)
    let lo := f.flip hi
    ((f.minmax false (f.minmax true a lo).1 hi).1, fl)

/-- The class bit of `FCLS` (R170). -/
def FFmt.classBit (f : FFmt) (a : Nat) : Nat :=
  match f.num a with
  | .nan s => if s then 8 else 9
  | .inf s => if s then 0 else 7
  | .fin s m _ =>
    if m = 0 then (if s then 3 else 4)
    else if m < 2 ^ f.mbits then (if s then 2 else 5)
    else (if s then 1 else 6)

/-- The sign replacement of `FSGN` (R170). -/
def FFmt.sgn (f : FFmt) (op : Nat) (a b : Nat) : Nat :=
  let mag := a % 2 ^ (f.ebits + f.mbits)
  let sa := f.sign a
  let sb := f.sign b
  let s := match op with | 0 => sb | 1 => !sb | _ => sa != sb
  f.zero s + mag

/-- The rounding direction of STS.RM (R130). -/
def rmOfCode (n : Nat) : RMode :=
  match n with
  | 0 => .rne
  | 1 => .rtz
  | 2 => .rup
  | _ => .rdn

end Sys2Proof.Machine
end

