-- ==== Sys2Proof/Config.lean ====
section
/-! DEFINITION. What an implementation fixes and the free values: constants with no body, of which nothing can be proved.
Each is applied to plain data of the state (usually `State.tick`) where the manual leaves a choice or a value open. -/

namespace Sys2Proof.Config

/-- Which of the enabled moves comes next (R8: any outcome named is allowed; the manual orders agents only by the
rules of "Who sees whose writes"). DESIGN CHOICE (log 1). -/
opaque pick : Nat → Nat

/-- Module time, in ns, that passes around a step (R152 gives no rate a program could rely on). DESIGN CHOICE (log 3). -/
opaque elapsed : Nat → Nat

/-- Whether a translating agent uses a matching cached composite or walks again (R397). DESIGN CHOICE (log 8). -/
opaque useCached : Nat → Bool

/-- A core that may let a cycle pass without issuing (R128). DESIGN CHOICE (log 3). -/
opaque anyCore : Nat → Nat

/-- Whether a walk uses a cached table entry of a level or reads the table again (R397). DESIGN CHOICE (log 8). -/
opaque usePte : Nat → Nat → Bool

/-- Which handling an access takes in a 64 KiB group whose entries differ (R394): 0 own page, 1 group, 2 conflict. -/
opaque groupChoice : Nat → Nat

/-- The value a byte of a lost HBM stack reads as (R34 promises only that accepted work completes). DESIGN CHOICE (log 9). -/
opaque lostByte : Nat → Nat → Byte

/-- The token of a read-to-act page after an arming (R414 says only that it changes and lies in 1 to 0xFFFF). -/
opaque nextToken : Nat → Nat

/-- What a read of a device window returns whose registers the manual does not give: host memory and the storage port's
NVMe controller (R432), and device registers on read-to-act pages (R414). -/
opaque deviceRead : Nat → Nat → Word

/-- What another module of the pod answers to a load (R224: its memory is no part of this module's state). -/
opaque remoteWord : Nat → Word

/-- How another module of the pod ends an access (R224): with one of the causes of R221, or performed where it names none. -/
opaque remoteCause : Nat → Nat

/-- The ASID and the address at which the write-back scanner looks next (R409 gives its order no rule). DESIGN CHOICE (log 1). -/
opaque scanAt : Nat → Nat × Nat

/-- Whether a core of another module lies outside the sender's partition (R295): other modules are not in the model (log 49). -/
opaque farDenied : Nat → Bool

/-- Whether the module's link queue is full at a `SENDX` (R295: the manual gives its size and no rate at which it drains). -/
opaque linkFull : Nat → Bool

/-- DETAIL of a tile task that completes with code 0x04 (R341: R313 counts the frames of a request and not those of a task's
operands). DESIGN CHOICE (log 16). -/
opaque malformedDetail : Nat → Word

/-- A byte of a word at the moment it is poisoned: its data have no value (R212). -/
opaque poisonByte : Nat → Nat → Byte

/-- The full/empty bit of a word at the moment it is poisoned, which has no value either (R212). -/
opaque poisonFull : Nat → Nat → Bool

end Sys2Proof.Config
end

