-- ==== Sys2Proof/Syntax.lean ====
section
/-! DEFINITION. The instructions and events of the H24: one constructor for each row of spec/opcode_table.json. Operand types allow only the codes the manual defines (R81-R91), so most ill-formed operands cannot be
written; WellFormed.lean checks the rest. -/

namespace Sys2Proof

/-- Scopes of fences, barriers and atomics, codes 0 to 11 (R25, R82). -/
inductive Scope where
  | str | core | quad | sect | die | mod | node | pod | part | lnch | join | sys
  deriving DecidableEq, Repr

/-- Integer conditions (R83), codes 0 to 9. -/
inductive Cond where
  | eq | ne | lt | ge | le | gt | lo | hs | ls | hi
  deriving DecidableEq, Repr

/-- Floating-point conditions (R85), codes 0 to 7. -/
inductive FCond where
  | eq | lt | le | un | ne | ge | gt | or
  deriving DecidableEq, Repr

/-- The RND field (R84): 0 takes STS.RM. -/
inductive Rnd where
  | dyn | rne | rtz | rup | rdn
  deriving DecidableEq, Repr

/-- The PREC field (R84). -/
inductive Prec where
  | s | d
  deriving DecidableEq, Repr

/-- Load sizes (R86), codes 0 to 6. -/
inductive LdSize where
  | d | wz | ws | hz | hs | bz | bs
  deriving DecidableEq, Repr

/-- Store sizes (R86), codes 0 to 3. -/
inductive StSize where
  | d | w | h | b
  deriving DecidableEq, Repr

/-- The operation of `LOGI` and `KAND` (R90), codes 0 to 3. -/
inductive LogOp where
  | and | or | xor | andn
  deriving DecidableEq, Repr

/-- `FCVT` codes (R91), destination first, codes 0 to 9. -/
inductive FcvtCode where
  | ds | sd | ld | ls | dl | sl | wd | ws | dw | sw
  deriving DecidableEq, Repr

/-- `FSGN` operations (R170), codes 0 to 2. -/
inductive SgnOp where
  | cpy | ncpy | xsg
  deriving DecidableEq, Repr

/-- `VSHIFT` operations (R90), codes 0 to 3. -/
inductive VShiftOp where
  | shl | shr | sar | rot
  deriving DecidableEq, Repr

/-- Reductions of `VFRED` (R174), codes 0 to 2. -/
inductive RedOp where
  | sum | min | max
  deriving DecidableEq, Repr

/-- Number formats (R88), codes 0 to 9. -/
inductive Fmt where
  | f32 | f64 | bf16 | e4m3 | e5m2 | e8m0 | fp8k | i8 | i16 | i32
  deriving DecidableEq, Repr

/-- The FP8 element formats, codes 3 and 4 of R88. -/
inductive Fp8 where
  | e4m3 | e5m2
  deriving DecidableEq, Repr

/-- Formats of `VPACK` and `VUNPK` (R201), codes 2, 3, 4, 7 and 8. -/
inductive PackFmt where
  | bf16 | e4m3 | e5m2 | i8 | i16
  deriving DecidableEq, Repr

/-- Selectors of `IDS` (R152), codes 0 to 4. -/
inductive IdsSel where
  | core | die | slot | part | mod
  deriving DecidableEq, Repr

/-- Priority modifiers of `SPAWN` (R108): 0, and 4 to 7. -/
inductive SpawnPri where
  | inherit | p0 | p1 | p2 | p3
  deriving DecidableEq, Repr

/-- The vec family (R87): lane width and optional mask. -/
structure VecM where
  wide : Bool
  mask : Option KReg
  deriving DecidableEq, Repr

/-- The instructions and the module events, one constructor per row of the opcode table: first those with operands, then
those without. An event row has no encoding; what it is about stands in the state (`State.subject`). The tails of `ILL`
and `NOP` are not examined (R62, R63) and are no operands. -/
inductive Instr where
  | ill (m : BitVec 4)
  | br (target : BrImm)
  | brc (c : Cond) (a b : Reg) (target : BrImm)
  | jmp (a : Reg)
  | call (target : BrImm)
  | callr (a : Reg)
  | loop (d : Reg) (target : BrImm)
  | add (d a b : Reg)
  | sub (d a b : Reg)
  | addi (d a : Reg) (imm : BitVec 16)
  | addiT4 (d a : Reg) (imm : BitVec 48)
  | mul (d a b : Reg)
  | mulh (us : Bool) (d a b : Reg)
  | div (us : Bool) (d a b : Reg)
  | rem (us : Bool) (d a b : Reg)
  | min (us : Bool) (d a b : Reg)
  | max (us : Bool) (d a b : Reg)
  | slt (us : Bool) (d a b : Reg)
  | slti (us : Bool) (d a : Reg) (imm : BitVec 16)
  | sltiT4 (us : Bool) (d a : Reg) (imm : BitVec 48)
  | madd (d a b : Reg)
  | and (d a b : Reg)
  | or (d a b : Reg)
  | xor (d a b : Reg)
  | andn (d a b : Reg)
  | logi (op : LogOp) (d a : Reg) (imm : BitVec 16)
  | logiT4 (op : LogOp) (d a : Reg) (imm : BitVec 48)
  | shl (d a b : Reg)
  | shlImm (d a : Reg) (n : BitVec 6)
  | shr (d a b : Reg)
  | shrImm (d a : Reg) (n : BitVec 6)
  | sar (d a b : Reg)
  | sarImm (d a : Reg) (n : BitVec 6)
  | rot (d a b : Reg)
  | rotImm (d a : Reg) (n : BitVec 6)
  | clz (d a : Reg)
  | popc (d a : Reg)
  | bfx (sx : Bool) (d a : Reg) (p : BitVec 6) (w : BitVec 7)
  | mov (d a : Reg)
  | movi (d : Reg) (imm : BitVec 16)
  | moviT4 (d : Reg) (imm : BitVec 48)
  | movhi (k : BitVec 2) (d : Reg) (imm : BitVec 16)
  | sel (d a b : Reg)
  | lea (d a : Reg) (imm : BitVec 16)
  | leaT4 (d a : Reg) (imm : BitVec 48)
  | movs (d : Reg) (sp : BitVec 6)
  | movsWptr (d : Reg)
  | movsSsp (d : Reg)
  | movt (sp : BitVec 6) (a : Reg)
  | movtSts (a : Reg)
  | movtWptr (a : Reg)
  | movtSsp (a : Reg)
  | ids (q : IdsSel) (d : Reg)
  | clk (d : Reg)
  | rng (d a b : Reg)
  | cmp (c : Cond) (d a b : Reg)
  | cmpImm (c : Cond) (d a : Reg) (imm : BitVec 16)
  | ext (sz : LdSize) (d a : Reg)
  | fadd (r : Rnd) (p : Prec) (d a b : Reg)
  | fsub (r : Rnd) (p : Prec) (d a b : Reg)
  | fmul (r : Rnd) (p : Prec) (d a b : Reg)
  | ffma (r : Rnd) (p : Prec) (d a b : Reg)
  | fdiv (r : Rnd) (p : Prec) (d a b : Reg)
  | fsqrt (r : Rnd) (p : Prec) (d a : Reg)
  | fmin (p : Prec) (d a b : Reg)
  | fmax (p : Prec) (d a b : Reg)
  | fcmp (c : FCond) (p : Prec) (d a b : Reg)
  | fcvt (k : FcvtCode) (d a : Reg)
  | fsgn (op : SgnOp) (p : Prec) (d a b : Reg)
  | fcls (p : Prec) (d a : Reg)
  | vadd (m : VecM) (d a b : VReg)
  | vsub (m : VecM) (d a b : VReg)
  | vmul (m : VecM) (d a b : VReg)
  | vand (m : VecM) (d a b : VReg)
  | vor (m : VecM) (d a b : VReg)
  | vxor (m : VecM) (d a b : VReg)
  | vshift (op : VShiftOp) (wide : Bool) (d a b : VReg)
  | vminmax (isMax us wide : Bool) (d a b : VReg)
  | vsel (wide : Bool) (k : KReg) (d a b : VReg)
  | vbcast (wide : Bool) (d : VReg) (a : Reg)
  | vperm (wide : Bool) (d a b : VReg)
  | vextr (wide : Bool) (d : Reg) (a : VReg) (b : Reg)
  | vextrImm (wide : Bool) (d : Reg) (a : VReg) (j : BitVec 4)
  | vfadd (m : VecM) (d a b : VReg)
  | vfsub (m : VecM) (d a b : VReg)
  | vfmul (m : VecM) (d a b : VReg)
  | vffma (m : VecM) (d a b : VReg)
  | vfmin (m : VecM) (d a b : VReg)
  | vfmax (m : VecM) (d a b : VReg)
  | vfrcp (m : VecM) (d a : VReg)
  | vfrsq (m : VecM) (d a : VReg)
  | vfexp (m : VecM) (d a : VReg)
  | vfcmp (c : FCond) (wide : Bool) (d : KReg) (a b : VReg)
  | vfred (op : RedOp) (wide : Bool) (d : Reg) (a : VReg)
  | vrng (unif : Bool) (d : VReg) (a b : Reg)
  | fmt (f : Fmt)
  | vcvt (f : Fmt) (d a : VReg)
  | vq8 (f : Fp8) (d a b : VReg)
  | vdq8 (f : Fp8) (d a : VReg) (b : Reg)
  | vscale (m : VecM) (d a b : VReg)
  | kand (op : LogOp) (d a b : KReg)
  | kmov (d a : KReg)
  | kmovFx (d : KReg) (a : Reg)
  | kmovTx (d : Reg) (a : KReg)
  | vpack (f : PackFmt) (d a b : VReg)
  | vunpk (f : PackFmt) (d a : VReg) (b : Reg)
  | vclamp (m : VecM) (d a b : VReg)
  | ld (sz : LdSize) (d a : Reg) (imm : BitVec 16)
  | ldT4 (sz : LdSize) (d a : Reg) (imm : BitVec 48)
  | ldv (m : VecM) (d : VReg) (a : Reg) (imm : BitVec 16)
  | ldvT4 (m : VecM) (d : VReg) (a : Reg) (imm : BitVec 48)
  | ldvs (m : VecM) (d : VReg) (a b : Reg) (imm : BitVec 16)
  | ldvsT4 (m : VecM) (d : VReg) (a b : Reg) (imm : BitVec 48)
  | ldvg (m : VecM) (d : VReg) (a : Reg) (b : VReg) (imm : BitVec 16)
  | ldvgT4 (m : VecM) (d : VReg) (a : Reg) (b : VReg) (imm : BitVec 48)
  | ldl (sz : LdSize) (d a : Reg) (imm : BitVec 16)
  | ldlv (m : VecM) (d : VReg) (a : Reg) (imm : BitVec 16)
  | ldfe (d a : Reg) (imm : BitVec 16)
  | ldfeT4 (d a : Reg) (imm : BitVec 48)
  | ldff (d a : Reg) (imm : BitVec 16)
  | ldffT4 (d a : Reg) (imm : BitVec 48)
  | ldfs (d a b : Reg) (imm : BitVec 16)
  | ldfsT4 (d a b : Reg) (imm : BitVec 48)
  | ldx (sz : LdSize) (d a b : Reg) (imm : BitVec 16)
  | ldxT4 (sz : LdSize) (d a b : Reg) (imm : BitVec 48)
  | ldm (n : BitVec 3) (d a : Reg) (imm : BitVec 16)
  | ldmT4 (n : BitVec 3) (d a : Reg) (imm : BitVec 48)
  | ldnp (sz : LdSize) (d a b : Reg) (imm : BitVec 16)
  | ldnpT4 (sz : LdSize) (d a b : Reg) (imm : BitVec 48)
  | st (sz : StSize) (a b : Reg) (imm : BitVec 16)
  | stT4 (sz : StSize) (a b : Reg) (imm : BitVec 48)
  | stv (m : VecM) (a : Reg) (b : VReg) (imm : BitVec 16)
  | stvT4 (m : VecM) (a : Reg) (b : VReg) (imm : BitVec 48)
  | stvs (m : VecM) (d a : Reg) (b : VReg) (imm : BitVec 16)
  | stvsT4 (m : VecM) (d a : Reg) (b : VReg) (imm : BitVec 48)
  | stvg (m : VecM) (d : VReg) (a : Reg) (b : VReg) (imm : BitVec 16)
  | stvgT4 (m : VecM) (d : VReg) (a : Reg) (b : VReg) (imm : BitVec 48)
  | stl (sz : StSize) (a b : Reg) (imm : BitVec 16)
  | stlv (m : VecM) (a : Reg) (b : VReg) (imm : BitVec 16)
  | stef (a b : Reg) (imm : BitVec 16)
  | stefT4 (a b : Reg) (imm : BitVec 48)
  | stff (a b : Reg) (imm : BitVec 16)
  | stffT4 (a b : Reg) (imm : BitVec 48)
  | fesetE (a : Reg) (imm : BitVec 16)
  | fesetET4 (a : Reg) (imm : BitVec 48)
  | fesetF (a : Reg) (imm : BitVec 16)
  | fesetFT4 (a : Reg) (imm : BitVec 48)
  | stm (n : BitVec 3) (a b : Reg) (imm : BitVec 16)
  | stmT4 (n : BitVec 3) (a b : Reg) (imm : BitVec 48)
  | stx (sz : StSize) (d a b : Reg) (imm : BitVec 16)
  | stxT4 (sz : StSize) (d a b : Reg) (imm : BitVec 48)
  | stnp (sz : StSize) (d a b : Reg) (imm : BitVec 16)
  | stnpT4 (sz : StSize) (d a b : Reg) (imm : BitVec 48)
  | aadd (sc : Scope) (d a b : Reg) (imm : BitVec 16)
  | aaddT4 (sc : Scope) (d a b : Reg) (imm : BitVec 48)
  | amin (sc : Scope) (d a b : Reg) (imm : BitVec 16)
  | aminT4 (sc : Scope) (d a b : Reg) (imm : BitVec 48)
  | amax (sc : Scope) (d a b : Reg) (imm : BitVec 16)
  | amaxT4 (sc : Scope) (d a b : Reg) (imm : BitVec 48)
  | aand (sc : Scope) (d a b : Reg) (imm : BitVec 16)
  | aandT4 (sc : Scope) (d a b : Reg) (imm : BitVec 48)
  | aor (sc : Scope) (d a b : Reg) (imm : BitVec 16)
  | aorT4 (sc : Scope) (d a b : Reg) (imm : BitVec 48)
  | axor (sc : Scope) (d a b : Reg) (imm : BitVec 16)
  | axorT4 (sc : Scope) (d a b : Reg) (imm : BitVec 48)
  | aswp (sc : Scope) (d a b : Reg) (imm : BitVec 16)
  | aswpT4 (sc : Scope) (d a b : Reg) (imm : BitVec 48)
  | acas (sc : Scope) (d a b : Reg) (imm : BitVec 16)
  | acasT4 (sc : Scope) (d a b : Reg) (imm : BitVec 48)
  | afadd (sc : Scope) (d a b : Reg) (imm : BitVec 16)
  | afaddT4 (sc : Scope) (d a b : Reg) (imm : BitVec 48)
  | fence (sc : Scope)
  | bhintPf (d a : Reg) (imm : BitVec 16)
  | bhintPfT4 (d a : Reg) (imm : BitVec 48)
  | bhintPin (d a : Reg) (imm : BitVec 16)
  | bhintPinT4 (d a : Reg) (imm : BitVec 48)
  | bhintUnpin (d a : Reg) (imm : BitVec 16)
  | bhintUnpinT4 (d a : Reg) (imm : BitVec 48)
  | bhintEv (d a : Reg) (imm : BitVec 16)
  | bhintEvT4 (d a : Reg) (imm : BitVec 48)
  | spawn (p : SpawnPri) (d a b : Reg)
  | spawnLabel (p : SpawnPri) (d a : Reg) (target : BrImm)
  | launch (d a : Reg)
  | migrate (d a : Reg)
  | migrateNear (d a : Reg)
  | send (ch : BitVec 2) (d a b : Reg)
  | sendLoopback (ch : BitVec 2) (d a b : Reg)
  | sendEndOverflow (ch : BitVec 2) (d a b : Reg)
  | recv (d a : Reg)
  | recvArrival (d a : Reg)
  | bar (sc : Scope) (d a : Reg)
  | bara (sc : Scope) (d a b : Reg)
  | trigarm (d a b : Reg)
  | sendx (ch : BitVec 2) (d a b : Reg)
  | tqpush (d a b : Reg)
  | tqstat (d a : Reg)
  | tkill (d a : Reg)
  | tcont (d a b : Reg)
  | accal (d a : Reg)
  | accfr (d a : Reg)
  | accld (d : VReg) (a b : Reg) (imm : BitVec 16)
  | accst (d a : Reg) (b : VReg) (imm : BitVec 16)
  | accz (a b : Reg)
  | ssmrun (d a b : Reg)
  | ssmstat (d a : Reg)
  | tseq (d a : Reg)
  | jinit (d a b : Reg)
  | jarrive (d : Reg)
  | jcontrib (d a b : Reg)
  | jwait (d a : Reg)
  | jqrySt (d a : Reg)
  | jqryWt (d a : Reg)
  | jkill (d a b : Reg)
  | jroster (d a b : Reg)
  | jreplay (d a b : Reg)
  | jclose (d a : Reg)
  | jbind (d a b : Reg)
  | jrel (d a : Reg)
  | copy (mb : BitVec 2) (d : Reg)
  | copys (mb : BitVec 2) (d : Reg)
  | deal (mb : BitVec 2) (d : Reg)
  | enck (mb : BitVec 2) (d : Reg)
  | deck (mb : BitVec 2) (d : Reg)
  | redc (mb : BitVec 2) (d : Reg)
  | bcast (mb : BitVec 2) (d : Reg)
  | lease (d a : Reg)
  | unlease (d a : Reg)
  | mbxst (mb : BitVec 2) (d a : Reg) (w : BitVec 4)
  | trigset (d a b : Reg)
  | trigrd (d a : Reg)
  | trap (m : BitVec 4)
  | svc (n : BitVec 16)
  | tlbiG (a b : Reg)
  | tlbiH (a : Reg)
  | tlbiAsid (b : Reg)
  | fqpop (d a b : Reg)
  | fqrepReplay (d a b : Reg)
  | fqrepGiveup (d a b : Reg)
  | pgmap (d a : Reg)
  | slice (d a b : Reg)
  | prtnQry (d a : Reg)
  | prtnSplit (d a : Reg)
  | prtnMerge (d a : Reg)
  | reservedOpcode (op : BitVec 8) (m : BitVec 4) (tl : BitVec 2) (t : BitVec 64)
  | illT1
  | illT2
  | illT4
  | nop
  | nopT1
  | nopT2
  | nopT4
  | ret
  | save
  | restore
  | kpt
  | rlx
  | vdrop
  | waita
  | quit
  | yield
  | waitm
  | kmaskOff
  | kmaskOn
  | tret
  | lend
  | smove
  | sreg
  | sret
  | pspill
  | sstep
  | flog
  | gstop
  | gres
  | tlbiAll
  | wfe
  | queuePortLaunch
  | queuePortOtherKind
  | launchStrandCreate
  | strandArrival
  | wordRequestAnswer
  | postedWriteDrain
  | spillSector
  | slotPatienceExpiry
  | wordWaiterRetry
  | fetchStart
  | fetchDone
  | fetchFault
  | writeBackDone
  | launchSweep
  | messageArrival
  | arrivalQueueAdmit
  | movementDispatch
  | movementSegmentEnd
  | movementComplete
  | movementFault
  | leasePeriodEnd
  | triggeredEnqueue
  | taskKblockEnd
  | taskFault
  | taskComplete
  | engineFailure
  | ssmUnitEnd
  | ssmUnitFault
  | joinDeferredArrival
  | joinFoldDone
  | joinFoldFault
  | faultPostRetry
  | sliceExpiry
  | sliceOverrun
  | ldxTimeout
  | rtaArm
  | rtaActRead
  | rtaArmExpiry
  | writeBackScan
  | flashWriteComplete
  | hostAccess
  | linkPortFailure
  | dieReset
  | dieReturn
  | hbmStackLoss
  | rowRemapFailure
  | scrubPass
  | clockStretch
  | vfReplan
  | imageVerify
  | moduleMemoryInit
  | crst
  | msrWrite
  | ahashWrite
  | pewcfgWrite
  | stackCounterClear
  | partitionRecordCommit
  | partitionDissolve
  | serviceSpaceWrite
  | hmapStore
  | pinqStore
  | controlRegionWrite
  | movementEngineFailure
  | remoteAccessArrival
  | remoteBarrierArrival
  | storagePortAccess
  | backgroundClearing
  | virtualFunctionReset
  | moduleReset
  | podFormation
  | queuePortAssignment
  deriving DecidableEq, Repr

end Sys2Proof
end

