-- ==== Sys2Proof/Machine/Formats.lean ====
section
/-! DEFINITION. The narrow and scaled formats: FP8, E8M0, narrowing and widening (R177 to R182), the block quantiser (R184)
and the FP8-K frame (R185 to R190). -/

namespace Sys2Proof.Machine

/-- The number an E4M3 pattern stands for (R178). -/
def e4m3Num (x : Nat) : FNum :=
  let s := x.testBit 7
  let e := (x >>> 3) % 16
  let m := x % 8
  if x % 128 = 0x7F then .nan false
  else if e = 0 then .fin s m (-9)
  else .fin s (m + 8) ((e : Int) - 10)

/-- The number an FP8 pattern stands for. -/
def fp8Num (f : Fp8) (x : Nat) : FNum :=
  match f with
  | .e4m3 => e4m3Num x
  | .e5m2 => match e5m2.num (x % 256) with
    | .nan _ => .nan false     -- FP8 has no signalling NaN (R182)
    | y => y

/-- The canonical NaN of an FP8 format (R181). -/
def fp8Nan : Fp8 → Nat
  | .e4m3 => 0x7F
  | .e5m2 => 0x7E

/-- Precision and least unit of an FP8 format. -/
def fp8Prec : Fp8 → Nat × Int
  | .e4m3 => (4, -9)
  | .e5m2 => (3, -16)

/-- The largest finite pattern (R181), without sign: 448 and 57,344. -/
def fp8Max : Fp8 → Nat
  | .e4m3 => 0x7E
  | .e5m2 => 0x7B

/-- Is `m × 2^q` above the largest finite value? -/
def fp8Over (f : Fp8) (m : Nat) (q : Int) : Bool :=
  match f with
  | .e4m3 => 5 < q || (q == 5 && 14 < m)
  | .e5m2 => 13 < q || (q == 13 && 7 < m)

/-- The pattern of a representable `m × 2^q`. -/
def fp8Pack (f : Fp8) (neg : Bool) (m : Nat) (q : Int) : Nat :=
  match f with
  | .e4m3 => boolNat neg <<< 7 + (if m < 8 then m else (q + 10).toNat <<< 3 + (m - 8))
  | .e5m2 => boolNat neg <<< 7 + (if m < 4 then m else (q + 17).toNat <<< 2 + (m - 4))

/-- Narrows a number to E4M3 (R182): overflow and infinities saturate to ±448. -/
def narrowE4m3 (rm : RMode) (x : FNum) : Nat × FFlags :=
  match x with
  | .nan s => (0x7F, flagIf s fNV)
  | .inf s => (boolNat s <<< 7 + 0x7E, fOF ||| fNX)
  | .fin s m e =>
    if m = 0 then (boolNat s <<< 7, 0#5)
    else
      let r := roundUnb 4 (-9) rm s m e false
      if fp8Over .e4m3 r.mant r.exp then (boolNat s <<< 7 + 0x7E, fOF ||| fNX)
      else (fp8Pack .e4m3 s r.mant r.exp, flagIf r.inexact fNX ||| flagIf (r.inexact && r.tiny) fUF)

/-- Saturates a signed 32-bit integer to `w` bits (R182). -/
def narrowInt (w : Nat) (x : Nat) : Nat :=
  let i := toSigned 32 x
  let hi : Int := (2 ^ (w - 1) : Nat) - 1
  let lo : Int := -((2 ^ (w - 1) : Nat) : Int)
  ofSigned w (if hi < i then hi else if i < lo then lo else i)

/-- Narrow of R182, from a 32-bit lane. -/
def narrow (f : PackFmt) (rm : RMode) (x : Nat) : Nat × FFlags :=
  match f with
  | .bf16 => convert f32 bf16 rm x
  | .e4m3 => narrowE4m3 rm (f32.num x)
  | .e5m2 => convert f32 e5m2 rm x
  | .i8 => (narrowInt 8 x, 0#5)
  | .i16 => (narrowInt 16 x, 0#5)

/-- Widen of R182, to a 32-bit lane, exactly: BF16 is placed in bits 31:16, a NaN too, as R177 has it, and a signalling one raises NV (R164;
DEDUCED, log 110). -/
def widen (f : PackFmt) (x : Nat) : Nat × FFlags :=
  match f with
  | .bf16 => (x % 2 ^ 16 * 2 ^ 16, snanFlag [bf16.num (x % 2 ^ 16)])
  | .e4m3 => ((f32.round .rne (fp8Num .e4m3 (x % 256)) false).1, 0#5)
  | .e5m2 => ((f32.round .rne (fp8Num .e5m2 (x % 256)) false).1, 0#5)
  | .i8 => (ofSigned 32 (toSigned 8 x), 0#5)
  | .i16 => (ofSigned 32 (toSigned 16 x), 0#5)

/-- The size in bytes of a packed element. -/
def packSize : PackFmt → Nat
  | .bf16 | .i16 => 2
  | .e4m3 | .e5m2 | .i8 => 1

/-- A pending format that makes memory elements narrow (R197). -/
def fmtPack? : Fmt → Option PackFmt
  | .bf16 => some .bf16
  | .e4m3 => some .e4m3
  | .e5m2 => some .e5m2
  | .i8 => some .i8
  | .i16 => some .i16
  | _ => none

/-- ⌊log₂⌋ of a positive finite number. -/
def FNum.log2 : FNum → Int
  | .fin _ m e => e + m.log2
  | _ => 0

/-- The `.e8m0` conversion of `VCVT` (R198). -/
def toE8m0 (x : Nat) : Nat × FFlags :=
  match f32.num x with
  | .nan s => (0xFF, flagIf s fNV)
  | .inf _ => (254, 0#5)
  | .fin _ m e =>
    if m = 0 then (0, 0#5)
    else
      let k := e + m.log2 + 127
      ((if k < 0 then 0 else if 254 < k then 254 else k.toNat), 0#5)

/-- x / 2^(X − 127), exactly. -/
def unscale (x : FNum) (X : Nat) : FNum :=
  match x with
  | .fin s m e => .fin s m (e - ((X : Int) - 127))
  | y => y

/-- One element of `RoundNear` (R184): round to nearest even, unbounded above. -/
def roundNear (f : Fp8) (x : FNum) : FNum × FFlags × Bool :=
  match x with
  | .fin s m e =>
    if m = 0 then (.fin s 0 0, 0#5, false)
    else
      let r := roundUnb (fp8Prec f).1 (fp8Prec f).2 .rne s m e false
      (.fin s r.mant r.exp, flagIf r.inexact fNX ||| flagIf (r.inexact && r.tiny) fUF, fp8Over f r.mant r.exp)
  | y => (y, 0#5, false)

/-- Rescales while some finite element exceeds the largest value (R184). -/
def quantScale (f : Fp8) (q : Nat) (xs : List FNum) : Nat → Nat → Nat
  | 0, X => X
  | tries + 1, X =>
    if q = 0 && X != 254 && xs.any (fun x => (roundNear f (unscale x X)).2.2) then quantScale f q xs tries (X + 1) else X

/-- A quantised element (R184): saturated, or packed. -/
def quantElem (f : Fp8) (X : Nat) (x : FNum) : Nat × FFlags :=
  let (y, fl, past) := roundNear f (unscale x X)
  match y with
  | .nan _ => (0, 0#5)
  | .inf s =>
    match f with
    | .e4m3 => (boolNat s <<< 7 + fp8Max f, fOF ||| fNX)
    | .e5m2 => (boolNat s <<< 7 + 0x7C, 0#5)
  | .fin s m e =>
    if past then (boolNat s <<< 7 + fp8Max f, fOF ||| fNX)
    else if m = 0 then (boolNat s <<< 7, fl)
    else (fp8Pack f s m e, fl)

/-- OR of a list of flags. -/
def orFlags (l : List FFlags) : FFlags := l.foldl (· ||| ·) 0#5

/-- The largest of a list of finite magnitudes by exact order. -/
def maxAbs : List FNum → Option FNum
  | [] => none
  | x :: rest =>
    match x, maxAbs rest with
    | .fin _ m e, none => some (.fin false m e)
    | .fin _ m e, some y => if FNum.lt y (.fin false m e) then some (.fin false m e) else some y
    | _, r => r

/-- `Quantise32` (R184): 32 FP32 patterns, format, mode, clamp bound, initial scale; answers scale, elements, flags. -/
def quantise32 (f : Fp8) (q B : Nat) (X0 : Option Nat) (xs : List Nat) : Nat × List Nat × FFlags :=
  let nums := xs.map f32.num
  if nums.any FNum.isNan then (0xFF, xs.map (fun _ => 0), flagIf (nums.any FNum.isSnan) fNV)
  else
    let bFinite := match f32.num B with | .fin .. => true | _ => false
    let nums := if q ≠ 0 && bFinite then xs.map (fun x => f32.num (f32.clamp x B).1) else nums
    let a := maxAbs nums
    let X : Nat := match X0 with
      | some v => v
      | none =>
        match a with
        | none => 127
        | some v =>
          if v.isZero then 127
          else
            let k := v.log2 - (match f with | .e4m3 => 8 | .e5m2 => 15) + 127
            if k < 0 then 0 else if 254 < k then 254 else k.toNat
    let X := quantScale f q nums 3 X
    let ys := nums.map (quantElem f X)
    (X, ys.map (·.1), orFlags (ys.map (·.2)))

/-- The FP8 element times its scale, as a number (R190, R199). -/
def scaledNum (f : Fp8) (X y : Nat) : FNum :=
  if X = 0xFF then .nan false
  else match fp8Num f y with
    | .fin s m e => .fin s m (e + ((X : Int) - 127))
    | v => v

/-- The prefix codes of R187 by selector, for exponents 0 to 15: (bits, length), first bit most significant. -/
def frameCodes : Nat → List (Nat × Nat)
  | 0 => [(0b11100, 5), (0b11111100, 8), (0b11111101, 8), (0b11111110, 8), (0b11111111, 8), (0b1111100, 7),
      (0b1111101, 7), (0b111100, 6), (0b111101, 6), (0b11101, 5), (0b1100, 4), (0b1101, 4), (0b100, 3), (0b101, 3),
      (0b00, 2), (0b01, 2)]
  | 1 => [(0b1000, 4), (0b111100, 6), (0b111101, 6), (0b111110, 6), (0b111111, 6), (0b11100, 5), (0b11101, 5),
      (0b1001, 4), (0b1010, 4), (0b1011, 4), (0b000, 3), (0b001, 3), (0b010, 3), (0b011, 3), (0b1100, 4), (0b1101, 4)]
  | 2 => [(0b0, 1), (0b111010, 6), (0b111011, 6), (0b111100, 6), (0b111101, 6), (0b111110, 6), (0b111111, 6),
      (0b11000, 5), (0b11001, 5), (0b11010, 5), (0b11011, 5), (0b11100, 5), (0b1000, 4), (0b1001, 4), (0b1010, 4),
      (0b1011, 4)]
  | _ => (List.range 8).map (fun p => (p, 3))

/-- A code of `len` bits with its first bit at the lowest stream bit (R186). -/
def streamBits (code : Nat) : Nat → Nat
  | 0 => 0
  | len + 1 => boolNat (code.testBit len) + (streamBits code len) <<< 1

/-- The exponent field of an E4M3 pattern. -/
def e4m3Exp (y : Nat) : Nat := (y >>> 3) % 16

/-- A quantised block of a frame: scale, selector, elements. -/
structure FrameBlock where
  x : Nat
  sel : Nat
  ys : List Nat
  deriving DecidableEq, Repr

/-- The stream length of a block under a selector (R189). -/
def codeLength (c : Nat) (ys : List Nat) : Nat :=
  (ys.map (fun y => ((frameCodes c).getD (e4m3Exp y) (0, 0)).2)).sum

/-- The selector with the least length, the lower on a tie (R189). -/
def bestSel (ys : List Nat) : Nat :=
  let l0 := codeLength 0 ys
  let l1 := codeLength 1 ys
  let l2 := codeLength 2 ys
  if l1 < l0 then (if l2 < l1 then 2 else 1) else (if l2 < l0 then 2 else 0)

/-- `MakePlain` (R188). -/
def makePlain (b : FrameBlock) : FrameBlock :=
  let emax := (b.ys.map e4m3Exp).foldl max 0
  let s := emax - 7
  let s := if b.x < 0xFF then min s (254 - b.x) else s
  let one (y : Nat) : Nat :=
    let e := e4m3Exp y
    let sg := (y >>> 7) <<< 7
    if s = 0 then (if 7 < e then sg + 7 * 8 + 7 else y)
    else if e ≤ s then sg
    else if 7 < e - s then sg + 7 * 8 + 7
    else sg + (e - s) * 8 + y % 8
  ⟨b.x + s, 3, b.ys.map one⟩

/-- The stream length of a block as it stands. -/
def FrameBlock.len (b : FrameBlock) : Nat := if b.sel = 3 then 96 else codeLength b.sel b.ys

/-- Index of the longest block that is not plain, the lower on a tie (R189). -/
def worstBlock : List FrameBlock → Nat → Option (Nat × Nat)
  | [], _ => none
  | b :: rest, i =>
    match worstBlock rest (i + 1) with
    | none => if b.sel = 3 then none else some (i, b.len)
    | some (j, l) => if b.sel ≠ 3 && l ≤ b.len then some (i, b.len) else some (j, l)

/-- Makes blocks plain until the stream fits (R189). -/
def fitFrame : Nat → List FrameBlock → List FrameBlock
  | 0, bs => bs
  | fuel + 1, bs =>
    if 816 < (bs.map FrameBlock.len).sum then
      match worstBlock bs 0 with
      | none => bs
      | some (i, _) => fitFrame fuel (bs.modify i makePlain)
    else bs

/-- Packs tokens (bits with first bit lowest, length) from the low end. -/
def packTokens : List (Nat × Nat) → Nat
  | [] => 0
  | (v, l) :: rest => v + (packTokens rest) <<< l

/-- The tokens of a block. -/
def FrameBlock.tokens (b : FrameBlock) : List (Nat × Nat) :=
  b.ys.map (fun y =>
    let (c, l) := (frameCodes b.sel).getD (e4m3Exp y) (0, 0)
    (streamBits c l, l))

/-- The nibble of an element: sign and mantissa (R185). -/
def nibble (y : Nat) : Nat := (y >>> 7) * 8 + y % 8

/-- `WriteFrame` (R185, R186): 240 bytes. -/
def writeFrame (bs : List FrameBlock) : List Byte :=
  let ys := bs.flatMap (·.ys)
  bytesOf (packNat 8 (bs.map (·.x))) 8 ++ bytesOf (packNat 2 (bs.map (·.sel))) 2
    ++ bytesOf (packNat 4 (ys.map nibble)) 128 ++ bytesOf (packTokens (bs.flatMap FrameBlock.tokens)) 102

/-- Splits a list into pieces of `k`, `n` of them. -/
def pieces {α : Type} (k : Nat) : Nat → List α → List (List α)
  | 0, _ => []
  | n + 1, l => l.take k :: pieces k n (l.drop k)

/-- `EncodeFrame` (R189): 256 FP32 patterns to 240 bytes, with the flags of the quantiser. -/
def encodeFrame (q B : Nat) (X0 : Option Nat) (v : List Nat) : List Byte × FFlags :=
  let qs := (pieces 32 8 v).map (quantise32 .e4m3 q B X0)
  let bs := qs.map (fun (X, ys, _) => FrameBlock.mk X (bestSel ys) ys)
  (writeFrame (fitFrame 8 bs), orFlags (qs.map (·.2.2)))

/-- The exponent whose code stands at the low end of the stream, with its length (R187). -/
def readToken (stream : Nat) : List (Nat × Nat) → Nat → Nat × Nat
  | [], _ => (0, 1)
  | (c, l) :: rest, e => if stream % 2 ^ l = streamBits c l then (e, l) else readToken stream rest (e + 1)

/-- Reads `n` exponents under a selector; answers them and the rest of the stream with the bits left. -/
def readExps (sel : Nat) : Nat → Nat → Nat → List Nat × Nat × Nat
  | 0, stream, used => ([], stream, used)
  | n + 1, stream, used =>
    let (e, l) := readToken stream (frameCodes sel) 0
    let (es, st, u) := readExps sel n (stream >>> l) (used + l)
    (e :: es, st, u)

/-- Reads the exponents of all blocks in stream order (R190). -/
def readBlocks : List Nat → Nat → Nat → List Nat × Nat
  | [], _, used => ([], used)
  | sel :: rest, stream, used =>
    let (es, st, u) := readExps sel 32 stream used
    let (more, u') := readBlocks rest st u
    (es ++ more, u')

/-- Decodes a frame (R190): the 256 elements as numbers, and whether the frame is malformed. -/
def decodeFrame (bytes : List Byte) : List FNum × Bool :=
  let scales := (bytes.take 8).map BitVec.toNat
  let sel := natOfBytes ((bytes.drop 8).take 2)
  let nib := natOfBytes ((bytes.drop 10).take 128)
  let stream := natOfBytes ((bytes.drop 138).take 102)
  let sels := (List.range 8).map (fun b => (sel >>> (2 * b)) % 4)
  let (es, used) := readBlocks sels stream 0
  if 816 < used then (List.replicate 256 (.nan false), true)
  else
    (es.zipIdx.map (fun (e, i) =>
      let nb := (nib >>> (4 * i)) % 16
      scaledNum .e4m3 (scales.getD (i / 32) 0) ((nb / 8) * 128 + e * 8 + nb % 8)), false)

/-- RNE32 of an exact number, with its flags. -/
def rne32 (x : FNum) : Nat × FFlags := f32.round .rne x false

end Sys2Proof.Machine
end

