-- ==== Sys2Proof/WellFormed.lean ====
section
/-! DEFINITION. Which instructions and events are well formed: the operand values the manual defines, where the type of
an operand allows more. A decoded instruction is well formed (R60, place 5). -/

namespace Sys2Proof

/-- The special registers of R128: 0 to 14 and 16 to 23. -/
def spDefined (sp : BitVec 6) : Bool := sp.toNat < 15 || (16 ≤ sp.toNat && sp.toNat < 24)

/-- The scopes a barrier serves (R82): `.quad` to `.join`. -/
def barScope : Scope → Bool
  | .str | .core | .sys => false
  | .quad | .sect | .die | .mod | .node | .pod | .part | .lnch | .join => true

/-- Tail slots that a TL value takes (R49). -/
def tailSlots (tl : BitVec 2) : Nat := if tl = 3#2 then 4 else tl.toNat

/-- Well-formedness of an instruction or event: register ranges (R223, R294, R296, R403), field widths (R149, R171),
special-register numbers (R128) and barrier scopes (R82). -/
def Instr.wf : Instr → Bool
  | .loop d _ => d != 0#5
  | .bfx _ _ _ p w => 1 ≤ w.toNat && p.toNat + w.toNat ≤ 64
  | .movs _ sp => spDefined sp && sp != 4#6 && sp != 5#6
  | .movt sp _ => spDefined sp && sp != 0#6 && sp != 4#6 && sp != 5#6
  | .ext sz _ _ => sz != .d
  | .vextrImm wide _ _ j => !wide || j.toNat < 8
  | .ldm n d _ _ => d.toNat + n.toNat < 32
  | .ldmT4 n d _ _ => d.toNat + n.toNat < 32
  | .stm n _ b _ => b.toNat + n.toNat < 32
  | .stmT4 n _ b _ => b.toNat + n.toNat < 32
  | .recv d _ => d.toNat ≤ 28
  | .recvArrival d _ => d.toNat ≤ 28
  | .send _ _ _ b => b.toNat ≤ 29
  | .sendx _ _ _ b => b.toNat ≤ 29
  | .sendLoopback _ _ _ b => b.toNat ≤ 28
  | .sendEndOverflow _ _ _ b => b.toNat ≤ 28
  | .bar sc _ _ => barScope sc
  | .bara sc _ _ _ => barScope sc
  | .svc n => n.toNat < 0x8000 || 0x8006 < n.toNat
  | .fqpop d _ _ => d.toNat ≤ 28
  | .reservedOpcode op _ tl t => 12 ≤ op.toNat % 16 && t.toNat < 2 ^ (16 * tailSlots tl)
  | .ill .. | .illT1 | .illT2 | .illT4 | .nop | .nopT1 | .nopT2 | .nopT4 | .br .. | .brc .. | .jmp ..
    | .call .. | .callr .. | .ret | .save | .restore | .kpt | .add .. | .sub .. | .addi .. | .addiT4 ..
    | .mul .. | .mulh .. | .div .. | .rem .. | .min .. | .max .. | .slt .. | .slti .. | .sltiT4 .. | .madd ..
    | .and .. | .or .. | .xor .. | .andn .. | .logi .. | .logiT4 .. | .shl .. | .shlImm .. | .shr ..
    | .shrImm .. | .sar .. | .sarImm .. | .rot .. | .rotImm .. | .clz .. | .popc .. | .mov .. | .movi ..
    | .moviT4 .. | .movhi .. | .sel .. | .lea .. | .leaT4 .. | .movsWptr .. | .movsSsp .. | .movtSts ..
    | .movtWptr .. | .movtSsp .. | .ids .. | .clk .. | .rng .. | .cmp .. | .cmpImm .. | .fadd .. | .fsub ..
    | .fmul .. | .ffma .. | .fdiv .. | .fsqrt .. | .fmin .. | .fmax .. | .fcmp .. | .fcvt .. | .fsgn ..
    | .fcls .. | .vadd .. | .vsub .. | .vmul .. | .vand .. | .vor .. | .vxor .. | .vshift .. | .vminmax ..
    | .vsel .. | .vbcast .. | .vperm .. | .vextr .. | .vfadd .. | .vfsub .. | .vfmul .. | .vffma ..
    | .vfmin .. | .vfmax .. | .vfrcp .. | .vfrsq .. | .vfexp .. | .vfcmp .. | .vfred .. | .vrng .. | .fmt ..
    | .rlx | .vcvt .. | .vq8 .. | .vdq8 .. | .vscale .. | .kand .. | .kmov .. | .kmovFx .. | .kmovTx ..
    | .vdrop | .vpack .. | .vunpk .. | .vclamp .. | .ld .. | .ldT4 .. | .ldv .. | .ldvT4 .. | .ldvs ..
    | .ldvsT4 .. | .ldvg .. | .ldvgT4 .. | .ldl .. | .ldlv .. | .ldfe .. | .ldfeT4 .. | .ldff .. | .ldffT4 ..
    | .ldfs .. | .ldfsT4 .. | .ldx .. | .ldxT4 .. | .ldnp .. | .ldnpT4 .. | .st .. | .stT4 .. | .stv ..
    | .stvT4 .. | .stvs .. | .stvsT4 .. | .stvg .. | .stvgT4 .. | .stl .. | .stlv .. | .stef .. | .stefT4 ..
    | .stff .. | .stffT4 .. | .fesetE .. | .fesetET4 .. | .fesetF .. | .fesetFT4 .. | .stx .. | .stxT4 ..
    | .stnp .. | .stnpT4 .. | .aadd .. | .aaddT4 .. | .amin .. | .aminT4 .. | .amax .. | .amaxT4 ..
    | .aand .. | .aandT4 .. | .aor .. | .aorT4 .. | .axor .. | .axorT4 .. | .aswp .. | .aswpT4 .. | .acas ..
    | .acasT4 .. | .afadd .. | .afaddT4 .. | .fence .. | .waita | .bhintPf .. | .bhintPfT4 .. | .bhintPin ..
    | .bhintPinT4 .. | .bhintUnpin .. | .bhintUnpinT4 .. | .bhintEv .. | .bhintEvT4 .. | .spawn ..
    | .spawnLabel .. | .quit | .launch .. | .yield | .migrate .. | .migrateNear ..
    | .waitm | .trigarm .. | .tqpush .. | .tqstat ..
    | .tkill .. | .tcont .. | .accal .. | .accfr .. | .accld .. | .accst .. | .accz .. | .ssmrun ..
    | .ssmstat .. | .tseq .. | .jinit .. | .jarrive .. | .jcontrib .. | .jwait .. | .jqrySt .. | .jqryWt ..
    | .jkill .. | .jroster .. | .jreplay .. | .jclose .. | .kmaskOff | .kmaskOn | .jbind .. | .jrel ..
    | .copy .. | .copys .. | .deal .. | .enck .. | .deck .. | .redc .. | .bcast .. | .lease .. | .unlease ..
    | .mbxst .. | .trigset .. | .trigrd .. | .trap .. | .tret | .lend | .smove | .sreg | .sret | .pspill
    | .sstep | .flog | .gstop | .gres | .tlbiG .. | .tlbiH .. | .tlbiAsid .. | .tlbiAll | .fqrepReplay ..
    | .fqrepGiveup .. | .pgmap .. | .slice .. | .prtnQry .. | .prtnSplit .. | .prtnMerge .. | .wfe
    | .queuePortLaunch | .queuePortOtherKind | .launchStrandCreate | .strandArrival | .wordRequestAnswer
    | .postedWriteDrain | .spillSector | .slotPatienceExpiry | .wordWaiterRetry | .fetchStart | .fetchDone
    | .fetchFault | .writeBackDone | .launchSweep | .messageArrival | .arrivalQueueAdmit | .movementDispatch
    | .movementSegmentEnd | .movementComplete | .movementFault | .leasePeriodEnd | .triggeredEnqueue
    | .taskKblockEnd | .taskFault | .taskComplete | .engineFailure | .ssmUnitEnd | .ssmUnitFault
    | .joinDeferredArrival | .joinFoldDone | .joinFoldFault | .faultPostRetry | .sliceExpiry | .sliceOverrun
    | .ldxTimeout | .rtaArm | .rtaActRead | .rtaArmExpiry | .writeBackScan | .flashWriteComplete
    | .hostAccess | .linkPortFailure | .dieReset | .dieReturn | .hbmStackLoss | .rowRemapFailure | .scrubPass
    | .clockStretch | .vfReplan | .imageVerify | .moduleMemoryInit | .crst | .msrWrite | .ahashWrite
    | .pewcfgWrite | .stackCounterClear | .partitionRecordCommit | .partitionDissolve | .serviceSpaceWrite
    | .hmapStore | .pinqStore | .controlRegionWrite | .movementEngineFailure | .remoteAccessArrival
    | .remoteBarrierArrival | .storagePortAccess | .backgroundClearing | .virtualFunctionReset | .moduleReset
    | .podFormation | .queuePortAssignment => true

end Sys2Proof
end

