-- ==== Sys2Proof/Decode.lean ====
section
/-! DEFINITION. Instruction lines and the decoding of one instruction (R41 to R53, R60), then the encoder, written from the
same tables (R49, R51, R81 to R91). -/

namespace Sys2Proof

/-- The d, a, b and x fields of a tail's low slot, and its immediates (R51). -/
def Tail.d (t : BitVec 64) : BitVec 5 := t.extractLsb' 0 5
/-- First source field (R51). -/
def Tail.a (t : BitVec 64) : BitVec 5 := t.extractLsb' 5 5
/-- Second source field (R51). -/
def Tail.b (t : BitVec 64) : BitVec 5 := t.extractLsb' 10 5
/-- The operand bit x (R51). -/
def Tail.x (t : BitVec 64) : BitVec 1 := t.extractLsb' 15 1
/-- The T2 immediate (R51). -/
def Tail.imm16 (t : BitVec 64) : BitVec 16 := t.extractLsb' 16 16
/-- The T4 immediate (R51). -/
def Tail.imm48 (t : BitVec 64) : BitVec 48 := t.extractLsb' 16 48

/-- A tail from its fields, the immediate above the low slot (R51). -/
def mkTail (imm : BitVec 48) (x : BitVec 1) (b a d : BitVec 5) : BitVec 64 := imm ++ x ++ b ++ a ++ d

/-- One modifier bit. -/
def bit (b : Bool) : BitVec 1 := BitVec.ofBool b

/-- A vector register field (R52): 0 to 7. -/
def toVReg (f : BitVec 5) : Option VReg := if f.toNat < 8 then some (f.extractLsb' 0 3) else none
/-- A mask register field (R52): 8 to 11. -/
def toKReg (f : BitVec 5) : Option KReg := if 8 ≤ f.toNat && f.toNat < 12 then some (f.extractLsb' 0 2) else none
/-- The field of a vector register (R52). -/
def ofVReg (v : VReg) : BitVec 5 := 0#2 ++ v
/-- The field of a mask register (R52). -/
def ofKReg (k : KReg) : BitVec 5 := 2#3 ++ k

/-- Keeps an instruction only if its operands are ones the manual defines (R60, place 5). -/
def needWf (i : Instr) : Option Instr := if i.wf then some i else none

/-- The code of a `Scope` (R82). -/
def Scope.toCode : Scope → BitVec 4
  | .str => 0#4 | .core => 1#4 | .quad => 2#4 | .sect => 3#4 | .die => 4#4 | .mod => 5#4 | .node => 6#4 | .pod => 7#4 | .part => 8#4 | .lnch => 9#4 | .join => 10#4 | .sys => 11#4

/-- The `Scope` of a code (R82); other codes are illegal operands (R50). -/
def Scope.ofCode (m : BitVec 4) : Option Scope :=
  match m.toNat with
  | 0 => some .str | 1 => some .core | 2 => some .quad | 3 => some .sect | 4 => some .die | 5 => some .mod | 6 => some .node | 7 => some .pod | 8 => some .part | 9 => some .lnch | 10 => some .join | 11 => some .sys | _ => none

/-- The code of a `Cond` (R83). -/
def Cond.toCode : Cond → BitVec 4
  | .eq => 0#4 | .ne => 1#4 | .lt => 2#4 | .ge => 3#4 | .le => 4#4 | .gt => 5#4 | .lo => 6#4 | .hs => 7#4 | .ls => 8#4 | .hi => 9#4

/-- The `Cond` of a code (R83); other codes are illegal operands (R50). -/
def Cond.ofCode (m : BitVec 4) : Option Cond :=
  match m.toNat with
  | 0 => some .eq | 1 => some .ne | 2 => some .lt | 3 => some .ge | 4 => some .le | 5 => some .gt | 6 => some .lo | 7 => some .hs | 8 => some .ls | 9 => some .hi | _ => none

/-- The code of a `FCond` (R85). -/
def FCond.toCode : FCond → BitVec 3
  | .eq => 0#3 | .lt => 1#3 | .le => 2#3 | .un => 3#3 | .ne => 4#3 | .ge => 5#3 | .gt => 6#3 | .or => 7#3

/-- The `FCond` of a code (R85); other codes are illegal operands (R50). -/
def FCond.ofCode (m : BitVec 3) : Option FCond :=
  match m.toNat with
  | 0 => some .eq | 1 => some .lt | 2 => some .le | 3 => some .un | 4 => some .ne | 5 => some .ge | 6 => some .gt | 7 => some .or | _ => none

/-- The code of a `Rnd` (R84). -/
def Rnd.toCode : Rnd → BitVec 3
  | .dyn => 0#3 | .rne => 1#3 | .rtz => 2#3 | .rup => 3#3 | .rdn => 4#3

/-- The `Rnd` of a code (R84); other codes are illegal operands (R50). -/
def Rnd.ofCode (m : BitVec 3) : Option Rnd :=
  match m.toNat with
  | 0 => some .dyn | 1 => some .rne | 2 => some .rtz | 3 => some .rup | 4 => some .rdn | _ => none

/-- The code of a `LdSize` (R86). -/
def LdSize.toCode : LdSize → BitVec 4
  | .d => 0#4 | .wz => 1#4 | .ws => 2#4 | .hz => 3#4 | .hs => 4#4 | .bz => 5#4 | .bs => 6#4

/-- The `LdSize` of a code (R86); other codes are illegal operands (R50). -/
def LdSize.ofCode (m : BitVec 4) : Option LdSize :=
  match m.toNat with
  | 0 => some .d | 1 => some .wz | 2 => some .ws | 3 => some .hz | 4 => some .hs | 5 => some .bz | 6 => some .bs | _ => none

/-- The code of a `StSize` (R86). -/
def StSize.toCode : StSize → BitVec 4
  | .d => 0#4 | .w => 1#4 | .h => 2#4 | .b => 3#4

/-- The `StSize` of a code (R86); other codes are illegal operands (R50). -/
def StSize.ofCode (m : BitVec 4) : Option StSize :=
  match m.toNat with
  | 0 => some .d | 1 => some .w | 2 => some .h | 3 => some .b | _ => none

/-- The code of a `LogOp` (R90). -/
def LogOp.toCode : LogOp → BitVec 4
  | .and => 0#4 | .or => 1#4 | .xor => 2#4 | .andn => 3#4

/-- The `LogOp` of a code (R90); other codes are illegal operands (R50). -/
def LogOp.ofCode (m : BitVec 4) : Option LogOp :=
  match m.toNat with
  | 0 => some .and | 1 => some .or | 2 => some .xor | 3 => some .andn | _ => none

/-- The code of a `FcvtCode` (R91). -/
def FcvtCode.toCode : FcvtCode → BitVec 4
  | .ds => 0#4 | .sd => 1#4 | .ld => 2#4 | .ls => 3#4 | .dl => 4#4 | .sl => 5#4 | .wd => 6#4 | .ws => 7#4 | .dw => 8#4 | .sw => 9#4

/-- The `FcvtCode` of a code (R91); other codes are illegal operands (R50). -/
def FcvtCode.ofCode (m : BitVec 4) : Option FcvtCode :=
  match m.toNat with
  | 0 => some .ds | 1 => some .sd | 2 => some .ld | 3 => some .ls | 4 => some .dl | 5 => some .sl | 6 => some .wd | 7 => some .ws | 8 => some .dw | 9 => some .sw | _ => none

/-- The code of a `SgnOp` (R170). -/
def SgnOp.toCode : SgnOp → BitVec 2
  | .cpy => 0#2 | .ncpy => 1#2 | .xsg => 2#2

/-- The `SgnOp` of a code (R170); other codes are illegal operands (R50). -/
def SgnOp.ofCode (m : BitVec 2) : Option SgnOp :=
  match m.toNat with
  | 0 => some .cpy | 1 => some .ncpy | 2 => some .xsg | _ => none

/-- The code of a `VShiftOp` (R90). -/
def VShiftOp.toCode : VShiftOp → BitVec 2
  | .shl => 0#2 | .shr => 1#2 | .sar => 2#2 | .rot => 3#2

/-- The `VShiftOp` of a code (R90); other codes are illegal operands (R50). -/
def VShiftOp.ofCode (m : BitVec 2) : Option VShiftOp :=
  match m.toNat with
  | 0 => some .shl | 1 => some .shr | 2 => some .sar | 3 => some .rot | _ => none

/-- The code of a `RedOp` (R174). -/
def RedOp.toCode : RedOp → BitVec 2
  | .sum => 0#2 | .min => 1#2 | .max => 2#2

/-- The `RedOp` of a code (R174); other codes are illegal operands (R50). -/
def RedOp.ofCode (m : BitVec 2) : Option RedOp :=
  match m.toNat with
  | 0 => some .sum | 1 => some .min | 2 => some .max | _ => none

/-- The code of a `Fmt` (R88). -/
def Fmt.toCode : Fmt → BitVec 4
  | .f32 => 0#4 | .f64 => 1#4 | .bf16 => 2#4 | .e4m3 => 3#4 | .e5m2 => 4#4 | .e8m0 => 5#4 | .fp8k => 6#4 | .i8 => 7#4 | .i16 => 8#4 | .i32 => 9#4

/-- The `Fmt` of a code (R88); other codes are illegal operands (R50). -/
def Fmt.ofCode (m : BitVec 4) : Option Fmt :=
  match m.toNat with
  | 0 => some .f32 | 1 => some .f64 | 2 => some .bf16 | 3 => some .e4m3 | 4 => some .e5m2 | 5 => some .e8m0 | 6 => some .fp8k | 7 => some .i8 | 8 => some .i16 | 9 => some .i32 | _ => none

/-- The code of a `Fp8` (R88). -/
def Fp8.toCode : Fp8 → BitVec 4
  | .e4m3 => 3#4 | .e5m2 => 4#4

/-- The `Fp8` of a code (R88); other codes are illegal operands (R50). -/
def Fp8.ofCode (m : BitVec 4) : Option Fp8 :=
  match m.toNat with
  | 3 => some .e4m3 | 4 => some .e5m2 | _ => none

/-- The code of a `PackFmt` (R201). -/
def PackFmt.toCode : PackFmt → BitVec 4
  | .bf16 => 2#4 | .e4m3 => 3#4 | .e5m2 => 4#4 | .i8 => 7#4 | .i16 => 8#4

/-- The `PackFmt` of a code (R201); other codes are illegal operands (R50). -/
def PackFmt.ofCode (m : BitVec 4) : Option PackFmt :=
  match m.toNat with
  | 2 => some .bf16 | 3 => some .e4m3 | 4 => some .e5m2 | 7 => some .i8 | 8 => some .i16 | _ => none

/-- The code of a `IdsSel` (R152). -/
def IdsSel.toCode : IdsSel → BitVec 4
  | .core => 0#4 | .die => 1#4 | .slot => 2#4 | .part => 3#4 | .mod => 4#4

/-- The `IdsSel` of a code (R152); other codes are illegal operands (R50). -/
def IdsSel.ofCode (m : BitVec 4) : Option IdsSel :=
  match m.toNat with
  | 0 => some .core | 1 => some .die | 2 => some .slot | 3 => some .part | 4 => some .mod | _ => none

/-- The code of a `SpawnPri` (R108). -/
def SpawnPri.toCode : SpawnPri → BitVec 4
  | .inherit => 0#4 | .p0 => 4#4 | .p1 => 5#4 | .p2 => 6#4 | .p3 => 7#4

/-- The `SpawnPri` of a code (R108); other codes are illegal operands (R50). -/
def SpawnPri.ofCode (m : BitVec 4) : Option SpawnPri :=
  match m.toNat with
  | 0 => some .inherit | 4 => some .p0 | 5 => some .p1 | 6 => some .p2 | 7 => some .p3 | _ => none

/-- The code of a `Prec` (R84). -/
def Prec.toCode : Prec → BitVec 4
  | .s => 0#4 | .d => 1#4

/-- The `Prec` of a code (R84); other codes are illegal operands (R50). -/
def Prec.ofCode (m : BitVec 4) : Option Prec :=
  match m.toNat with
  | 0 => some .s | 1 => some .d | _ => none

/-- PREC in modifier bit 0 (R84). -/
def Prec.ofBit (b : Bool) : Prec := if b then .d else .s
/-- PREC in modifier bit 0 (R84). -/
def Prec.toBit : Prec → BitVec 1
  | .s => 0#1 | .d => 1#1

/-- The vec family (R87): bit 3 says masked, bit 2 the lane width, bits 1:0 the mask, zero where bit 3 is clear. -/
def VecM.ofCode (m : BitVec 4) : Option VecM :=
  if m.getLsbD 3 then some ⟨m.getLsbD 2, some (m.extractLsb' 0 2)⟩
  else if m.extractLsb' 0 2 = 0#2 then some ⟨m.getLsbD 2, none⟩ else none
/-- The code of a vec modifier (R87). -/
def VecM.toCode (v : VecM) : BitVec 4 :=
  match v.mask with
  | some k => 1#1 ++ bit v.wide ++ k
  | none => 0#1 ++ bit v.wide ++ 0#2

/-- `MOVS` (R138): register 4 is the spilling read of WPTR and 5 the read of SSP. -/
def decodeMovs (d : Reg) (sp : BitVec 6) : Option Instr :=
  if sp = 4#6 then some (.movsWptr d) else if sp = 5#6 then some (.movsSsp d) else needWf (.movs d sp)

/-- `MOVT` (R131, R138): STS, WPTR and SSP have forms of their own. -/
def decodeMovt (sp : BitVec 6) (a : Reg) : Option Instr :=
  if sp = 0#6 then some (.movtSts a) else if sp = 4#6 then some (.movtWptr a)
  else if sp = 5#6 then some (.movtSsp a) else needWf (.movt sp a)

/-- `SVC` (R251): numbers 0x8000 to 0x8006 are the supervisor services of R252. -/
def decodeSvc (n : BitVec 16) : Instr :=
  match n.toNat with
  | 0x8000 => .lend | 0x8001 => .smove | 0x8002 => .sreg | 0x8003 => .sret
  | 0x8004 => .pspill | 0x8005 => .sstep | 0x8006 => .flog
  | _ => .svc n

/-- Row 0 of the map (R90): the operands of the opcode in column `col`. -/
def decodeRow0 (col : Nat) (tl : BitVec 2) (m : BitVec 4) (t : BitVec 64) : Option Instr :=
  match col with
  | 0 => some (if tl = 0#2 then .ill m else if tl = 1#2 then .illT1 else if tl = 2#2 then .illT2 else .illT4)
  | 1 => if m == 0#4 then some (if tl = 0#2 then .nop else if tl = 1#2 then .nopT1 else if tl = 2#2 then .nopT2 else .nopT4) else none
  | 2 => if m == 0#4 then some (.br (t.extractLsb' 0 16)) else none
  | 3 => if Tail.d t == 0#5 && Tail.x t == 0#1 then (match Cond.ofCode m with | some c => some (.brc c (Tail.a t) (Tail.b t) (Tail.imm16 t)) | _ => none) else none
  | 4 => if m == 0#4 && Tail.d t == 0#5 && Tail.b t == 0#5 && Tail.x t == 0#1 then some (.jmp (Tail.a t)) else none
  | 5 => if m == 0#4 then some (.call (t.extractLsb' 0 16)) else none
  | 6 => if m == 0#4 && Tail.d t == 0#5 && Tail.b t == 0#5 && Tail.x t == 0#1 then some (.callr (Tail.a t)) else none
  | 7 => if m == 0#4 then some (.ret) else none
  | 8 => if m == 0#4 then some (.save) else none
  | 9 => if m == 0#4 then some (.restore) else none
  | 10 => if m == 0#4 && Tail.a t == 0#5 && Tail.b t == 0#5 && Tail.x t == 0#1 then needWf (.loop (Tail.d t) (Tail.imm16 t)) else none
  | 11 => if m == 0#4 then some (.kpt) else none
  | _ => none

/-- Row 1 of the map (R90): the operands of the opcode in column `col`. -/
def decodeRow1 (col : Nat) (tl : BitVec 2) (m : BitVec 4) (t : BitVec 64) : Option Instr :=
  match col with
  | 0 => if m == 0#4 && Tail.x t == 0#1 then some (.add (Tail.d t) (Tail.a t) (Tail.b t)) else none
  | 1 => if m == 0#4 && Tail.x t == 0#1 then some (.sub (Tail.d t) (Tail.a t) (Tail.b t)) else none
  | 2 => if tl = 2#2 then (if m == 0#4 && Tail.b t == 0#5 && Tail.x t == 0#1 then some (.addi (Tail.d t) (Tail.a t) (Tail.imm16 t)) else none) else if m == 0#4 && Tail.b t == 0#5 && Tail.x t == 0#1 then some (.addiT4 (Tail.d t) (Tail.a t) (Tail.imm48 t)) else none
  | 3 => if m == 0#4 && Tail.x t == 0#1 then some (.mul (Tail.d t) (Tail.a t) (Tail.b t)) else none
  | 4 => if m.toNat < 2 && Tail.x t == 0#1 then some (.mulh (m.getLsbD 0) (Tail.d t) (Tail.a t) (Tail.b t)) else none
  | 5 => if m.toNat < 2 && Tail.x t == 0#1 then some (.div (m.getLsbD 0) (Tail.d t) (Tail.a t) (Tail.b t)) else none
  | 6 => if m.toNat < 2 && Tail.x t == 0#1 then some (.rem (m.getLsbD 0) (Tail.d t) (Tail.a t) (Tail.b t)) else none
  | 7 => if m.toNat < 2 && Tail.x t == 0#1 then some (.min (m.getLsbD 0) (Tail.d t) (Tail.a t) (Tail.b t)) else none
  | 8 => if m.toNat < 2 && Tail.x t == 0#1 then some (.max (m.getLsbD 0) (Tail.d t) (Tail.a t) (Tail.b t)) else none
  | 9 => if m.toNat < 2 && Tail.x t == 0#1 then some (.slt (m.getLsbD 0) (Tail.d t) (Tail.a t) (Tail.b t)) else none
  | 10 => if tl = 2#2 then (if m.toNat < 2 && Tail.b t == 0#5 && Tail.x t == 0#1 then some (.slti (m.getLsbD 0) (Tail.d t) (Tail.a t) (Tail.imm16 t)) else none) else if m.toNat < 2 && Tail.b t == 0#5 && Tail.x t == 0#1 then some (.sltiT4 (m.getLsbD 0) (Tail.d t) (Tail.a t) (Tail.imm48 t)) else none
  | 11 => if m == 0#4 && Tail.x t == 0#1 then some (.madd (Tail.d t) (Tail.a t) (Tail.b t)) else none
  | _ => none

/-- Row 2 of the map (R90): the operands of the opcode in column `col`. -/
def decodeRow2 (col : Nat) (tl : BitVec 2) (m : BitVec 4) (t : BitVec 64) : Option Instr :=
  match col with
  | 0 => if m == 0#4 && Tail.x t == 0#1 then some (.and (Tail.d t) (Tail.a t) (Tail.b t)) else none
  | 1 => if m == 0#4 && Tail.x t == 0#1 then some (.or (Tail.d t) (Tail.a t) (Tail.b t)) else none
  | 2 => if m == 0#4 && Tail.x t == 0#1 then some (.xor (Tail.d t) (Tail.a t) (Tail.b t)) else none
  | 3 => if m == 0#4 && Tail.x t == 0#1 then some (.andn (Tail.d t) (Tail.a t) (Tail.b t)) else none
  | 4 => if tl = 2#2 then (if Tail.b t == 0#5 && Tail.x t == 0#1 then (match LogOp.ofCode m with | some op => some (.logi op (Tail.d t) (Tail.a t) (Tail.imm16 t)) | _ => none) else none) else if Tail.b t == 0#5 && Tail.x t == 0#1 then (match LogOp.ofCode m with | some op => some (.logiT4 op (Tail.d t) (Tail.a t) (Tail.imm48 t)) | _ => none) else none
  | 5 => if tl = 1#2 then (if m == 0#4 && Tail.x t == 0#1 then some (.shl (Tail.d t) (Tail.a t) (Tail.b t)) else none) else if m == 0#4 && Tail.b t == 0#5 && (Tail.imm16 t).toNat < 64 && Tail.x t == 0#1 then some (.shlImm (Tail.d t) (Tail.a t) ((Tail.imm16 t).extractLsb' 0 6)) else none
  | 6 => if tl = 1#2 then (if m == 0#4 && Tail.x t == 0#1 then some (.shr (Tail.d t) (Tail.a t) (Tail.b t)) else none) else if m == 0#4 && Tail.b t == 0#5 && (Tail.imm16 t).toNat < 64 && Tail.x t == 0#1 then some (.shrImm (Tail.d t) (Tail.a t) ((Tail.imm16 t).extractLsb' 0 6)) else none
  | 7 => if tl = 1#2 then (if m == 0#4 && Tail.x t == 0#1 then some (.sar (Tail.d t) (Tail.a t) (Tail.b t)) else none) else if m == 0#4 && Tail.b t == 0#5 && (Tail.imm16 t).toNat < 64 && Tail.x t == 0#1 then some (.sarImm (Tail.d t) (Tail.a t) ((Tail.imm16 t).extractLsb' 0 6)) else none
  | 8 => if tl = 1#2 then (if m == 0#4 && Tail.x t == 0#1 then some (.rot (Tail.d t) (Tail.a t) (Tail.b t)) else none) else if m == 0#4 && Tail.b t == 0#5 && (Tail.imm16 t).toNat < 64 && Tail.x t == 0#1 then some (.rotImm (Tail.d t) (Tail.a t) ((Tail.imm16 t).extractLsb' 0 6)) else none
  | 9 => if m == 0#4 && Tail.b t == 0#5 && Tail.x t == 0#1 then some (.clz (Tail.d t) (Tail.a t)) else none
  | 10 => if m == 0#4 && Tail.b t == 0#5 && Tail.x t == 0#1 then some (.popc (Tail.d t) (Tail.a t)) else none
  | 11 => if m.toNat < 2 && Tail.b t == 0#5 && (Tail.imm16 t).extractLsb' 13 3 == 0#3 && Tail.x t == 0#1 then needWf (.bfx (m.getLsbD 0) (Tail.d t) (Tail.a t) ((Tail.imm16 t).extractLsb' 0 6) ((Tail.imm16 t).extractLsb' 6 7)) else none
  | _ => none

/-- Row 3 of the map (R90): the operands of the opcode in column `col`. -/
def decodeRow3 (col : Nat) (tl : BitVec 2) (m : BitVec 4) (t : BitVec 64) : Option Instr :=
  match col with
  | 0 => if m == 0#4 && Tail.b t == 0#5 && Tail.x t == 0#1 then some (.mov (Tail.d t) (Tail.a t)) else none
  | 1 => if tl = 2#2 then (if m == 0#4 && Tail.a t == 0#5 && Tail.b t == 0#5 && Tail.x t == 0#1 then some (.movi (Tail.d t) (Tail.imm16 t)) else none) else if m == 0#4 && Tail.a t == 0#5 && Tail.b t == 0#5 && Tail.x t == 0#1 then some (.moviT4 (Tail.d t) (Tail.imm48 t)) else none
  | 2 => if m.toNat < 4 && Tail.a t == 0#5 && Tail.b t == 0#5 && Tail.x t == 0#1 then some (.movhi (m.extractLsb' 0 2) (Tail.d t) (Tail.imm16 t)) else none
  | 3 => if m == 0#4 && Tail.x t == 0#1 then some (.sel (Tail.d t) (Tail.a t) (Tail.b t)) else none
  | 4 => if tl = 2#2 then (if m == 0#4 && Tail.b t == 0#5 && Tail.x t == 0#1 then some (.lea (Tail.d t) (Tail.a t) (Tail.imm16 t)) else none) else if m == 0#4 && Tail.b t == 0#5 && Tail.x t == 0#1 then some (.leaT4 (Tail.d t) (Tail.a t) (Tail.imm48 t)) else none
  | 5 => if m == 0#4 && Tail.b t == 0#5 then decodeMovs (Tail.d t) (Tail.x t ++ Tail.a t) else none
  | 6 => if m == 0#4 && Tail.b t == 0#5 then decodeMovt (Tail.x t ++ Tail.d t) (Tail.a t) else none
  | 7 => if Tail.a t == 0#5 && Tail.b t == 0#5 && Tail.x t == 0#1 then (match IdsSel.ofCode m with | some q => some (.ids q (Tail.d t)) | _ => none) else none
  | 8 => if m == 0#4 && Tail.a t == 0#5 && Tail.b t == 0#5 && Tail.x t == 0#1 then some (.clk (Tail.d t)) else none
  | 9 => if m == 0#4 && Tail.x t == 0#1 then some (.rng (Tail.d t) (Tail.a t) (Tail.b t)) else none
  | 10 => if tl = 1#2 then (if Tail.x t == 0#1 then (match Cond.ofCode m with | some c => some (.cmp c (Tail.d t) (Tail.a t) (Tail.b t)) | _ => none) else none) else if Tail.b t == 0#5 && Tail.x t == 0#1 then (match Cond.ofCode m with | some c => some (.cmpImm c (Tail.d t) (Tail.a t) (Tail.imm16 t)) | _ => none) else none
  | 11 => if Tail.b t == 0#5 && Tail.x t == 0#1 then (match LdSize.ofCode m with | some sz => needWf (.ext sz (Tail.d t) (Tail.a t)) | _ => none) else none
  | _ => none

/-- Row 4 of the map (R90): the operands of the opcode in column `col`. -/
def decodeRow4 (col : Nat) (_ : BitVec 2) (m : BitVec 4) (t : BitVec 64) : Option Instr :=
  match col with
  | 0 => if Tail.x t == 0#1 then (match Rnd.ofCode (m.extractLsb' 1 3) with | some r => some (.fadd r (Prec.ofBit (m.getLsbD 0)) (Tail.d t) (Tail.a t) (Tail.b t)) | _ => none) else none
  | 1 => if Tail.x t == 0#1 then (match Rnd.ofCode (m.extractLsb' 1 3) with | some r => some (.fsub r (Prec.ofBit (m.getLsbD 0)) (Tail.d t) (Tail.a t) (Tail.b t)) | _ => none) else none
  | 2 => if Tail.x t == 0#1 then (match Rnd.ofCode (m.extractLsb' 1 3) with | some r => some (.fmul r (Prec.ofBit (m.getLsbD 0)) (Tail.d t) (Tail.a t) (Tail.b t)) | _ => none) else none
  | 3 => if Tail.x t == 0#1 then (match Rnd.ofCode (m.extractLsb' 1 3) with | some r => some (.ffma r (Prec.ofBit (m.getLsbD 0)) (Tail.d t) (Tail.a t) (Tail.b t)) | _ => none) else none
  | 4 => if Tail.x t == 0#1 then (match Rnd.ofCode (m.extractLsb' 1 3) with | some r => some (.fdiv r (Prec.ofBit (m.getLsbD 0)) (Tail.d t) (Tail.a t) (Tail.b t)) | _ => none) else none
  | 5 => if Tail.b t == 0#5 && Tail.x t == 0#1 then (match Rnd.ofCode (m.extractLsb' 1 3) with | some r => some (.fsqrt r (Prec.ofBit (m.getLsbD 0)) (Tail.d t) (Tail.a t)) | _ => none) else none
  | 6 => if Tail.x t == 0#1 then (match Prec.ofCode m with | some p => some (.fmin p (Tail.d t) (Tail.a t) (Tail.b t)) | _ => none) else none
  | 7 => if Tail.x t == 0#1 then (match Prec.ofCode m with | some p => some (.fmax p (Tail.d t) (Tail.a t) (Tail.b t)) | _ => none) else none
  | 8 => if Tail.x t == 0#1 then (match FCond.ofCode (m.extractLsb' 1 3) with | some c => some (.fcmp c (Prec.ofBit (m.getLsbD 0)) (Tail.d t) (Tail.a t) (Tail.b t)) | _ => none) else none
  | 9 => if Tail.b t == 0#5 && Tail.x t == 0#1 then (match FcvtCode.ofCode m with | some k => some (.fcvt k (Tail.d t) (Tail.a t)) | _ => none) else none
  | 10 => if !m.getLsbD 3 && Tail.x t == 0#1 then (match SgnOp.ofCode (m.extractLsb' 1 2) with | some op => some (.fsgn op (Prec.ofBit (m.getLsbD 0)) (Tail.d t) (Tail.a t) (Tail.b t)) | _ => none) else none
  | 11 => if Tail.b t == 0#5 && Tail.x t == 0#1 then (match Prec.ofCode m with | some p => some (.fcls p (Tail.d t) (Tail.a t)) | _ => none) else none
  | _ => none

/-- Row 5 of the map (R90): the operands of the opcode in column `col`. -/
def decodeRow5 (col : Nat) (tl : BitVec 2) (m : BitVec 4) (t : BitVec 64) : Option Instr :=
  match col with
  | 0 => if Tail.x t == 0#1 then (match VecM.ofCode m, toVReg (Tail.d t), toVReg (Tail.a t), toVReg (Tail.b t) with | some m, some d, some a, some b => some (.vadd m d a b) | _, _, _, _ => none) else none
  | 1 => if Tail.x t == 0#1 then (match VecM.ofCode m, toVReg (Tail.d t), toVReg (Tail.a t), toVReg (Tail.b t) with | some m, some d, some a, some b => some (.vsub m d a b) | _, _, _, _ => none) else none
  | 2 => if Tail.x t == 0#1 then (match VecM.ofCode m, toVReg (Tail.d t), toVReg (Tail.a t), toVReg (Tail.b t) with | some m, some d, some a, some b => some (.vmul m d a b) | _, _, _, _ => none) else none
  | 3 => if Tail.x t == 0#1 then (match VecM.ofCode m, toVReg (Tail.d t), toVReg (Tail.a t), toVReg (Tail.b t) with | some m, some d, some a, some b => some (.vand m d a b) | _, _, _, _ => none) else none
  | 4 => if Tail.x t == 0#1 then (match VecM.ofCode m, toVReg (Tail.d t), toVReg (Tail.a t), toVReg (Tail.b t) with | some m, some d, some a, some b => some (.vor m d a b) | _, _, _, _ => none) else none
  | 5 => if Tail.x t == 0#1 then (match VecM.ofCode m, toVReg (Tail.d t), toVReg (Tail.a t), toVReg (Tail.b t) with | some m, some d, some a, some b => some (.vxor m d a b) | _, _, _, _ => none) else none
  | 6 => if !m.getLsbD 3 && Tail.x t == 0#1 then (match VShiftOp.ofCode (m.extractLsb' 0 2), toVReg (Tail.d t), toVReg (Tail.a t), toVReg (Tail.b t) with | some op, some d, some a, some b => some (.vshift op (m.getLsbD 2) d a b) | _, _, _, _ => none) else none
  | 7 => if !m.getLsbD 3 && Tail.x t == 0#1 then (match toVReg (Tail.d t), toVReg (Tail.a t), toVReg (Tail.b t) with | some d, some a, some b => some (.vminmax (m.getLsbD 0) (m.getLsbD 1) (m.getLsbD 2) d a b) | _, _, _ => none) else none
  | 8 => if m.getLsbD 3 && Tail.x t == 0#1 then (match toVReg (Tail.d t), toVReg (Tail.a t), toVReg (Tail.b t) with | some d, some a, some b => some (.vsel (m.getLsbD 2) (m.extractLsb' 0 2) d a b) | _, _, _ => none) else none
  | 9 => if !m.getLsbD 0 && !m.getLsbD 1 && !m.getLsbD 3 && Tail.b t == 0#5 && Tail.x t == 0#1 then (match toVReg (Tail.d t) with | some d => some (.vbcast (m.getLsbD 2) d (Tail.a t)) | _ => none) else none
  | 10 => if !m.getLsbD 0 && !m.getLsbD 1 && !m.getLsbD 3 && Tail.x t == 0#1 then (match toVReg (Tail.d t), toVReg (Tail.a t), toVReg (Tail.b t) with | some d, some a, some b => some (.vperm (m.getLsbD 2) d a b) | _, _, _ => none) else none
  | 11 => if tl = 1#2 then (if !m.getLsbD 0 && !m.getLsbD 1 && !m.getLsbD 3 && Tail.x t == 0#1 then (match toVReg (Tail.a t) with | some a => some (.vextr (m.getLsbD 2) (Tail.d t) a (Tail.b t)) | _ => none) else none) else if !m.getLsbD 0 && !m.getLsbD 1 && !m.getLsbD 3 && Tail.b t == 0#5 && (Tail.imm16 t).toNat < 16 && Tail.x t == 0#1 then (match toVReg (Tail.a t) with | some a => needWf (.vextrImm (m.getLsbD 2) (Tail.d t) a ((Tail.imm16 t).extractLsb' 0 4)) | _ => none) else none
  | _ => none

/-- Row 6 of the map (R90): the operands of the opcode in column `col`. -/
def decodeRow6 (col : Nat) (_ : BitVec 2) (m : BitVec 4) (t : BitVec 64) : Option Instr :=
  match col with
  | 0 => if Tail.x t == 0#1 then (match VecM.ofCode m, toVReg (Tail.d t), toVReg (Tail.a t), toVReg (Tail.b t) with | some m, some d, some a, some b => some (.vfadd m d a b) | _, _, _, _ => none) else none
  | 1 => if Tail.x t == 0#1 then (match VecM.ofCode m, toVReg (Tail.d t), toVReg (Tail.a t), toVReg (Tail.b t) with | some m, some d, some a, some b => some (.vfsub m d a b) | _, _, _, _ => none) else none
  | 2 => if Tail.x t == 0#1 then (match VecM.ofCode m, toVReg (Tail.d t), toVReg (Tail.a t), toVReg (Tail.b t) with | some m, some d, some a, some b => some (.vfmul m d a b) | _, _, _, _ => none) else none
  | 3 => if Tail.x t == 0#1 then (match VecM.ofCode m, toVReg (Tail.d t), toVReg (Tail.a t), toVReg (Tail.b t) with | some m, some d, some a, some b => some (.vffma m d a b) | _, _, _, _ => none) else none
  | 4 => if Tail.x t == 0#1 then (match VecM.ofCode m, toVReg (Tail.d t), toVReg (Tail.a t), toVReg (Tail.b t) with | some m, some d, some a, some b => some (.vfmin m d a b) | _, _, _, _ => none) else none
  | 5 => if Tail.x t == 0#1 then (match VecM.ofCode m, toVReg (Tail.d t), toVReg (Tail.a t), toVReg (Tail.b t) with | some m, some d, some a, some b => some (.vfmax m d a b) | _, _, _, _ => none) else none
  | 6 => if Tail.b t == 0#5 && Tail.x t == 0#1 then (match VecM.ofCode m, toVReg (Tail.d t), toVReg (Tail.a t) with | some m, some d, some a => some (.vfrcp m d a) | _, _, _ => none) else none
  | 7 => if Tail.b t == 0#5 && Tail.x t == 0#1 then (match VecM.ofCode m, toVReg (Tail.d t), toVReg (Tail.a t) with | some m, some d, some a => some (.vfrsq m d a) | _, _, _ => none) else none
  | 8 => if Tail.b t == 0#5 && Tail.x t == 0#1 then (match VecM.ofCode m, toVReg (Tail.d t), toVReg (Tail.a t) with | some m, some d, some a => some (.vfexp m d a) | _, _, _ => none) else none
  | 9 => if Tail.x t == 0#1 then (match FCond.ofCode (m.extractLsb' 0 3), toKReg (Tail.d t), toVReg (Tail.a t), toVReg (Tail.b t) with | some c, some d, some a, some b => some (.vfcmp c (m.getLsbD 3) d a b) | _, _, _, _ => none) else none
  | 10 => if !m.getLsbD 3 && Tail.b t == 0#5 && Tail.x t == 0#1 then (match RedOp.ofCode (m.extractLsb' 0 2), toVReg (Tail.a t) with | some op, some a => some (.vfred op (m.getLsbD 2) (Tail.d t) a) | _, _ => none) else none
  | 11 => if m.toNat < 2 && Tail.x t == 0#1 then (match toVReg (Tail.d t) with | some d => some (.vrng (m.getLsbD 0) d (Tail.a t) (Tail.b t)) | _ => none) else none
  | _ => none

/-- Row 7 of the map (R90): the operands of the opcode in column `col`. -/
def decodeRow7 (col : Nat) (_ : BitVec 2) (m : BitVec 4) (t : BitVec 64) : Option Instr :=
  match col with
  | 0 => (match Fmt.ofCode m with | some f => some (.fmt f) | _ => none)
  | 1 => if m == 0#4 then some (.rlx) else none
  | 2 => if Tail.b t == 0#5 && Tail.x t == 0#1 then (match Fmt.ofCode m, toVReg (Tail.d t), toVReg (Tail.a t) with | some f, some d, some a => some (.vcvt f d a) | _, _, _ => none) else none
  | 3 => if Tail.x t == 0#1 then (match Fp8.ofCode m, toVReg (Tail.d t), toVReg (Tail.a t), toVReg (Tail.b t) with | some f, some d, some a, some b => some (.vq8 f d a b) | _, _, _, _ => none) else none
  | 4 => if Tail.x t == 0#1 then (match Fp8.ofCode m, toVReg (Tail.d t), toVReg (Tail.a t) with | some f, some d, some a => some (.vdq8 f d a (Tail.b t)) | _, _, _ => none) else none
  | 5 => if Tail.x t == 0#1 then (match VecM.ofCode m, toVReg (Tail.d t), toVReg (Tail.a t), toVReg (Tail.b t) with | some m, some d, some a, some b => some (.vscale m d a b) | _, _, _, _ => none) else none
  | 6 => if Tail.x t == 0#1 then (match LogOp.ofCode m, toKReg (Tail.d t), toKReg (Tail.a t), toKReg (Tail.b t) with | some op, some d, some a, some b => some (.kand op d a b) | _, _, _, _ => none) else none
  | 7 => if m == 0#4 then (if m == 0#4 && Tail.b t == 0#5 && Tail.x t == 0#1 then (match toKReg (Tail.d t), toKReg (Tail.a t) with | some d, some a => some (.kmov d a) | _, _ => none) else none) else if m == 1#4 then (if m == 1#4 && Tail.b t == 0#5 && Tail.x t == 0#1 then (match toKReg (Tail.d t) with | some d => some (.kmovFx d (Tail.a t)) | _ => none) else none) else if m == 2#4 then (if m == 2#4 && Tail.b t == 0#5 && Tail.x t == 0#1 then (match toKReg (Tail.a t) with | some a => some (.kmovTx (Tail.d t) a) | _ => none) else none) else none
  | 8 => if m == 0#4 then some (.vdrop) else none
  | 9 => if Tail.x t == 0#1 then (match PackFmt.ofCode m, toVReg (Tail.d t), toVReg (Tail.a t), toVReg (Tail.b t) with | some f, some d, some a, some b => some (.vpack f d a b) | _, _, _, _ => none) else none
  | 10 => if Tail.x t == 0#1 then (match PackFmt.ofCode m, toVReg (Tail.d t), toVReg (Tail.a t) with | some f, some d, some a => some (.vunpk f d a (Tail.b t)) | _, _, _ => none) else none
  | 11 => if Tail.x t == 0#1 then (match VecM.ofCode m, toVReg (Tail.d t), toVReg (Tail.a t), toVReg (Tail.b t) with | some m, some d, some a, some b => some (.vclamp m d a b) | _, _, _, _ => none) else none
  | _ => none

/-- Row 8 of the map (R90): the operands of the opcode in column `col`. -/
def decodeRow8 (col : Nat) (tl : BitVec 2) (m : BitVec 4) (t : BitVec 64) : Option Instr :=
  match col with
  | 0 => if tl = 2#2 then (if Tail.b t == 0#5 && Tail.x t == 0#1 then (match LdSize.ofCode m with | some sz => some (.ld sz (Tail.d t) (Tail.a t) (Tail.imm16 t)) | _ => none) else none) else if Tail.b t == 0#5 && Tail.x t == 0#1 then (match LdSize.ofCode m with | some sz => some (.ldT4 sz (Tail.d t) (Tail.a t) (Tail.imm48 t)) | _ => none) else none
  | 1 => if tl = 2#2 then (if Tail.b t == 0#5 && Tail.x t == 0#1 then (match VecM.ofCode m, toVReg (Tail.d t) with | some m, some d => some (.ldv m d (Tail.a t) (Tail.imm16 t)) | _, _ => none) else none) else if Tail.b t == 0#5 && Tail.x t == 0#1 then (match VecM.ofCode m, toVReg (Tail.d t) with | some m, some d => some (.ldvT4 m d (Tail.a t) (Tail.imm48 t)) | _, _ => none) else none
  | 2 => if tl = 2#2 then (if Tail.x t == 0#1 then (match VecM.ofCode m, toVReg (Tail.d t) with | some m, some d => some (.ldvs m d (Tail.a t) (Tail.b t) (Tail.imm16 t)) | _, _ => none) else none) else if Tail.x t == 0#1 then (match VecM.ofCode m, toVReg (Tail.d t) with | some m, some d => some (.ldvsT4 m d (Tail.a t) (Tail.b t) (Tail.imm48 t)) | _, _ => none) else none
  | 3 => if tl = 2#2 then (if Tail.x t == 0#1 then (match VecM.ofCode m, toVReg (Tail.d t), toVReg (Tail.b t) with | some m, some d, some b => some (.ldvg m d (Tail.a t) b (Tail.imm16 t)) | _, _, _ => none) else none) else if Tail.x t == 0#1 then (match VecM.ofCode m, toVReg (Tail.d t), toVReg (Tail.b t) with | some m, some d, some b => some (.ldvgT4 m d (Tail.a t) b (Tail.imm48 t)) | _, _, _ => none) else none
  | 4 => if Tail.b t == 0#5 && Tail.x t == 0#1 then (match LdSize.ofCode m with | some sz => some (.ldl sz (Tail.d t) (Tail.a t) (Tail.imm16 t)) | _ => none) else none
  | 5 => if Tail.b t == 0#5 && Tail.x t == 0#1 then (match VecM.ofCode m, toVReg (Tail.d t) with | some m, some d => some (.ldlv m d (Tail.a t) (Tail.imm16 t)) | _, _ => none) else none
  | 6 => if tl = 2#2 then (if m == 0#4 && Tail.b t == 0#5 && Tail.x t == 0#1 then some (.ldfe (Tail.d t) (Tail.a t) (Tail.imm16 t)) else none) else if m == 0#4 && Tail.b t == 0#5 && Tail.x t == 0#1 then some (.ldfeT4 (Tail.d t) (Tail.a t) (Tail.imm48 t)) else none
  | 7 => if tl = 2#2 then (if m == 0#4 && Tail.b t == 0#5 && Tail.x t == 0#1 then some (.ldff (Tail.d t) (Tail.a t) (Tail.imm16 t)) else none) else if m == 0#4 && Tail.b t == 0#5 && Tail.x t == 0#1 then some (.ldffT4 (Tail.d t) (Tail.a t) (Tail.imm48 t)) else none
  | 8 => if tl = 2#2 then (if m == 0#4 && Tail.x t == 0#1 then some (.ldfs (Tail.d t) (Tail.a t) (Tail.b t) (Tail.imm16 t)) else none) else if m == 0#4 && Tail.x t == 0#1 then some (.ldfsT4 (Tail.d t) (Tail.a t) (Tail.b t) (Tail.imm48 t)) else none
  | 9 => if tl = 2#2 then (if Tail.x t == 0#1 then (match LdSize.ofCode m with | some sz => some (.ldx sz (Tail.d t) (Tail.a t) (Tail.b t) (Tail.imm16 t)) | _ => none) else none) else if Tail.x t == 0#1 then (match LdSize.ofCode m with | some sz => some (.ldxT4 sz (Tail.d t) (Tail.a t) (Tail.b t) (Tail.imm48 t)) | _ => none) else none
  | 10 => if tl = 2#2 then (if m.toNat < 8 && Tail.b t == 0#5 && Tail.x t == 0#1 then needWf (.ldm (m.extractLsb' 0 3) (Tail.d t) (Tail.a t) (Tail.imm16 t)) else none) else if m.toNat < 8 && Tail.b t == 0#5 && Tail.x t == 0#1 then needWf (.ldmT4 (m.extractLsb' 0 3) (Tail.d t) (Tail.a t) (Tail.imm48 t)) else none
  | 11 => if tl = 2#2 then (if Tail.x t == 0#1 then (match LdSize.ofCode m with | some sz => some (.ldnp sz (Tail.d t) (Tail.a t) (Tail.b t) (Tail.imm16 t)) | _ => none) else none) else if Tail.x t == 0#1 then (match LdSize.ofCode m with | some sz => some (.ldnpT4 sz (Tail.d t) (Tail.a t) (Tail.b t) (Tail.imm48 t)) | _ => none) else none
  | _ => none

/-- Row 9 of the map (R90): the operands of the opcode in column `col`. -/
def decodeRow9 (col : Nat) (tl : BitVec 2) (m : BitVec 4) (t : BitVec 64) : Option Instr :=
  match col with
  | 0 => if tl = 2#2 then (if Tail.d t == 0#5 && Tail.x t == 0#1 then (match StSize.ofCode m with | some sz => some (.st sz (Tail.a t) (Tail.b t) (Tail.imm16 t)) | _ => none) else none) else if Tail.d t == 0#5 && Tail.x t == 0#1 then (match StSize.ofCode m with | some sz => some (.stT4 sz (Tail.a t) (Tail.b t) (Tail.imm48 t)) | _ => none) else none
  | 1 => if tl = 2#2 then (if Tail.d t == 0#5 && Tail.x t == 0#1 then (match VecM.ofCode m, toVReg (Tail.b t) with | some m, some b => some (.stv m (Tail.a t) b (Tail.imm16 t)) | _, _ => none) else none) else if Tail.d t == 0#5 && Tail.x t == 0#1 then (match VecM.ofCode m, toVReg (Tail.b t) with | some m, some b => some (.stvT4 m (Tail.a t) b (Tail.imm48 t)) | _, _ => none) else none
  | 2 => if tl = 2#2 then (if Tail.x t == 0#1 then (match VecM.ofCode m, toVReg (Tail.b t) with | some m, some b => some (.stvs m (Tail.d t) (Tail.a t) b (Tail.imm16 t)) | _, _ => none) else none) else if Tail.x t == 0#1 then (match VecM.ofCode m, toVReg (Tail.b t) with | some m, some b => some (.stvsT4 m (Tail.d t) (Tail.a t) b (Tail.imm48 t)) | _, _ => none) else none
  | 3 => if tl = 2#2 then (if Tail.x t == 0#1 then (match VecM.ofCode m, toVReg (Tail.d t), toVReg (Tail.b t) with | some m, some d, some b => some (.stvg m d (Tail.a t) b (Tail.imm16 t)) | _, _, _ => none) else none) else if Tail.x t == 0#1 then (match VecM.ofCode m, toVReg (Tail.d t), toVReg (Tail.b t) with | some m, some d, some b => some (.stvgT4 m d (Tail.a t) b (Tail.imm48 t)) | _, _, _ => none) else none
  | 4 => if Tail.d t == 0#5 && Tail.x t == 0#1 then (match StSize.ofCode m with | some sz => some (.stl sz (Tail.a t) (Tail.b t) (Tail.imm16 t)) | _ => none) else none
  | 5 => if Tail.d t == 0#5 && Tail.x t == 0#1 then (match VecM.ofCode m, toVReg (Tail.b t) with | some m, some b => some (.stlv m (Tail.a t) b (Tail.imm16 t)) | _, _ => none) else none
  | 6 => if tl = 2#2 then (if m == 0#4 && Tail.d t == 0#5 && Tail.x t == 0#1 then some (.stef (Tail.a t) (Tail.b t) (Tail.imm16 t)) else none) else if m == 0#4 && Tail.d t == 0#5 && Tail.x t == 0#1 then some (.stefT4 (Tail.a t) (Tail.b t) (Tail.imm48 t)) else none
  | 7 => if tl = 2#2 then (if m == 0#4 && Tail.d t == 0#5 && Tail.x t == 0#1 then some (.stff (Tail.a t) (Tail.b t) (Tail.imm16 t)) else none) else if m == 0#4 && Tail.d t == 0#5 && Tail.x t == 0#1 then some (.stffT4 (Tail.a t) (Tail.b t) (Tail.imm48 t)) else none
  | 8 => if tl = 2#2 then (if m == 0#4 then (if m == 0#4 && Tail.d t == 0#5 && Tail.b t == 0#5 && Tail.x t == 0#1 then some (.fesetE (Tail.a t) (Tail.imm16 t)) else none) else if m == 1#4 then (if m == 1#4 && Tail.d t == 0#5 && Tail.b t == 0#5 && Tail.x t == 0#1 then some (.fesetF (Tail.a t) (Tail.imm16 t)) else none) else none) else if m == 0#4 then (if m == 0#4 && Tail.d t == 0#5 && Tail.b t == 0#5 && Tail.x t == 0#1 then some (.fesetET4 (Tail.a t) (Tail.imm48 t)) else none) else if m == 1#4 then (if m == 1#4 && Tail.d t == 0#5 && Tail.b t == 0#5 && Tail.x t == 0#1 then some (.fesetFT4 (Tail.a t) (Tail.imm48 t)) else none) else none
  | 9 => if tl = 2#2 then (if m.toNat < 8 && Tail.d t == 0#5 && Tail.x t == 0#1 then needWf (.stm (m.extractLsb' 0 3) (Tail.a t) (Tail.b t) (Tail.imm16 t)) else none) else if m.toNat < 8 && Tail.d t == 0#5 && Tail.x t == 0#1 then needWf (.stmT4 (m.extractLsb' 0 3) (Tail.a t) (Tail.b t) (Tail.imm48 t)) else none
  | 10 => if tl = 2#2 then (if Tail.x t == 0#1 then (match StSize.ofCode m with | some sz => some (.stx sz (Tail.d t) (Tail.a t) (Tail.b t) (Tail.imm16 t)) | _ => none) else none) else if Tail.x t == 0#1 then (match StSize.ofCode m with | some sz => some (.stxT4 sz (Tail.d t) (Tail.a t) (Tail.b t) (Tail.imm48 t)) | _ => none) else none
  | 11 => if tl = 2#2 then (if Tail.x t == 0#1 then (match StSize.ofCode m with | some sz => some (.stnp sz (Tail.d t) (Tail.a t) (Tail.b t) (Tail.imm16 t)) | _ => none) else none) else if Tail.x t == 0#1 then (match StSize.ofCode m with | some sz => some (.stnpT4 sz (Tail.d t) (Tail.a t) (Tail.b t) (Tail.imm48 t)) | _ => none) else none
  | _ => none

/-- Row A of the map (R90): the operands of the opcode in column `col`. -/
def decodeRowA (col : Nat) (tl : BitVec 2) (m : BitVec 4) (t : BitVec 64) : Option Instr :=
  match col with
  | 0 => if tl = 2#2 then (if Tail.x t == 0#1 then (match Scope.ofCode m with | some sc => some (.aadd sc (Tail.d t) (Tail.a t) (Tail.b t) (Tail.imm16 t)) | _ => none) else none) else if Tail.x t == 0#1 then (match Scope.ofCode m with | some sc => some (.aaddT4 sc (Tail.d t) (Tail.a t) (Tail.b t) (Tail.imm48 t)) | _ => none) else none
  | 1 => if tl = 2#2 then (if Tail.x t == 0#1 then (match Scope.ofCode m with | some sc => some (.amin sc (Tail.d t) (Tail.a t) (Tail.b t) (Tail.imm16 t)) | _ => none) else none) else if Tail.x t == 0#1 then (match Scope.ofCode m with | some sc => some (.aminT4 sc (Tail.d t) (Tail.a t) (Tail.b t) (Tail.imm48 t)) | _ => none) else none
  | 2 => if tl = 2#2 then (if Tail.x t == 0#1 then (match Scope.ofCode m with | some sc => some (.amax sc (Tail.d t) (Tail.a t) (Tail.b t) (Tail.imm16 t)) | _ => none) else none) else if Tail.x t == 0#1 then (match Scope.ofCode m with | some sc => some (.amaxT4 sc (Tail.d t) (Tail.a t) (Tail.b t) (Tail.imm48 t)) | _ => none) else none
  | 3 => if tl = 2#2 then (if Tail.x t == 0#1 then (match Scope.ofCode m with | some sc => some (.aand sc (Tail.d t) (Tail.a t) (Tail.b t) (Tail.imm16 t)) | _ => none) else none) else if Tail.x t == 0#1 then (match Scope.ofCode m with | some sc => some (.aandT4 sc (Tail.d t) (Tail.a t) (Tail.b t) (Tail.imm48 t)) | _ => none) else none
  | 4 => if tl = 2#2 then (if Tail.x t == 0#1 then (match Scope.ofCode m with | some sc => some (.aor sc (Tail.d t) (Tail.a t) (Tail.b t) (Tail.imm16 t)) | _ => none) else none) else if Tail.x t == 0#1 then (match Scope.ofCode m with | some sc => some (.aorT4 sc (Tail.d t) (Tail.a t) (Tail.b t) (Tail.imm48 t)) | _ => none) else none
  | 5 => if tl = 2#2 then (if Tail.x t == 0#1 then (match Scope.ofCode m with | some sc => some (.axor sc (Tail.d t) (Tail.a t) (Tail.b t) (Tail.imm16 t)) | _ => none) else none) else if Tail.x t == 0#1 then (match Scope.ofCode m with | some sc => some (.axorT4 sc (Tail.d t) (Tail.a t) (Tail.b t) (Tail.imm48 t)) | _ => none) else none
  | 6 => if tl = 2#2 then (if Tail.x t == 0#1 then (match Scope.ofCode m with | some sc => some (.aswp sc (Tail.d t) (Tail.a t) (Tail.b t) (Tail.imm16 t)) | _ => none) else none) else if Tail.x t == 0#1 then (match Scope.ofCode m with | some sc => some (.aswpT4 sc (Tail.d t) (Tail.a t) (Tail.b t) (Tail.imm48 t)) | _ => none) else none
  | 7 => if tl = 2#2 then (if Tail.x t == 0#1 then (match Scope.ofCode m with | some sc => some (.acas sc (Tail.d t) (Tail.a t) (Tail.b t) (Tail.imm16 t)) | _ => none) else none) else if Tail.x t == 0#1 then (match Scope.ofCode m with | some sc => some (.acasT4 sc (Tail.d t) (Tail.a t) (Tail.b t) (Tail.imm48 t)) | _ => none) else none
  | 8 => if tl = 2#2 then (if Tail.x t == 0#1 then (match Scope.ofCode m with | some sc => some (.afadd sc (Tail.d t) (Tail.a t) (Tail.b t) (Tail.imm16 t)) | _ => none) else none) else if Tail.x t == 0#1 then (match Scope.ofCode m with | some sc => some (.afaddT4 sc (Tail.d t) (Tail.a t) (Tail.b t) (Tail.imm48 t)) | _ => none) else none
  | 9 => (match Scope.ofCode m with | some sc => some (.fence sc) | _ => none)
  | 10 => if m == 0#4 then some (.waita) else none
  | 11 => if tl = 2#2 then (if m == 0#4 then (if m == 0#4 && Tail.b t == 0#5 && Tail.x t == 0#1 then some (.bhintPf (Tail.d t) (Tail.a t) (Tail.imm16 t)) else none) else if m == 1#4 then (if m == 1#4 && Tail.b t == 0#5 && Tail.x t == 0#1 then some (.bhintPin (Tail.d t) (Tail.a t) (Tail.imm16 t)) else none) else if m == 2#4 then (if m == 2#4 && Tail.b t == 0#5 && Tail.x t == 0#1 then some (.bhintUnpin (Tail.d t) (Tail.a t) (Tail.imm16 t)) else none) else if m == 3#4 then (if m == 3#4 && Tail.b t == 0#5 && Tail.x t == 0#1 then some (.bhintEv (Tail.d t) (Tail.a t) (Tail.imm16 t)) else none) else none) else if m == 0#4 then (if m == 0#4 && Tail.b t == 0#5 && Tail.x t == 0#1 then some (.bhintPfT4 (Tail.d t) (Tail.a t) (Tail.imm48 t)) else none) else if m == 1#4 then (if m == 1#4 && Tail.b t == 0#5 && Tail.x t == 0#1 then some (.bhintPinT4 (Tail.d t) (Tail.a t) (Tail.imm48 t)) else none) else if m == 2#4 then (if m == 2#4 && Tail.b t == 0#5 && Tail.x t == 0#1 then some (.bhintUnpinT4 (Tail.d t) (Tail.a t) (Tail.imm48 t)) else none) else if m == 3#4 then (if m == 3#4 && Tail.b t == 0#5 && Tail.x t == 0#1 then some (.bhintEvT4 (Tail.d t) (Tail.a t) (Tail.imm48 t)) else none) else none
  | _ => none

/-- Row B of the map (R90): the operands of the opcode in column `col`. -/
def decodeRowB (col : Nat) (tl : BitVec 2) (m : BitVec 4) (t : BitVec 64) : Option Instr :=
  match col with
  | 0 => if tl = 1#2 then (if Tail.x t == 0#1 then (match SpawnPri.ofCode m with | some p => some (.spawn p (Tail.d t) (Tail.a t) (Tail.b t)) | _ => none) else none) else if Tail.b t == 0#5 && Tail.x t == 0#1 then (match SpawnPri.ofCode m with | some p => some (.spawnLabel p (Tail.d t) (Tail.a t) (Tail.imm16 t)) | _ => none) else none
  | 1 => if m == 0#4 then some (.quit) else none
  | 2 => if m == 0#4 && Tail.b t == 0#5 && Tail.x t == 0#1 then some (.launch (Tail.d t) (Tail.a t)) else none
  | 3 => if m == 0#4 then some (.yield) else none
  | 4 => if m == 0#4 then (if m == 0#4 && Tail.b t == 0#5 && Tail.x t == 0#1 then some (.migrate (Tail.d t) (Tail.a t)) else none) else if m == 1#4 then (if m == 1#4 && Tail.b t == 0#5 && Tail.x t == 0#1 then some (.migrateNear (Tail.d t) (Tail.a t)) else none) else none
  | 5 => if m.toNat < 4 && Tail.x t == 0#1 then needWf (.send (m.extractLsb' 0 2) (Tail.d t) (Tail.a t) (Tail.b t)) else none
  | 6 => if m == 0#4 && Tail.b t == 0#5 && Tail.x t == 0#1 then needWf (.recv (Tail.d t) (Tail.a t)) else none
  | 7 => if m == 0#4 then some (.waitm) else none
  | 8 => if Tail.b t == 0#5 && Tail.x t == 0#1 then (match Scope.ofCode m with | some sc => needWf (.bar sc (Tail.d t) (Tail.a t)) | _ => none) else none
  | 9 => if Tail.x t == 0#1 then (match Scope.ofCode m with | some sc => needWf (.bara sc (Tail.d t) (Tail.a t) (Tail.b t)) | _ => none) else none
  | 10 => if m == 0#4 && Tail.x t == 0#1 then some (.trigarm (Tail.d t) (Tail.a t) (Tail.b t)) else none
  | 11 => if m.toNat < 4 && Tail.x t == 0#1 then needWf (.sendx (m.extractLsb' 0 2) (Tail.d t) (Tail.a t) (Tail.b t)) else none
  | _ => none

/-- Row C of the map (R90): the operands of the opcode in column `col`. -/
def decodeRowC (col : Nat) (_ : BitVec 2) (m : BitVec 4) (t : BitVec 64) : Option Instr :=
  match col with
  | 0 => if m == 0#4 && Tail.x t == 0#1 then some (.tqpush (Tail.d t) (Tail.a t) (Tail.b t)) else none
  | 1 => if m == 0#4 && Tail.b t == 0#5 && Tail.x t == 0#1 then some (.tqstat (Tail.d t) (Tail.a t)) else none
  | 2 => if m == 0#4 && Tail.b t == 0#5 && Tail.x t == 0#1 then some (.tkill (Tail.d t) (Tail.a t)) else none
  | 3 => if m == 0#4 && Tail.x t == 0#1 then some (.tcont (Tail.d t) (Tail.a t) (Tail.b t)) else none
  | 4 => if m == 0#4 && Tail.b t == 0#5 && Tail.x t == 0#1 then some (.accal (Tail.d t) (Tail.a t)) else none
  | 5 => if m == 0#4 && Tail.b t == 0#5 && Tail.x t == 0#1 then some (.accfr (Tail.d t) (Tail.a t)) else none
  | 6 => if m == 0#4 && Tail.x t == 0#1 then (match toVReg (Tail.d t) with | some d => some (.accld d (Tail.a t) (Tail.b t) (Tail.imm16 t)) | _ => none) else none
  | 7 => if m == 0#4 && Tail.x t == 0#1 then (match toVReg (Tail.b t) with | some b => some (.accst (Tail.d t) (Tail.a t) b (Tail.imm16 t)) | _ => none) else none
  | 8 => if m == 0#4 && Tail.d t == 0#5 && Tail.x t == 0#1 then some (.accz (Tail.a t) (Tail.b t)) else none
  | 9 => if m == 0#4 && Tail.x t == 0#1 then some (.ssmrun (Tail.d t) (Tail.a t) (Tail.b t)) else none
  | 10 => if m == 0#4 && Tail.b t == 0#5 && Tail.x t == 0#1 then some (.ssmstat (Tail.d t) (Tail.a t)) else none
  | 11 => if m == 0#4 && Tail.b t == 0#5 && Tail.x t == 0#1 then some (.tseq (Tail.d t) (Tail.a t)) else none
  | _ => none

/-- Row D of the map (R90): the operands of the opcode in column `col`. -/
def decodeRowD (col : Nat) (_ : BitVec 2) (m : BitVec 4) (t : BitVec 64) : Option Instr :=
  match col with
  | 0 => if m == 0#4 && Tail.x t == 0#1 then some (.jinit (Tail.d t) (Tail.a t) (Tail.b t)) else none
  | 1 => if m == 0#4 && Tail.a t == 0#5 && Tail.b t == 0#5 && Tail.x t == 0#1 then some (.jarrive (Tail.d t)) else none
  | 2 => if m == 0#4 && Tail.x t == 0#1 then some (.jcontrib (Tail.d t) (Tail.a t) (Tail.b t)) else none
  | 3 => if m == 0#4 && Tail.b t == 0#5 && Tail.x t == 0#1 then some (.jwait (Tail.d t) (Tail.a t)) else none
  | 4 => if m == 0#4 then (if m == 0#4 && Tail.b t == 0#5 && Tail.x t == 0#1 then some (.jqrySt (Tail.d t) (Tail.a t)) else none) else if m == 1#4 then (if m == 1#4 && Tail.b t == 0#5 && Tail.x t == 0#1 then some (.jqryWt (Tail.d t) (Tail.a t)) else none) else none
  | 5 => if m == 0#4 && Tail.x t == 0#1 then some (.jkill (Tail.d t) (Tail.a t) (Tail.b t)) else none
  | 6 => if m == 0#4 && Tail.x t == 0#1 then some (.jroster (Tail.d t) (Tail.a t) (Tail.b t)) else none
  | 7 => if m == 0#4 && Tail.x t == 0#1 then some (.jreplay (Tail.d t) (Tail.a t) (Tail.b t)) else none
  | 8 => if m == 0#4 && Tail.b t == 0#5 && Tail.x t == 0#1 then some (.jclose (Tail.d t) (Tail.a t)) else none
  | 9 => if m == 0#4 then (if m == 0#4 then some (.kmaskOff) else none) else if m == 1#4 then (if m == 1#4 then some (.kmaskOn) else none) else none
  | 10 => if m == 0#4 && Tail.x t == 0#1 then some (.jbind (Tail.d t) (Tail.a t) (Tail.b t)) else none
  | 11 => if m == 0#4 && Tail.b t == 0#5 && Tail.x t == 0#1 then some (.jrel (Tail.d t) (Tail.a t)) else none
  | _ => none

/-- Row E of the map (R90): the operands of the opcode in column `col`. -/
def decodeRowE (col : Nat) (_ : BitVec 2) (m : BitVec 4) (t : BitVec 64) : Option Instr :=
  match col with
  | 0 => if m.toNat < 4 && Tail.a t == 0#5 && Tail.b t == 0#5 && Tail.x t == 0#1 then some (.copy (m.extractLsb' 0 2) (Tail.d t)) else none
  | 1 => if m.toNat < 4 && Tail.a t == 0#5 && Tail.b t == 0#5 && Tail.x t == 0#1 then some (.copys (m.extractLsb' 0 2) (Tail.d t)) else none
  | 2 => if m.toNat < 4 && Tail.a t == 0#5 && Tail.b t == 0#5 && Tail.x t == 0#1 then some (.deal (m.extractLsb' 0 2) (Tail.d t)) else none
  | 3 => if m.toNat < 4 && Tail.a t == 0#5 && Tail.b t == 0#5 && Tail.x t == 0#1 then some (.enck (m.extractLsb' 0 2) (Tail.d t)) else none
  | 4 => if m.toNat < 4 && Tail.a t == 0#5 && Tail.b t == 0#5 && Tail.x t == 0#1 then some (.deck (m.extractLsb' 0 2) (Tail.d t)) else none
  | 5 => if m.toNat < 4 && Tail.a t == 0#5 && Tail.b t == 0#5 && Tail.x t == 0#1 then some (.redc (m.extractLsb' 0 2) (Tail.d t)) else none
  | 6 => if m.toNat < 4 && Tail.a t == 0#5 && Tail.b t == 0#5 && Tail.x t == 0#1 then some (.bcast (m.extractLsb' 0 2) (Tail.d t)) else none
  | 7 => if m == 0#4 && Tail.b t == 0#5 && Tail.x t == 0#1 then some (.lease (Tail.d t) (Tail.a t)) else none
  | 8 => if m == 0#4 && Tail.b t == 0#5 && Tail.x t == 0#1 then some (.unlease (Tail.d t) (Tail.a t)) else none
  | 9 => if m.toNat < 4 && Tail.b t == 0#5 && (Tail.imm16 t).toNat < 16 && Tail.x t == 0#1 then some (.mbxst (m.extractLsb' 0 2) (Tail.d t) (Tail.a t) ((Tail.imm16 t).extractLsb' 0 4)) else none
  | 10 => if m == 0#4 && Tail.x t == 0#1 then some (.trigset (Tail.d t) (Tail.a t) (Tail.b t)) else none
  | 11 => if m == 0#4 && Tail.b t == 0#5 && Tail.x t == 0#1 then some (.trigrd (Tail.d t) (Tail.a t)) else none
  | _ => none

/-- Row F of the map (R90): the operands of the opcode in column `col`. -/
def decodeRowF (col : Nat) (_ : BitVec 2) (m : BitVec 4) (t : BitVec 64) : Option Instr :=
  match col with
  | 0 => some (.trap m)
  | 1 => if m == 0#4 then some (.tret) else none
  | 2 => if m == 0#4 && Tail.d t == 0#5 && Tail.a t == 0#5 && Tail.b t == 0#5 && Tail.x t == 0#1 then some (decodeSvc (Tail.imm16 t)) else none
  | 3 => if m == 0#4 then some (.gstop) else none
  | 4 => if m == 0#4 then some (.gres) else none
  | 5 => if m == 0#4 then (if m == 0#4 && Tail.d t == 0#5 && Tail.x t == 0#1 then some (.tlbiG (Tail.a t) (Tail.b t)) else none) else if m == 1#4 then (if m == 1#4 && Tail.d t == 0#5 && Tail.b t == 0#5 && Tail.x t == 0#1 then some (.tlbiH (Tail.a t)) else none) else if m == 2#4 then (if m == 2#4 && Tail.d t == 0#5 && Tail.a t == 0#5 && Tail.x t == 0#1 then some (.tlbiAsid (Tail.b t)) else none) else if m == 3#4 then (if m == 3#4 && Tail.d t == 0#5 && Tail.a t == 0#5 && Tail.b t == 0#5 && Tail.x t == 0#1 then some (.tlbiAll) else none) else none
  | 6 => if m == 0#4 && Tail.x t == 0#1 then needWf (.fqpop (Tail.d t) (Tail.a t) (Tail.b t)) else none
  | 7 => if m == 0#4 && Tail.x t == 0#1 then some (if Tail.b t == 0#5 then .fqrepReplay (Tail.d t) (Tail.a t) (Tail.b t) else .fqrepGiveup (Tail.d t) (Tail.a t) (Tail.b t)) else none
  | 8 => if m == 0#4 && Tail.b t == 0#5 && Tail.x t == 0#1 then some (.pgmap (Tail.d t) (Tail.a t)) else none
  | 9 => if m == 0#4 && Tail.x t == 0#1 then some (.slice (Tail.d t) (Tail.a t) (Tail.b t)) else none
  | 10 => if m == 0#4 then (if m == 0#4 && Tail.b t == 0#5 && Tail.x t == 0#1 then some (.prtnQry (Tail.d t) (Tail.a t)) else none) else if m == 1#4 then (if m == 1#4 && Tail.b t == 0#5 && Tail.x t == 0#1 then some (.prtnSplit (Tail.d t) (Tail.a t)) else none) else if m == 2#4 then (if m == 2#4 && Tail.b t == 0#5 && Tail.x t == 0#1 then some (.prtnMerge (Tail.d t) (Tail.a t)) else none) else none
  | 11 => if m == 0#4 then some (.wfe) else none
  | _ => none

/-- The operands of the instruction with opcode `op`, by its row (R90). -/
def decodeBody (op : BitVec 8) (tl : BitVec 2) (m : BitVec 4) (t : BitVec 64) : Option Instr :=
  let col := op.toNat % 16
  match op.toNat / 16 with
  | 0 => decodeRow0 col tl m t
  | 1 => decodeRow1 col tl m t
  | 2 => decodeRow2 col tl m t
  | 3 => decodeRow3 col tl m t
  | 4 => decodeRow4 col tl m t
  | 5 => decodeRow5 col tl m t
  | 6 => decodeRow6 col tl m t
  | 7 => decodeRow7 col tl m t
  | 8 => decodeRow8 col tl m t
  | 9 => decodeRow9 col tl m t
  | 10 => decodeRowA col tl m t
  | 11 => decodeRowB col tl m t
  | 12 => decodeRowC col tl m t
  | 13 => decodeRowD col tl m t
  | 14 => decodeRowE col tl m t
  | _ => decodeRowF col tl m t

/-- The tail lengths an opcode permits (R50, R90), as a mask with bit i for TL = i. -/
def tailMask (op : Nat) : Nat :=
  if op ∈ [0x00, 0x01] then 15
  else if op ∈ [0x07, 0x08, 0x09, 0x0B, 0x70, 0x71, 0x78, 0xA9, 0xAA, 0xB1, 0xB3, 0xB7, 0xD9, 0xF0, 0xF1, 0xF3, 0xF4, 0xFB] then 1
  else if op ∈ [0x03, 0x0A, 0x2B, 0x32, 0x84, 0x85, 0x94, 0x95, 0xC6, 0xC7, 0xE9, 0xF2] then 4
  else if op ∈ [0x25, 0x26, 0x27, 0x28, 0x3A, 0x5B, 0xB0] then 6
  else if op ∈ [0x12, 0x1A, 0x24, 0x31, 0x34] || (0x80 ≤ op && op ≤ 0x83) || (0x86 ≤ op && op ≤ 0x8B)
    || (0x90 ≤ op && op ≤ 0x93) || (0x96 ≤ op && op ≤ 0x9B) || (0xA0 ≤ op && op ≤ 0xA8) || op == 0xAB then 12
  else 2

/-- Why an instruction is refused by the checks of R60 that look at the encoding alone. -/
inductive DecErr where
  | format
  | operand
  deriving DecidableEq, Repr

/-- What a head and tail hold. -/
inductive Decoded where
  | ok (i : Instr)
  | bad (e : DecErr)
  deriving DecidableEq, Repr

/-- The opcode of a head (R49). -/
def headOp (h : BitVec 16) : BitVec 8 := h.extractLsb' 8 8
/-- The tail length code of a head (R49). -/
def headTl (h : BitVec 16) : BitVec 2 := h.extractLsb' 6 2
/-- The stall count of a head (R49). -/
def headStall (h : BitVec 16) : Nat := (h.extractLsb' 4 2).toNat
/-- The modifier of a head (R49). -/
def headM (h : BitVec 16) : BitVec 4 := h.extractLsb' 0 4

/-- Opcodes in columns C to F are reserved (R61). -/
def opReserved (op : BitVec 8) : Bool := 12 ≤ op.toNat % 16

/-- One instruction from its fields: places 1, 4 and 5 of R60. -/
def decodeFields (op : BitVec 8) (tl : BitVec 2) (m : BitVec 4) (t : BitVec 64) : Decoded :=
  if opReserved op then .ok (.reservedOpcode op m tl t)
  else if !(tailMask op.toNat).testBit tl.toNat then .bad .format
  else match decodeBody op tl m t with
    | some i => .ok i
    | none => .bad .operand

/-- One instruction from its head and its tail. -/
def decodeInstr (h : BitVec 16) (t : BitVec 64) : Decoded := decodeFields (headOp h) (headTl h) (headM h) t

/-- A head with its tail (zero-extended), as the line holds them (R42). -/
structure Slotted where
  head : BitVec 16
  tail : BitVec 64
  deriving DecidableEq, Repr

/-- The 16-bit slots of a line from its bytes, low byte first (R41). -/
def lineSlots : List Byte → List (BitVec 16)
  | lo :: hi :: rest => (hi ++ lo) :: lineSlots rest
  | _ => []

/-- The bytes of a line from its slots (R41). -/
def slotBytes : List (BitVec 16) → List Byte
  | [] => []
  | s :: rest => s.extractLsb' 0 8 :: s.extractLsb' 8 8 :: slotBytes rest

/-- Slot j of a line. -/
def slotAt (s : List (BitVec 16)) (j : Nat) : BitVec 16 := s.getD j 0#16

/-- The `k` slots from `low` up as one number (the tail of `DecodeLine`, R43). -/
def gatherTail (s : List (BitVec 16)) (low : Nat) : Nat → BitVec 64
  | 0 => 0#64
  | k + 1 => (gatherTail s (low + 1) k) <<< 16 ||| (slotAt s low).setWidth 64

/-- `DecodeLine` (R43): the heads from slot `i` on, `k` of them, tails packed down from slot `top - 1`; answers the
instructions and one more than the highest slot no tail took, or none where the tails do not fit. -/
def takeTails (s : List (BitVec 16)) (i : Nat) : Nat → Nat → Option (List Slotted × Nat)
  | 0, top => some ([], top)
  | k + 1, top =>
    let h := slotAt s i
    let len := tailSlots (headTl h)
    if top < len then none else
    match takeTails s (i + 1) k (top - len) with
    | none => none
    | some (rest, top') => some (⟨h, gatherTail s (top - len) len⟩ :: rest, top')

/-- `DecodeLine` (R43): the instructions of a line of 64 bytes, or none where the line is illegal. -/
def decodeLine (bytes : List Byte) : Option (List Slotted) :=
  let s := lineSlots bytes
  let h := slotAt s 0
  let n := (h.extractLsb' 0 5).toNat
  if h.extractLsb' 5 11 ≠ 0#11 ∨ n = 0 then none else
  match takeTails s 1 n 32 with
  | none => none
  | some (is, top) =>
    if top < n + 1 then none
    else if ((s.drop (n + 1)).take (top - (n + 1))).all (· == 0#16) then some is else none

/-- The slots of a tail of `k` slots, lowest first (R42). -/
def tailToSlots (t : BitVec 64) : Nat → List (BitVec 16)
  | 0 => []
  | k + 1 => t.extractLsb' 0 16 :: tailToSlots (t >>> 16) k

/-- The bytes of a line that holds one instruction (R41, R42). -/
def oneLine (h : BitVec 16) (t : BitVec 64) : List Byte :=
  let k := tailSlots (headTl h)
  slotBytes (1#16 :: h :: (List.replicate (30 - k) 0#16 ++ tailToSlots t k))

/-- The host's probe: the table numbers the head as the high 16 bits of a row and the tail below it; tail bits that
the row does not list are zero. The head and tail are laid out in a line, and the line is decoded. -/
def decodeTableWord (nbits w : Nat) : Option Instr :=
  let h := BitVec.ofNat 16 (w >>> (nbits - 16))
  let t := BitVec.ofNat 64 (w % 2 ^ (nbits - 16))
  match decodeLine (oneLine h t) with
  | some [⟨h, t⟩] => (match decodeInstr h t with | .ok i => some i | .bad _ => none)
  | _ => none

/-- The encoded fields of an instruction: everything but its stall count (R49, R51). -/
structure Enc where
  op : BitVec 8
  tl : BitVec 2
  m : BitVec 4
  tail : BitVec 64
  deriving DecidableEq, Repr

/-- The head with stall count `s` (R49). -/
def Enc.head (e : Enc) (s : BitVec 2) : BitVec 16 := e.op ++ e.tl ++ s ++ e.m

/-- The encoding of an instruction, from the tables of R49 to R53 and R89 to R91; events have none. -/
def encode : Instr → Option Enc
  | .ill m => some ⟨0x00#8, 0#2, m, 0#64⟩
  | .illT1 => some ⟨0x00#8, 1#2, 0#4, 0#64⟩
  | .illT2 => some ⟨0x00#8, 2#2, 0#4, 0#64⟩
  | .illT4 => some ⟨0x00#8, 3#2, 0#4, 0#64⟩
  | .nop => some ⟨0x01#8, 0#2, 0#4, 0#64⟩
  | .nopT1 => some ⟨0x01#8, 1#2, 0#4, 0#64⟩
  | .nopT2 => some ⟨0x01#8, 2#2, 0#4, 0#64⟩
  | .nopT4 => some ⟨0x01#8, 3#2, 0#4, 0#64⟩
  | .br target => some ⟨0x02#8, 1#2, 0#4, 0#48 ++ target⟩
  | .call target => some ⟨0x05#8, 1#2, 0#4, 0#48 ++ target⟩
  | .brc c a b target => some ⟨0x03#8, 2#2, c.toCode, mkTail (0#32 ++ target) 0#1 b a 0#5⟩
  | .jmp a => some ⟨0x04#8, 1#2, 0#4, mkTail 0#48 0#1 0#5 a 0#5⟩
  | .callr a => some ⟨0x06#8, 1#2, 0#4, mkTail 0#48 0#1 0#5 a 0#5⟩
  | .ret => some ⟨0x07#8, 0#2, 0#4, 0#64⟩
  | .save => some ⟨0x08#8, 0#2, 0#4, 0#64⟩
  | .restore => some ⟨0x09#8, 0#2, 0#4, 0#64⟩
  | .kpt => some ⟨0x0B#8, 0#2, 0#4, 0#64⟩
  | .loop d target => some ⟨0x0A#8, 2#2, 0#4, mkTail (0#32 ++ target) 0#1 0#5 0#5 d⟩
  | .add d a b => some ⟨0x10#8, 1#2, 0#4, mkTail 0#48 0#1 b a d⟩
  | .sub d a b => some ⟨0x11#8, 1#2, 0#4, mkTail 0#48 0#1 b a d⟩
  | .addi d a imm => some ⟨0x12#8, 2#2, 0#4, mkTail (0#32 ++ imm) 0#1 0#5 a d⟩
  | .addiT4 d a imm => some ⟨0x12#8, 3#2, 0#4, mkTail imm 0#1 0#5 a d⟩
  | .mul d a b => some ⟨0x13#8, 1#2, 0#4, mkTail 0#48 0#1 b a d⟩
  | .mulh us d a b => some ⟨0x14#8, 1#2, 0#3 ++ bit us, mkTail 0#48 0#1 b a d⟩
  | .div us d a b => some ⟨0x15#8, 1#2, 0#3 ++ bit us, mkTail 0#48 0#1 b a d⟩
  | .rem us d a b => some ⟨0x16#8, 1#2, 0#3 ++ bit us, mkTail 0#48 0#1 b a d⟩
  | .min us d a b => some ⟨0x17#8, 1#2, 0#3 ++ bit us, mkTail 0#48 0#1 b a d⟩
  | .max us d a b => some ⟨0x18#8, 1#2, 0#3 ++ bit us, mkTail 0#48 0#1 b a d⟩
  | .slt us d a b => some ⟨0x19#8, 1#2, 0#3 ++ bit us, mkTail 0#48 0#1 b a d⟩
  | .slti us d a imm => some ⟨0x1A#8, 2#2, 0#3 ++ bit us, mkTail (0#32 ++ imm) 0#1 0#5 a d⟩
  | .sltiT4 us d a imm => some ⟨0x1A#8, 3#2, 0#3 ++ bit us, mkTail imm 0#1 0#5 a d⟩
  | .madd d a b => some ⟨0x1B#8, 1#2, 0#4, mkTail 0#48 0#1 b a d⟩
  | .and d a b => some ⟨0x20#8, 1#2, 0#4, mkTail 0#48 0#1 b a d⟩
  | .or d a b => some ⟨0x21#8, 1#2, 0#4, mkTail 0#48 0#1 b a d⟩
  | .xor d a b => some ⟨0x22#8, 1#2, 0#4, mkTail 0#48 0#1 b a d⟩
  | .andn d a b => some ⟨0x23#8, 1#2, 0#4, mkTail 0#48 0#1 b a d⟩
  | .logi op d a imm => some ⟨0x24#8, 2#2, op.toCode, mkTail (0#32 ++ imm) 0#1 0#5 a d⟩
  | .logiT4 op d a imm => some ⟨0x24#8, 3#2, op.toCode, mkTail imm 0#1 0#5 a d⟩
  | .shl d a b => some ⟨0x25#8, 1#2, 0#4, mkTail 0#48 0#1 b a d⟩
  | .shlImm d a n => some ⟨0x25#8, 2#2, 0#4, mkTail (0#42 ++ n) 0#1 0#5 a d⟩
  | .shr d a b => some ⟨0x26#8, 1#2, 0#4, mkTail 0#48 0#1 b a d⟩
  | .shrImm d a n => some ⟨0x26#8, 2#2, 0#4, mkTail (0#42 ++ n) 0#1 0#5 a d⟩
  | .sar d a b => some ⟨0x27#8, 1#2, 0#4, mkTail 0#48 0#1 b a d⟩
  | .sarImm d a n => some ⟨0x27#8, 2#2, 0#4, mkTail (0#42 ++ n) 0#1 0#5 a d⟩
  | .rot d a b => some ⟨0x28#8, 1#2, 0#4, mkTail 0#48 0#1 b a d⟩
  | .rotImm d a n => some ⟨0x28#8, 2#2, 0#4, mkTail (0#42 ++ n) 0#1 0#5 a d⟩
  | .clz d a => some ⟨0x29#8, 1#2, 0#4, mkTail 0#48 0#1 0#5 a d⟩
  | .popc d a => some ⟨0x2A#8, 1#2, 0#4, mkTail 0#48 0#1 0#5 a d⟩
  | .bfx sx d a p w => some ⟨0x2B#8, 2#2, 0#3 ++ bit sx, mkTail (0#35 ++ w ++ p) 0#1 0#5 a d⟩
  | .mov d a => some ⟨0x30#8, 1#2, 0#4, mkTail 0#48 0#1 0#5 a d⟩
  | .movi d imm => some ⟨0x31#8, 2#2, 0#4, mkTail (0#32 ++ imm) 0#1 0#5 0#5 d⟩
  | .moviT4 d imm => some ⟨0x31#8, 3#2, 0#4, mkTail imm 0#1 0#5 0#5 d⟩
  | .movhi k d imm => some ⟨0x32#8, 2#2, 0#2 ++ k, mkTail (0#32 ++ imm) 0#1 0#5 0#5 d⟩
  | .sel d a b => some ⟨0x33#8, 1#2, 0#4, mkTail 0#48 0#1 b a d⟩
  | .lea d a imm => some ⟨0x34#8, 2#2, 0#4, mkTail (0#32 ++ imm) 0#1 0#5 a d⟩
  | .leaT4 d a imm => some ⟨0x34#8, 3#2, 0#4, mkTail imm 0#1 0#5 a d⟩
  | .movs d sp => some ⟨0x35#8, 1#2, 0#4, mkTail 0#48 (sp.extractLsb' 5 1) 0#5 (sp.extractLsb' 0 5) d⟩
  | .movt sp a => some ⟨0x36#8, 1#2, 0#4, mkTail 0#48 (sp.extractLsb' 5 1) 0#5 a (sp.extractLsb' 0 5)⟩
  | .ids q d => some ⟨0x37#8, 1#2, q.toCode, mkTail 0#48 0#1 0#5 0#5 d⟩
  | .clk d => some ⟨0x38#8, 1#2, 0#4, mkTail 0#48 0#1 0#5 0#5 d⟩
  | .rng d a b => some ⟨0x39#8, 1#2, 0#4, mkTail 0#48 0#1 b a d⟩
  | .cmp c d a b => some ⟨0x3A#8, 1#2, c.toCode, mkTail 0#48 0#1 b a d⟩
  | .cmpImm c d a imm => some ⟨0x3A#8, 2#2, c.toCode, mkTail (0#32 ++ imm) 0#1 0#5 a d⟩
  | .ext sz d a => some ⟨0x3B#8, 1#2, sz.toCode, mkTail 0#48 0#1 0#5 a d⟩
  | .fadd r p d a b => some ⟨0x40#8, 1#2, r.toCode ++ p.toBit, mkTail 0#48 0#1 b a d⟩
  | .fsub r p d a b => some ⟨0x41#8, 1#2, r.toCode ++ p.toBit, mkTail 0#48 0#1 b a d⟩
  | .fmul r p d a b => some ⟨0x42#8, 1#2, r.toCode ++ p.toBit, mkTail 0#48 0#1 b a d⟩
  | .ffma r p d a b => some ⟨0x43#8, 1#2, r.toCode ++ p.toBit, mkTail 0#48 0#1 b a d⟩
  | .fdiv r p d a b => some ⟨0x44#8, 1#2, r.toCode ++ p.toBit, mkTail 0#48 0#1 b a d⟩
  | .fsqrt r p d a => some ⟨0x45#8, 1#2, r.toCode ++ p.toBit, mkTail 0#48 0#1 0#5 a d⟩
  | .fmin p d a b => some ⟨0x46#8, 1#2, p.toCode, mkTail 0#48 0#1 b a d⟩
  | .fmax p d a b => some ⟨0x47#8, 1#2, p.toCode, mkTail 0#48 0#1 b a d⟩
  | .fcmp c p d a b => some ⟨0x48#8, 1#2, c.toCode ++ p.toBit, mkTail 0#48 0#1 b a d⟩
  | .fcvt k d a => some ⟨0x49#8, 1#2, k.toCode, mkTail 0#48 0#1 0#5 a d⟩
  | .fsgn op p d a b => some ⟨0x4A#8, 1#2, 0#1 ++ op.toCode ++ p.toBit, mkTail 0#48 0#1 b a d⟩
  | .fcls p d a => some ⟨0x4B#8, 1#2, p.toCode, mkTail 0#48 0#1 0#5 a d⟩
  | .vadd m d a b => some ⟨0x50#8, 1#2, m.toCode, mkTail 0#48 0#1 (ofVReg b) (ofVReg a) (ofVReg d)⟩
  | .vsub m d a b => some ⟨0x51#8, 1#2, m.toCode, mkTail 0#48 0#1 (ofVReg b) (ofVReg a) (ofVReg d)⟩
  | .vmul m d a b => some ⟨0x52#8, 1#2, m.toCode, mkTail 0#48 0#1 (ofVReg b) (ofVReg a) (ofVReg d)⟩
  | .vand m d a b => some ⟨0x53#8, 1#2, m.toCode, mkTail 0#48 0#1 (ofVReg b) (ofVReg a) (ofVReg d)⟩
  | .vor m d a b => some ⟨0x54#8, 1#2, m.toCode, mkTail 0#48 0#1 (ofVReg b) (ofVReg a) (ofVReg d)⟩
  | .vxor m d a b => some ⟨0x55#8, 1#2, m.toCode, mkTail 0#48 0#1 (ofVReg b) (ofVReg a) (ofVReg d)⟩
  | .vshift op wide d a b => some ⟨0x56#8, 1#2, 0#1 ++ bit wide ++ op.toCode, mkTail 0#48 0#1 (ofVReg b) (ofVReg a) (ofVReg d)⟩
  | .vminmax isMax us wide d a b => some ⟨0x57#8, 1#2, 0#1 ++ bit wide ++ bit us ++ bit isMax, mkTail 0#48 0#1 (ofVReg b) (ofVReg a) (ofVReg d)⟩
  | .vsel wide k d a b => some ⟨0x58#8, 1#2, 1#1 ++ bit wide ++ k, mkTail 0#48 0#1 (ofVReg b) (ofVReg a) (ofVReg d)⟩
  | .vbcast wide d a => some ⟨0x59#8, 1#2, 0#1 ++ bit wide ++ 0#2, mkTail 0#48 0#1 0#5 a (ofVReg d)⟩
  | .vperm wide d a b => some ⟨0x5A#8, 1#2, 0#1 ++ bit wide ++ 0#2, mkTail 0#48 0#1 (ofVReg b) (ofVReg a) (ofVReg d)⟩
  | .vextr wide d a b => some ⟨0x5B#8, 1#2, 0#1 ++ bit wide ++ 0#2, mkTail 0#48 0#1 b (ofVReg a) d⟩
  | .vextrImm wide d a j => some ⟨0x5B#8, 2#2, 0#1 ++ bit wide ++ 0#2, mkTail (0#44 ++ j) 0#1 0#5 (ofVReg a) d⟩
  | .vfadd m d a b => some ⟨0x60#8, 1#2, m.toCode, mkTail 0#48 0#1 (ofVReg b) (ofVReg a) (ofVReg d)⟩
  | .vfsub m d a b => some ⟨0x61#8, 1#2, m.toCode, mkTail 0#48 0#1 (ofVReg b) (ofVReg a) (ofVReg d)⟩
  | .vfmul m d a b => some ⟨0x62#8, 1#2, m.toCode, mkTail 0#48 0#1 (ofVReg b) (ofVReg a) (ofVReg d)⟩
  | .vffma m d a b => some ⟨0x63#8, 1#2, m.toCode, mkTail 0#48 0#1 (ofVReg b) (ofVReg a) (ofVReg d)⟩
  | .vfmin m d a b => some ⟨0x64#8, 1#2, m.toCode, mkTail 0#48 0#1 (ofVReg b) (ofVReg a) (ofVReg d)⟩
  | .vfmax m d a b => some ⟨0x65#8, 1#2, m.toCode, mkTail 0#48 0#1 (ofVReg b) (ofVReg a) (ofVReg d)⟩
  | .vfrcp m d a => some ⟨0x66#8, 1#2, m.toCode, mkTail 0#48 0#1 0#5 (ofVReg a) (ofVReg d)⟩
  | .vfrsq m d a => some ⟨0x67#8, 1#2, m.toCode, mkTail 0#48 0#1 0#5 (ofVReg a) (ofVReg d)⟩
  | .vfexp m d a => some ⟨0x68#8, 1#2, m.toCode, mkTail 0#48 0#1 0#5 (ofVReg a) (ofVReg d)⟩
  | .vfcmp c wide d a b => some ⟨0x69#8, 1#2, bit wide ++ c.toCode, mkTail 0#48 0#1 (ofVReg b) (ofVReg a) (ofKReg d)⟩
  | .vfred op wide d a => some ⟨0x6A#8, 1#2, 0#1 ++ bit wide ++ op.toCode, mkTail 0#48 0#1 0#5 (ofVReg a) d⟩
  | .vrng unif d a b => some ⟨0x6B#8, 1#2, 0#3 ++ bit unif, mkTail 0#48 0#1 b a (ofVReg d)⟩
  | .fmt f => some ⟨0x70#8, 0#2, f.toCode, 0#64⟩
  | .rlx => some ⟨0x71#8, 0#2, 0#4, 0#64⟩
  | .vcvt f d a => some ⟨0x72#8, 1#2, f.toCode, mkTail 0#48 0#1 0#5 (ofVReg a) (ofVReg d)⟩
  | .vq8 f d a b => some ⟨0x73#8, 1#2, f.toCode, mkTail 0#48 0#1 (ofVReg b) (ofVReg a) (ofVReg d)⟩
  | .vdq8 f d a b => some ⟨0x74#8, 1#2, f.toCode, mkTail 0#48 0#1 b (ofVReg a) (ofVReg d)⟩
  | .vscale m d a b => some ⟨0x75#8, 1#2, m.toCode, mkTail 0#48 0#1 (ofVReg b) (ofVReg a) (ofVReg d)⟩
  | .kand op d a b => some ⟨0x76#8, 1#2, op.toCode, mkTail 0#48 0#1 (ofKReg b) (ofKReg a) (ofKReg d)⟩
  | .kmov d a => some ⟨0x77#8, 1#2, 0#4, mkTail 0#48 0#1 0#5 (ofKReg a) (ofKReg d)⟩
  | .kmovFx d a => some ⟨0x77#8, 1#2, 1#4, mkTail 0#48 0#1 0#5 a (ofKReg d)⟩
  | .kmovTx d a => some ⟨0x77#8, 1#2, 2#4, mkTail 0#48 0#1 0#5 (ofKReg a) d⟩
  | .vdrop => some ⟨0x78#8, 0#2, 0#4, 0#64⟩
  | .vpack f d a b => some ⟨0x79#8, 1#2, f.toCode, mkTail 0#48 0#1 (ofVReg b) (ofVReg a) (ofVReg d)⟩
  | .vunpk f d a b => some ⟨0x7A#8, 1#2, f.toCode, mkTail 0#48 0#1 b (ofVReg a) (ofVReg d)⟩
  | .vclamp m d a b => some ⟨0x7B#8, 1#2, m.toCode, mkTail 0#48 0#1 (ofVReg b) (ofVReg a) (ofVReg d)⟩
  | .ld sz d a imm => some ⟨0x80#8, 2#2, sz.toCode, mkTail (0#32 ++ imm) 0#1 0#5 a d⟩
  | .ldT4 sz d a imm => some ⟨0x80#8, 3#2, sz.toCode, mkTail imm 0#1 0#5 a d⟩
  | .ldv m d a imm => some ⟨0x81#8, 2#2, m.toCode, mkTail (0#32 ++ imm) 0#1 0#5 a (ofVReg d)⟩
  | .ldvT4 m d a imm => some ⟨0x81#8, 3#2, m.toCode, mkTail imm 0#1 0#5 a (ofVReg d)⟩
  | .ldvs m d a b imm => some ⟨0x82#8, 2#2, m.toCode, mkTail (0#32 ++ imm) 0#1 b a (ofVReg d)⟩
  | .ldvsT4 m d a b imm => some ⟨0x82#8, 3#2, m.toCode, mkTail imm 0#1 b a (ofVReg d)⟩
  | .ldvg m d a b imm => some ⟨0x83#8, 2#2, m.toCode, mkTail (0#32 ++ imm) 0#1 (ofVReg b) a (ofVReg d)⟩
  | .ldvgT4 m d a b imm => some ⟨0x83#8, 3#2, m.toCode, mkTail imm 0#1 (ofVReg b) a (ofVReg d)⟩
  | .ldl sz d a imm => some ⟨0x84#8, 2#2, sz.toCode, mkTail (0#32 ++ imm) 0#1 0#5 a d⟩
  | .ldlv m d a imm => some ⟨0x85#8, 2#2, m.toCode, mkTail (0#32 ++ imm) 0#1 0#5 a (ofVReg d)⟩
  | .ldfe d a imm => some ⟨0x86#8, 2#2, 0#4, mkTail (0#32 ++ imm) 0#1 0#5 a d⟩
  | .ldfeT4 d a imm => some ⟨0x86#8, 3#2, 0#4, mkTail imm 0#1 0#5 a d⟩
  | .ldff d a imm => some ⟨0x87#8, 2#2, 0#4, mkTail (0#32 ++ imm) 0#1 0#5 a d⟩
  | .ldffT4 d a imm => some ⟨0x87#8, 3#2, 0#4, mkTail imm 0#1 0#5 a d⟩
  | .ldfs d a b imm => some ⟨0x88#8, 2#2, 0#4, mkTail (0#32 ++ imm) 0#1 b a d⟩
  | .ldfsT4 d a b imm => some ⟨0x88#8, 3#2, 0#4, mkTail imm 0#1 b a d⟩
  | .ldx sz d a b imm => some ⟨0x89#8, 2#2, sz.toCode, mkTail (0#32 ++ imm) 0#1 b a d⟩
  | .ldxT4 sz d a b imm => some ⟨0x89#8, 3#2, sz.toCode, mkTail imm 0#1 b a d⟩
  | .ldm n d a imm => some ⟨0x8A#8, 2#2, 0#1 ++ n, mkTail (0#32 ++ imm) 0#1 0#5 a d⟩
  | .ldmT4 n d a imm => some ⟨0x8A#8, 3#2, 0#1 ++ n, mkTail imm 0#1 0#5 a d⟩
  | .ldnp sz d a b imm => some ⟨0x8B#8, 2#2, sz.toCode, mkTail (0#32 ++ imm) 0#1 b a d⟩
  | .ldnpT4 sz d a b imm => some ⟨0x8B#8, 3#2, sz.toCode, mkTail imm 0#1 b a d⟩
  | .st sz a b imm => some ⟨0x90#8, 2#2, sz.toCode, mkTail (0#32 ++ imm) 0#1 b a 0#5⟩
  | .stT4 sz a b imm => some ⟨0x90#8, 3#2, sz.toCode, mkTail imm 0#1 b a 0#5⟩
  | .stv m a b imm => some ⟨0x91#8, 2#2, m.toCode, mkTail (0#32 ++ imm) 0#1 (ofVReg b) a 0#5⟩
  | .stvT4 m a b imm => some ⟨0x91#8, 3#2, m.toCode, mkTail imm 0#1 (ofVReg b) a 0#5⟩
  | .stvs m d a b imm => some ⟨0x92#8, 2#2, m.toCode, mkTail (0#32 ++ imm) 0#1 (ofVReg b) a d⟩
  | .stvsT4 m d a b imm => some ⟨0x92#8, 3#2, m.toCode, mkTail imm 0#1 (ofVReg b) a d⟩
  | .stvg m d a b imm => some ⟨0x93#8, 2#2, m.toCode, mkTail (0#32 ++ imm) 0#1 (ofVReg b) a (ofVReg d)⟩
  | .stvgT4 m d a b imm => some ⟨0x93#8, 3#2, m.toCode, mkTail imm 0#1 (ofVReg b) a (ofVReg d)⟩
  | .stl sz a b imm => some ⟨0x94#8, 2#2, sz.toCode, mkTail (0#32 ++ imm) 0#1 b a 0#5⟩
  | .stlv m a b imm => some ⟨0x95#8, 2#2, m.toCode, mkTail (0#32 ++ imm) 0#1 (ofVReg b) a 0#5⟩
  | .stef a b imm => some ⟨0x96#8, 2#2, 0#4, mkTail (0#32 ++ imm) 0#1 b a 0#5⟩
  | .stefT4 a b imm => some ⟨0x96#8, 3#2, 0#4, mkTail imm 0#1 b a 0#5⟩
  | .stff a b imm => some ⟨0x97#8, 2#2, 0#4, mkTail (0#32 ++ imm) 0#1 b a 0#5⟩
  | .stffT4 a b imm => some ⟨0x97#8, 3#2, 0#4, mkTail imm 0#1 b a 0#5⟩
  | .fesetE a imm => some ⟨0x98#8, 2#2, 0#4, mkTail (0#32 ++ imm) 0#1 0#5 a 0#5⟩
  | .fesetET4 a imm => some ⟨0x98#8, 3#2, 0#4, mkTail imm 0#1 0#5 a 0#5⟩
  | .fesetF a imm => some ⟨0x98#8, 2#2, 1#4, mkTail (0#32 ++ imm) 0#1 0#5 a 0#5⟩
  | .fesetFT4 a imm => some ⟨0x98#8, 3#2, 1#4, mkTail imm 0#1 0#5 a 0#5⟩
  | .stm n a b imm => some ⟨0x99#8, 2#2, 0#1 ++ n, mkTail (0#32 ++ imm) 0#1 b a 0#5⟩
  | .stmT4 n a b imm => some ⟨0x99#8, 3#2, 0#1 ++ n, mkTail imm 0#1 b a 0#5⟩
  | .stx sz d a b imm => some ⟨0x9A#8, 2#2, sz.toCode, mkTail (0#32 ++ imm) 0#1 b a d⟩
  | .stxT4 sz d a b imm => some ⟨0x9A#8, 3#2, sz.toCode, mkTail imm 0#1 b a d⟩
  | .stnp sz d a b imm => some ⟨0x9B#8, 2#2, sz.toCode, mkTail (0#32 ++ imm) 0#1 b a d⟩
  | .stnpT4 sz d a b imm => some ⟨0x9B#8, 3#2, sz.toCode, mkTail imm 0#1 b a d⟩
  | .aadd sc d a b imm => some ⟨0xA0#8, 2#2, sc.toCode, mkTail (0#32 ++ imm) 0#1 b a d⟩
  | .aaddT4 sc d a b imm => some ⟨0xA0#8, 3#2, sc.toCode, mkTail imm 0#1 b a d⟩
  | .amin sc d a b imm => some ⟨0xA1#8, 2#2, sc.toCode, mkTail (0#32 ++ imm) 0#1 b a d⟩
  | .aminT4 sc d a b imm => some ⟨0xA1#8, 3#2, sc.toCode, mkTail imm 0#1 b a d⟩
  | .amax sc d a b imm => some ⟨0xA2#8, 2#2, sc.toCode, mkTail (0#32 ++ imm) 0#1 b a d⟩
  | .amaxT4 sc d a b imm => some ⟨0xA2#8, 3#2, sc.toCode, mkTail imm 0#1 b a d⟩
  | .aand sc d a b imm => some ⟨0xA3#8, 2#2, sc.toCode, mkTail (0#32 ++ imm) 0#1 b a d⟩
  | .aandT4 sc d a b imm => some ⟨0xA3#8, 3#2, sc.toCode, mkTail imm 0#1 b a d⟩
  | .aor sc d a b imm => some ⟨0xA4#8, 2#2, sc.toCode, mkTail (0#32 ++ imm) 0#1 b a d⟩
  | .aorT4 sc d a b imm => some ⟨0xA4#8, 3#2, sc.toCode, mkTail imm 0#1 b a d⟩
  | .axor sc d a b imm => some ⟨0xA5#8, 2#2, sc.toCode, mkTail (0#32 ++ imm) 0#1 b a d⟩
  | .axorT4 sc d a b imm => some ⟨0xA5#8, 3#2, sc.toCode, mkTail imm 0#1 b a d⟩
  | .aswp sc d a b imm => some ⟨0xA6#8, 2#2, sc.toCode, mkTail (0#32 ++ imm) 0#1 b a d⟩
  | .aswpT4 sc d a b imm => some ⟨0xA6#8, 3#2, sc.toCode, mkTail imm 0#1 b a d⟩
  | .acas sc d a b imm => some ⟨0xA7#8, 2#2, sc.toCode, mkTail (0#32 ++ imm) 0#1 b a d⟩
  | .acasT4 sc d a b imm => some ⟨0xA7#8, 3#2, sc.toCode, mkTail imm 0#1 b a d⟩
  | .afadd sc d a b imm => some ⟨0xA8#8, 2#2, sc.toCode, mkTail (0#32 ++ imm) 0#1 b a d⟩
  | .afaddT4 sc d a b imm => some ⟨0xA8#8, 3#2, sc.toCode, mkTail imm 0#1 b a d⟩
  | .fence sc => some ⟨0xA9#8, 0#2, sc.toCode, 0#64⟩
  | .waita => some ⟨0xAA#8, 0#2, 0#4, 0#64⟩
  | .bhintPf d a imm => some ⟨0xAB#8, 2#2, 0#4, mkTail (0#32 ++ imm) 0#1 0#5 a d⟩
  | .bhintPfT4 d a imm => some ⟨0xAB#8, 3#2, 0#4, mkTail imm 0#1 0#5 a d⟩
  | .bhintPin d a imm => some ⟨0xAB#8, 2#2, 1#4, mkTail (0#32 ++ imm) 0#1 0#5 a d⟩
  | .bhintPinT4 d a imm => some ⟨0xAB#8, 3#2, 1#4, mkTail imm 0#1 0#5 a d⟩
  | .bhintUnpin d a imm => some ⟨0xAB#8, 2#2, 2#4, mkTail (0#32 ++ imm) 0#1 0#5 a d⟩
  | .bhintUnpinT4 d a imm => some ⟨0xAB#8, 3#2, 2#4, mkTail imm 0#1 0#5 a d⟩
  | .bhintEv d a imm => some ⟨0xAB#8, 2#2, 3#4, mkTail (0#32 ++ imm) 0#1 0#5 a d⟩
  | .bhintEvT4 d a imm => some ⟨0xAB#8, 3#2, 3#4, mkTail imm 0#1 0#5 a d⟩
  | .spawn p d a b => some ⟨0xB0#8, 1#2, p.toCode, mkTail 0#48 0#1 b a d⟩
  | .spawnLabel p d a target => some ⟨0xB0#8, 2#2, p.toCode, mkTail (0#32 ++ target) 0#1 0#5 a d⟩
  | .quit => some ⟨0xB1#8, 0#2, 0#4, 0#64⟩
  | .launch d a => some ⟨0xB2#8, 1#2, 0#4, mkTail 0#48 0#1 0#5 a d⟩
  | .yield => some ⟨0xB3#8, 0#2, 0#4, 0#64⟩
  | .migrate d a => some ⟨0xB4#8, 1#2, 0#4, mkTail 0#48 0#1 0#5 a d⟩
  | .migrateNear d a => some ⟨0xB4#8, 1#2, 1#4, mkTail 0#48 0#1 0#5 a d⟩
  | .send ch d a b => some ⟨0xB5#8, 1#2, 0#2 ++ ch, mkTail 0#48 0#1 b a d⟩
  | .recv d a => some ⟨0xB6#8, 1#2, 0#4, mkTail 0#48 0#1 0#5 a d⟩
  | .waitm => some ⟨0xB7#8, 0#2, 0#4, 0#64⟩
  | .bar sc d a => some ⟨0xB8#8, 1#2, sc.toCode, mkTail 0#48 0#1 0#5 a d⟩
  | .bara sc d a b => some ⟨0xB9#8, 1#2, sc.toCode, mkTail 0#48 0#1 b a d⟩
  | .trigarm d a b => some ⟨0xBA#8, 1#2, 0#4, mkTail 0#48 0#1 b a d⟩
  | .sendx ch d a b => some ⟨0xBB#8, 1#2, 0#2 ++ ch, mkTail 0#48 0#1 b a d⟩
  | .tqpush d a b => some ⟨0xC0#8, 1#2, 0#4, mkTail 0#48 0#1 b a d⟩
  | .tqstat d a => some ⟨0xC1#8, 1#2, 0#4, mkTail 0#48 0#1 0#5 a d⟩
  | .tkill d a => some ⟨0xC2#8, 1#2, 0#4, mkTail 0#48 0#1 0#5 a d⟩
  | .tcont d a b => some ⟨0xC3#8, 1#2, 0#4, mkTail 0#48 0#1 b a d⟩
  | .accal d a => some ⟨0xC4#8, 1#2, 0#4, mkTail 0#48 0#1 0#5 a d⟩
  | .accfr d a => some ⟨0xC5#8, 1#2, 0#4, mkTail 0#48 0#1 0#5 a d⟩
  | .accld d a b imm => some ⟨0xC6#8, 2#2, 0#4, mkTail (0#32 ++ imm) 0#1 b a (ofVReg d)⟩
  | .accst d a b imm => some ⟨0xC7#8, 2#2, 0#4, mkTail (0#32 ++ imm) 0#1 (ofVReg b) a d⟩
  | .accz a b => some ⟨0xC8#8, 1#2, 0#4, mkTail 0#48 0#1 b a 0#5⟩
  | .ssmrun d a b => some ⟨0xC9#8, 1#2, 0#4, mkTail 0#48 0#1 b a d⟩
  | .ssmstat d a => some ⟨0xCA#8, 1#2, 0#4, mkTail 0#48 0#1 0#5 a d⟩
  | .tseq d a => some ⟨0xCB#8, 1#2, 0#4, mkTail 0#48 0#1 0#5 a d⟩
  | .jinit d a b => some ⟨0xD0#8, 1#2, 0#4, mkTail 0#48 0#1 b a d⟩
  | .jarrive d => some ⟨0xD1#8, 1#2, 0#4, mkTail 0#48 0#1 0#5 0#5 d⟩
  | .jcontrib d a b => some ⟨0xD2#8, 1#2, 0#4, mkTail 0#48 0#1 b a d⟩
  | .jwait d a => some ⟨0xD3#8, 1#2, 0#4, mkTail 0#48 0#1 0#5 a d⟩
  | .jqrySt d a => some ⟨0xD4#8, 1#2, 0#4, mkTail 0#48 0#1 0#5 a d⟩
  | .jqryWt d a => some ⟨0xD4#8, 1#2, 1#4, mkTail 0#48 0#1 0#5 a d⟩
  | .jkill d a b => some ⟨0xD5#8, 1#2, 0#4, mkTail 0#48 0#1 b a d⟩
  | .jroster d a b => some ⟨0xD6#8, 1#2, 0#4, mkTail 0#48 0#1 b a d⟩
  | .jreplay d a b => some ⟨0xD7#8, 1#2, 0#4, mkTail 0#48 0#1 b a d⟩
  | .jclose d a => some ⟨0xD8#8, 1#2, 0#4, mkTail 0#48 0#1 0#5 a d⟩
  | .kmaskOff => some ⟨0xD9#8, 0#2, 0#4, 0#64⟩
  | .kmaskOn => some ⟨0xD9#8, 0#2, 1#4, 0#64⟩
  | .jbind d a b => some ⟨0xDA#8, 1#2, 0#4, mkTail 0#48 0#1 b a d⟩
  | .jrel d a => some ⟨0xDB#8, 1#2, 0#4, mkTail 0#48 0#1 0#5 a d⟩
  | .copy mb d => some ⟨0xE0#8, 1#2, 0#2 ++ mb, mkTail 0#48 0#1 0#5 0#5 d⟩
  | .copys mb d => some ⟨0xE1#8, 1#2, 0#2 ++ mb, mkTail 0#48 0#1 0#5 0#5 d⟩
  | .deal mb d => some ⟨0xE2#8, 1#2, 0#2 ++ mb, mkTail 0#48 0#1 0#5 0#5 d⟩
  | .enck mb d => some ⟨0xE3#8, 1#2, 0#2 ++ mb, mkTail 0#48 0#1 0#5 0#5 d⟩
  | .deck mb d => some ⟨0xE4#8, 1#2, 0#2 ++ mb, mkTail 0#48 0#1 0#5 0#5 d⟩
  | .redc mb d => some ⟨0xE5#8, 1#2, 0#2 ++ mb, mkTail 0#48 0#1 0#5 0#5 d⟩
  | .bcast mb d => some ⟨0xE6#8, 1#2, 0#2 ++ mb, mkTail 0#48 0#1 0#5 0#5 d⟩
  | .lease d a => some ⟨0xE7#8, 1#2, 0#4, mkTail 0#48 0#1 0#5 a d⟩
  | .unlease d a => some ⟨0xE8#8, 1#2, 0#4, mkTail 0#48 0#1 0#5 a d⟩
  | .mbxst mb d a w => some ⟨0xE9#8, 2#2, 0#2 ++ mb, mkTail (0#44 ++ w) 0#1 0#5 a d⟩
  | .trigset d a b => some ⟨0xEA#8, 1#2, 0#4, mkTail 0#48 0#1 b a d⟩
  | .trigrd d a => some ⟨0xEB#8, 1#2, 0#4, mkTail 0#48 0#1 0#5 a d⟩
  | .trap m => some ⟨0xF0#8, 0#2, m, 0#64⟩
  | .tret => some ⟨0xF1#8, 0#2, 0#4, 0#64⟩
  | .svc n => some ⟨0xF2#8, 2#2, 0#4, mkTail (0#32 ++ n) 0#1 0#5 0#5 0#5⟩
  | .gstop => some ⟨0xF3#8, 0#2, 0#4, 0#64⟩
  | .gres => some ⟨0xF4#8, 0#2, 0#4, 0#64⟩
  | .tlbiG a b => some ⟨0xF5#8, 1#2, 0#4, mkTail 0#48 0#1 b a 0#5⟩
  | .tlbiH a => some ⟨0xF5#8, 1#2, 1#4, mkTail 0#48 0#1 0#5 a 0#5⟩
  | .tlbiAsid b => some ⟨0xF5#8, 1#2, 2#4, mkTail 0#48 0#1 b 0#5 0#5⟩
  | .tlbiAll => some ⟨0xF5#8, 1#2, 3#4, mkTail 0#48 0#1 0#5 0#5 0#5⟩
  | .fqpop d a b => some ⟨0xF6#8, 1#2, 0#4, mkTail 0#48 0#1 b a d⟩
  | .fqrepReplay d a b => some ⟨0xF7#8, 1#2, 0#4, mkTail 0#48 0#1 b a d⟩
  | .fqrepGiveup d a b => some ⟨0xF7#8, 1#2, 0#4, mkTail 0#48 0#1 b a d⟩
  | .pgmap d a => some ⟨0xF8#8, 1#2, 0#4, mkTail 0#48 0#1 0#5 a d⟩
  | .slice d a b => some ⟨0xF9#8, 1#2, 0#4, mkTail 0#48 0#1 b a d⟩
  | .prtnQry d a => some ⟨0xFA#8, 1#2, 0#4, mkTail 0#48 0#1 0#5 a d⟩
  | .prtnSplit d a => some ⟨0xFA#8, 1#2, 1#4, mkTail 0#48 0#1 0#5 a d⟩
  | .prtnMerge d a => some ⟨0xFA#8, 1#2, 2#4, mkTail 0#48 0#1 0#5 a d⟩
  | .wfe => some ⟨0xFB#8, 0#2, 0#4, 0#64⟩
  | .movsWptr d => some ⟨0x35#8, 1#2, 0#4, mkTail 0#48 0#1 0#5 4#5 d⟩
  | .movsSsp d => some ⟨0x35#8, 1#2, 0#4, mkTail 0#48 0#1 0#5 5#5 d⟩
  | .movtSts a => some ⟨0x36#8, 1#2, 0#4, mkTail 0#48 0#1 0#5 a 0#5⟩
  | .movtWptr a => some ⟨0x36#8, 1#2, 0#4, mkTail 0#48 0#1 0#5 a 4#5⟩
  | .movtSsp a => some ⟨0x36#8, 1#2, 0#4, mkTail 0#48 0#1 0#5 a 5#5⟩
  | .lend => some ⟨0xF2#8, 2#2, 0#4, mkTail (0#32 ++ 0x8000#16) 0#1 0#5 0#5 0#5⟩
  | .smove => some ⟨0xF2#8, 2#2, 0#4, mkTail (0#32 ++ 0x8001#16) 0#1 0#5 0#5 0#5⟩
  | .sreg => some ⟨0xF2#8, 2#2, 0#4, mkTail (0#32 ++ 0x8002#16) 0#1 0#5 0#5 0#5⟩
  | .sret => some ⟨0xF2#8, 2#2, 0#4, mkTail (0#32 ++ 0x8003#16) 0#1 0#5 0#5 0#5⟩
  | .pspill => some ⟨0xF2#8, 2#2, 0#4, mkTail (0#32 ++ 0x8004#16) 0#1 0#5 0#5 0#5⟩
  | .sstep => some ⟨0xF2#8, 2#2, 0#4, mkTail (0#32 ++ 0x8005#16) 0#1 0#5 0#5 0#5⟩
  | .flog => some ⟨0xF2#8, 2#2, 0#4, mkTail (0#32 ++ 0x8006#16) 0#1 0#5 0#5 0#5⟩
  | .sendLoopback ch d a b => some ⟨0xB5#8, 1#2, 0#2 ++ ch, mkTail 0#48 0#1 b a d⟩
  | .sendEndOverflow ch d a b => some ⟨0xB5#8, 1#2, 0#2 ++ ch, mkTail 0#48 0#1 b a d⟩
  | .recvArrival d a => some ⟨0xB6#8, 1#2, 0#4, mkTail 0#48 0#1 0#5 a d⟩
  | .reservedOpcode op m tl t => some ⟨op, tl, m, t⟩
  | .queuePortLaunch | .queuePortOtherKind | .launchStrandCreate | .strandArrival | .wordRequestAnswer
    | .postedWriteDrain | .spillSector | .slotPatienceExpiry | .wordWaiterRetry | .fetchStart | .fetchDone
    | .fetchFault | .writeBackDone | .launchSweep | .messageArrival | .arrivalQueueAdmit | .movementDispatch
    | .movementSegmentEnd | .movementComplete | .movementFault | .leasePeriodEnd | .triggeredEnqueue
    | .taskKblockEnd | .taskFault | .taskComplete | .engineFailure | .ssmUnitEnd | .ssmUnitFault
    | .joinDeferredArrival | .joinFoldDone | .joinFoldFault | .faultPostRetry | .sliceExpiry | .sliceOverrun
    | .ldxTimeout | .rtaArm | .rtaActRead | .rtaArmExpiry | .writeBackScan | .flashWriteComplete | .hostAccess
    | .linkPortFailure | .dieReset | .dieReturn | .hbmStackLoss | .rowRemapFailure | .scrubPass | .clockStretch
    | .vfReplan | .imageVerify | .moduleMemoryInit | .crst | .msrWrite | .ahashWrite | .pewcfgWrite
    | .stackCounterClear | .partitionRecordCommit | .partitionDissolve | .serviceSpaceWrite | .hmapStore
    | .pinqStore | .controlRegionWrite | .movementEngineFailure | .remoteAccessArrival | .remoteBarrierArrival
    | .storagePortAccess | .backgroundClearing | .virtualFunctionReset | .moduleReset | .podFormation
    | .queuePortAssignment => none

/-- The instructions that decoding yields for an encoding: the rows a run tells apart by state (a `SEND` that loops
back or overflows, a `RECV` that waits for an arrival) share their words with the plain row, and the two `FQREP` rows
are told apart by b. -/
def Instr.canonical : Instr → Bool
  | .sendLoopback .. | .sendEndOverflow .. | .recvArrival .. => false
  | .fqrepReplay _ _ b => b == 0#5
  | .fqrepGiveup _ _ b => b != 0#5
  | i => i.wf && (encode i).isSome

end Sys2Proof
end

