-- ==== Sys2Proof/Machine/Event.lean ====
section
/-! DEFINITION. Hardware contexts, block names, and what a module event is about: the rows of the opcode table that have no
encoding, with the thing each concerns (R8: each is one indivisible step of the module). -/

namespace Sys2Proof.Machine

/-- A hardware context: a strand, by its strand number (R96), or the supervisor context of a core, by its module core
number (R244). -/
inductive CtxId where
  | strand (sid : Nat)
  | sup (core : Nat)
  deriving DecidableEq, Repr

/-- The name of a block (R268): partition, ASID and block address. -/
structure BlockKey where
  part : Nat
  asid : Nat
  blk : Nat
  deriving DecidableEq, Repr

/-- Who reaches a device register (R414, R427): its name, the die it translates at, the core concerned (0xFFFF where none is), and the
partition it acts for. -/
structure DevAgent where
  who : CtxId
  die : Nat
  core : Nat := 0xFFFF
  part : Nat
  deriving DecidableEq, Repr

/-- What a module event is about: one constructor for each event row of the table, with its subject. -/
inductive Event where
  | queuePortLaunch (port pasid offset : Nat) (words : List Word)
  | queuePortOtherKind (port pasid offset : Nat) (words : List Word)
  | queuePortServe (port : Nat)
  | queuePortServeOther (port : Nat)
  | launchStrandCreate (lid : Nat)
  | strandArrival (sid : Nat)
  | wordRequestAnswer (c : CtxId) (i : Nat)
  | postedWriteDrain (die i : Nat)
  | spillSector (core : Nat)
  | slotPatienceExpiry (c : CtxId)
  | wordWaiterRetry (c : CtxId)
  | fetchStart (die : Nat)
  | fetchDone (die : Nat) (k : BlockKey)
  | fetchFault (die : Nat) (k : BlockKey)
  | writeBackDone (die : Nat) (k : BlockKey)
  | launchSweep (lid : Nat)
  | messageArrival (i : Nat)
  | arrivalQueueAdmit (core : Nat)
  | movementDispatch (die part : Nat)
  | movementSegmentEnd (die eng : Nat)
  | movementComplete (die eng : Nat)
  | movementFault (die eng : Nat)
  | leasePeriodEnd (die eng : Nat)
  | triggeredEnqueue (die part : Nat)
  | taskKblockEnd (die part seq : Nat)
  | taskFault (die part seq : Nat)
  | taskComplete (die part seq : Nat)
  | engineFailure (die quad : Nat)
  | ssmUnitEnd (die part seq quad : Nat)
  | ssmUnitFault (die part seq quad : Nat)
  | joinDeferredArrival (die idx memb : Nat)
  | joinFoldDone (die idx : Nat)
  | joinFoldFault (die idx : Nat)
  | faultPostRetry (die : Nat)
  | sliceExpiry (core : Nat)
  | sliceOverrun (core : Nat)
  | ldxTimeout (c : CtxId)
  | rtaArm (c : CtxId) (page : Nat) (value : Word)
  | rtaActRead (c : CtxId) (page off : Nat)
  | rtaArmExpiry (page : Nat)
  | writeBackScan (part asid va : Nat)
  | flashWriteComplete (tag : Nat) (ok : Bool)
  | hostAccess (port pasid va size : Nat) (write : Option Word)
  | linkPortFailure (port : Nat)
  | dieReset (die : Nat)
  | dieReturn (die : Nat)
  | hbmStackLoss (stack : Nat)
  | rowRemapFailure (stack bank base len : Nat) (shadowBad : Bool)
  | scrubPass (atom errors : Nat)
  | localError (core off : Nat)
  | frameError (die : Nat) (k : BlockKey) (off : Nat)
  | accError (die off : Nat)
  | parkError (sid word : Nat)
  | clockStretch (die sector : Nat)
  | vfReplan (die : Nat)
  | imageVerify (img : Nat) (rsaOk slhOk : Bool)
  | moduleMemoryInit
  | crst (core : Nat) (v : Word)
  | msrWrite (v : Word)
  | ahashWrite (j : Nat) (v : Word)
  | pewcfgWrite (die : Nat) (v : Word)
  | stackCounterClear (stack word : Nat) (v : Word)
  | partitionRecordCommit (p : Nat) (w15 : Word)
  | partitionDissolve (p : Nat) (v : Word)
  | serviceSpaceWrite (off size : Nat) (v : Word)
  | serviceSpaceRead (off size : Nat)
  | hmapStore (a : DevAgent) (part off size : Nat) (v : Word)
  | pinqStore (a : DevAgent) (part off size : Nat) (v : Word)
  | controlRegionWrite (a : DevAgent) (part off size : Nat) (v : Word)
  | movementEngineFailure (die eng : Nat)
  | remoteAccessArrival (srcMod part asid va size : Nat) (write : Option Word)
  | remoteAccessRetry (id : Nat)
  | hostAccessRetry (id : Nat)
  | storagePortRetry (id : Nat)
  | remoteMessage (words : List Word) (src ch dst : Nat)
  | remoteBarrierArrival (part scope unit bid n : Nat) (bara : Bool) (c : Word)
  | storagePortAccess (part asid va size : Nat) (write : Option Word)
  | backgroundClearing (atom : Nat)
  | virtualFunctionReset (base len part : Nat)
  | moduleReset
  | podFormation (n : Nat) (members : List Nat)
  | queuePortAssignment (port part : Nat) (tags : List (Nat × Nat))
  deriving DecidableEq, Repr

/-- The row of the opcode table an event belongs to. -/
def Event.row : Event → Instr
  | .queuePortLaunch .. => .queuePortLaunch
  | .queuePortOtherKind .. => .queuePortOtherKind
  | .queuePortServe .. => .queuePortLaunch
  | .queuePortServeOther .. => .queuePortOtherKind
  | .launchStrandCreate .. => .launchStrandCreate
  | .strandArrival .. => .strandArrival
  | .wordRequestAnswer .. => .wordRequestAnswer
  | .postedWriteDrain .. => .postedWriteDrain
  | .spillSector .. => .spillSector
  | .slotPatienceExpiry .. => .slotPatienceExpiry
  | .wordWaiterRetry .. => .wordWaiterRetry
  | .fetchStart .. => .fetchStart
  | .fetchDone .. => .fetchDone
  | .fetchFault .. => .fetchFault
  | .writeBackDone .. => .writeBackDone
  | .launchSweep .. => .launchSweep
  | .messageArrival .. => .messageArrival
  | .arrivalQueueAdmit .. => .arrivalQueueAdmit
  | .movementDispatch .. => .movementDispatch
  | .movementSegmentEnd .. => .movementSegmentEnd
  | .movementComplete .. => .movementComplete
  | .movementFault .. => .movementFault
  | .leasePeriodEnd .. => .leasePeriodEnd
  | .triggeredEnqueue .. => .triggeredEnqueue
  | .taskKblockEnd .. => .taskKblockEnd
  | .taskFault .. => .taskFault
  | .taskComplete .. => .taskComplete
  | .engineFailure .. => .engineFailure
  | .ssmUnitEnd .. => .ssmUnitEnd
  | .ssmUnitFault .. => .ssmUnitFault
  | .joinDeferredArrival .. => .joinDeferredArrival
  | .joinFoldDone .. => .joinFoldDone
  | .joinFoldFault .. => .joinFoldFault
  | .faultPostRetry .. => .faultPostRetry
  | .sliceExpiry .. => .sliceExpiry
  | .sliceOverrun .. => .sliceOverrun
  | .ldxTimeout .. => .ldxTimeout
  | .rtaArm .. => .rtaArm
  | .rtaActRead .. => .rtaActRead
  | .rtaArmExpiry .. => .rtaArmExpiry
  | .writeBackScan .. => .writeBackScan
  | .flashWriteComplete .. => .flashWriteComplete
  | .hostAccess .. => .hostAccess
  | .linkPortFailure .. => .linkPortFailure
  | .dieReset .. => .dieReset
  | .dieReturn .. => .dieReturn
  | .hbmStackLoss .. => .hbmStackLoss
  | .rowRemapFailure .. => .rowRemapFailure
  | .scrubPass .. => .scrubPass
  | .localError .. => .scrubPass
  | .frameError .. => .scrubPass
  | .accError .. => .scrubPass
  | .parkError .. => .scrubPass
  | .clockStretch .. => .clockStretch
  | .vfReplan .. => .vfReplan
  | .imageVerify .. => .imageVerify
  | .moduleMemoryInit => .moduleMemoryInit
  | .crst .. => .crst
  | .msrWrite .. => .msrWrite
  | .ahashWrite .. => .ahashWrite
  | .pewcfgWrite .. => .pewcfgWrite
  | .stackCounterClear .. => .stackCounterClear
  | .partitionRecordCommit .. => .partitionRecordCommit
  | .partitionDissolve .. => .partitionDissolve
  | .serviceSpaceWrite .. => .serviceSpaceWrite
  | .serviceSpaceRead .. => .serviceSpaceWrite
  | .hmapStore .. => .hmapStore
  | .pinqStore .. => .pinqStore
  | .controlRegionWrite .. => .controlRegionWrite
  | .movementEngineFailure .. => .movementEngineFailure
  | .remoteAccessArrival .. => .remoteAccessArrival
  | .remoteAccessRetry .. => .remoteAccessArrival
  | .hostAccessRetry .. => .hostAccess
  | .storagePortRetry .. => .storagePortAccess
  | .remoteMessage .. => .messageArrival
  | .remoteBarrierArrival .. => .remoteBarrierArrival
  | .storagePortAccess .. => .storagePortAccess
  | .backgroundClearing .. => .backgroundClearing
  | .virtualFunctionReset .. => .virtualFunctionReset
  | .moduleReset => .moduleReset
  | .podFormation .. => .podFormation
  | .queuePortAssignment .. => .queuePortAssignment

end Sys2Proof.Machine
end

