-- ==== Sys2Proof/Machine/State.lean ====
section
/-! DEFINITION. The state of the module: everything the manual gives it, as plain data (R11 to R40 and each later chapter),
the reasons a step can stop, and the machine right after reset. -/

namespace Sys2Proof.Machine

/-- The reasons the machine stops with a fault: none. Every condition the manual names is a trap, a wait, a supervisor fault or a
refusal form that the machine itself handles (R94, R95, R243 to R247), after which the module goes on. -/
inductive Fault where
  deriving DecidableEq, Repr

/-- The reasons the model refuses an instruction. -/
inductive Refusal where
  /-- Raised by an arm of `exec` whose instruction has no meaning yet. Safe: nothing is claimed of it. -/
  | notModelled (mnemonic : String)
  deriving DecidableEq, Repr

/-! ### Memory -/

/-- A store of bytes with a full/empty bit per 8-byte word and poison per word (R207, R212). In canonical form `cells`,
`empty` and `poison` are strictly rising and no cell holds zero: an unlisted byte reads as zero and an unlisted word is
full, as R208 clears memory. -/
structure Bank where
  cells : List Host.Cell := []
  empty : List Nat := []
  poison : List Nat := []
  deriving DecidableEq, Repr

/-- Strictly rising keys, each above `lo`, no value zero. -/
def cellsWf : Nat → List Host.Cell → Bool
  | _, [] => true
  | lo, (a, b) :: rest => decide (lo ≤ a) && b != 0#8 && cellsWf (a + 1) rest

/-- Strictly rising numbers from `lo` on. -/
def risingFrom : Nat → List Nat → Bool
  | _, [] => true
  | lo, a :: rest => decide (lo ≤ a) && risingFrom (a + 1) rest

/-- The canonical form of a bank. -/
def Bank.wf (b : Bank) : Bool := cellsWf 0 b.cells && risingFrom 0 b.empty && risingFrom 0 b.poison

/-- The place of a word's single copy (R271): a core's local store, a physical address, or a resident block's frame. -/
inductive Loc where
  | loc (core off : Nat)
  | direct (pa : Nat)
  | frame (die : Nat) (k : BlockKey) (off : Nat)
  deriving DecidableEq, Repr

/-- Who made a write, as far as a scope asks (R25, R44): the context, the core it is in (or whose local store an engine wrote), its
quad in the module, its die, partition, launch and join, and whether it stands outside the module: 1 at a host or storage port, 2 in
another module. -/
structure Writer where
  ctx : Option CtxId := none
  core : Option Nat := none
  quads : List Nat := []
  die : Option Nat := none
  part : Nat := 0
  lid : Word := 0#64
  join : Nat := 0
  outside : Nat := 0
  deriving DecidableEq, Repr

/-- A write in a die's posted-write path (R229): where, how many bytes, the value, the context that wrote it, what scopes ask of it
(R44), and the step of the access that made it, by which its answer finds it (R219). -/
structure Posted where
  die : Nat
  at_ : Loc
  size : Nat
  val : Nat
  ctx : CtxId
  by_ : Writer
  op : Nat
  deriving DecidableEq, Repr

/-! ### Contexts -/

/-- The l and i registers of an older window (R127, R133). -/
structure Window where
  l : Vector Word 8 := Vector.replicate 8 0#64
  i : Vector Word 8 := Vector.replicate 8 0#64
  deriving DecidableEq, Repr

/-- A fixed-latency result not yet in place (R55 to R57). `reg` is numbered as in R59; `left` is the issue distance
still missing, `lat` the latency; `up` counts the windows opened since, for an l or i register. -/
structure Fly where
  reg : Nat
  up : Nat
  val : Nat
  left : Nat
  lat : Nat
  deriving DecidableEq, Repr

/-- An access or other variable-latency operation whose answer is outstanding (R58, R219): the registers that carry
pending bits for it, whether it is an ordinary or a relaxed access, and the step of its issue. -/
structure Req where
  regs : List Nat
  ordinary : Bool
  relaxed : Bool
  op : Nat
  deriving DecidableEq, Repr

/-- What an access needs (R393). -/
inductive Kind where
  | read | write | both | exec
  deriving DecidableEq, Repr

/-- A store into a line since a context decoded it (R44): who made it, the line's bits it wrote and their value, and whether the context
has since executed a fence whose scope includes the writer. -/
structure LineStore where
  by_ : Writer
  mask : BitVec 512
  val : BitVec 512
  seen : Bool := false
  deriving DecidableEq, Repr

/-- A decoded copy of a line that a context holds (R44, R45): the line's address with the core whose local store it came from, else 0;
where its bytes lay; its instructions; the bytes they came from; the stores into the line since, oldest first; and whether the line is
fetched again when control next enters it. -/
structure LineCopy where
  key : Word × Nat
  at_ : Loc
  insts : List Slotted
  bytes : BitVec 512 := 0
  stores : List LineStore := []
  stale : Bool := false
  deriving DecidableEq, Repr

/-- Why a walk fails (R400). -/
structure WalkFail where
  hyp : Bool
  reason : Nat
  ipa : Nat
  deriving DecidableEq, Repr

/-- What holds a context in its slot (R16, R28). -/
inductive Wait where
  /-- Nothing: it may issue. -/
  | none
  /-- Suspended by a trap until the supervisor disposes of it (R244). -/
  | suspended
  /-- It has a word-waiter entry on this die, and its slot patience ends at the stamp (R284). -/
  | word (die until_ : Nat)
  /-- It waits in its slot for a word-waiter entry to free (R284). -/
  | wordRetry
  /-- It stands in the queue of an absent block with its slot held (R29, R30). -/
  | block (k : BlockKey)
  /-- A fault waiter (R399): the die, the live entry's token or none yet (R402), the address, and the failure. -/
  | fault (die : Nat) (token : Option Nat) (va : Word) (k : Kind) (f : WalkFail)
  /-- It waits, for an answer to register `d`, while Clove waits at its own access on `die`, made in the space of the join's maker (R372,
  R373). -/
  | clove (die : Nat) (token : Option Nat) (va : Nat) (k : Kind) (f : WalkFail) (d asid : Nat)
  /-- A write that waits for WB to clear in this guest leaf, at a physical address (R399). -/
  | writeBack (leaf : Nat)
  /-- An accumulator access that waits for locked tiles of its die (R28, R337). -/
  | tile (die : Nat) (tiles : List Nat)
  /-- At a barrier with its slot held (R29). -/
  | barrier
  /-- `WAITM` with its slot held (R29). -/
  | message
  /-- `JWAIT` with its slot held (R29). -/
  | join
  /-- An access to another module, sent at the stamp; for a load, the register, the size in bytes and whether the value is
  sign-extended (R224). -/
  | remote (sent : Nat) (va : Word) (dest : Option (Nat × Nat × Bool))
  /-- A supervisor context in `WFE` (R249), or one that is idle or stopped (R247, R248). -/
  | idle
  deriving DecidableEq, Repr

/-- Where a context is (R102, R103, R105, R140). -/
inductive Place where
  /-- In `slot` of `core`. -/
  | slot
  /-- Parked, with a CAUSE of R140; the record is on `die`. -/
  | parked (cause die : Nat)
  /-- In the ready pool of a die (CAUSE 0x06). -/
  | pool (die : Nat)
  /-- In a Utell core's own queue (CAUSE 0x06). -/
  | utellQueue (core : Nat)
  /-- In transit to a die (CAUSE 0x07); it enters `bound`'s queue or pool, a free pool, or a block queue. -/
  | transit (die : Nat) (bound : Option Nat) (block : Option (BlockKey × Nat))
  deriving DecidableEq, Repr

/-- A hardware context: a strand or a supervisor context, with all that travels with it. -/
structure Thread where
  /-- g0 to g7, o0 to o7, l0 to l7, i0 to i7 of the current window (R126, R127). -/
  regs : Vector Word 32 := Vector.replicate 32 0#64
  /-- Resident older windows, newest first (R132). -/
  older : List Window := []
  /-- Sectors of the oldest resident window already spilled, once it is marked (R134); and whether an idle spill of it has faulted, so that
  it waits for a forced one (R136). -/
  spillSec : Nat := 0
  spillOff : Bool := false
  /-- WPTR.DEPTH and WPTR.ZSZ (R132). -/
  depth : Nat := 0
  zsz : Nat := 0
  /-- SSP (R128, R133). -/
  ssp : Word := 0#64
  /-- The program counter (R46). -/
  pc : Word := 0#64
  /-- STS (R130). -/
  sts : Word := 0#64
  /-- TPC, TCAUSE, TVAL (R128, R245): a strand keeps them as it parks or moves (DESIGN CHOICE, log 109). -/
  tpc : Word := 0#64
  tcause : Word := 0#64
  tval : Word := 0#64
  /-- SID (R128): 0xFFFFFF in a supervisor context. -/
  sid : Nat := 0
  /-- LID, JMEM, KHND (R112, R367, R128). -/
  lid : Word := 0#64
  jmem : Word := 0#64
  khnd : Word := 0#64
  /-- v0 to v7 and k0 to k3 (R154). -/
  vregs : Vector VecReg 8 := Vector.replicate 8 0#512
  kregs : Vector Mask 4 := Vector.replicate 4 0#16
  /-- Fixed-latency results not yet in place, oldest first. -/
  fly : List Fly := []
  /-- Outstanding variable-latency operations. -/
  outs : List Req := []
  /-- The decoded copies of lines that the context holds, and the key of the one it is in (R44). -/
  lines : List LineCopy := []
  curLine : Option (Word × Nat) := none
  /-- The current line is to be fetched again when control next enters it, once it has left it (R44). -/
  staleCur : Bool := false
  /-- The instruction in issue: its head and tail, and the count of its line (R49, R47). -/
  head : BitVec 16 := 0#16
  tail : BitVec 64 := 0#64
  lineN : Nat := 0
  /-- Issue cycles still held (R54). -/
  hold : Nat := 0
  /-- The core it is in or last issued in, and its slot there (R101, R102). -/
  core : Nat := 0
  slot : Nat := 0
  place : Place := .slot
  wait : Wait := .none
  /-- An access of its instruction failed and has been replayed: the access is made again even while its partition is gang-stopped
  (R415). -/
  again : Bool := false
  /-- A line fetch of it has been replayed: the fetch is made even while its partition is gang-stopped (R415). -/
  refetch : Bool := false
  /-- Clove has taken its `JCONTRIB`, which completes though a kill comes meanwhile (R388). -/
  begun : Bool := false
  /-- Partition and address space (R389). -/
  part : Nat := 0
  asid : Nat := 0
  /-- Kills that are pending, oldest first, each as the word its handler receives (R380, R381). -/
  kill : List Word := []
  /-- Its launch is being ended (R119). -/
  ending : Bool := false
  /-- A fault, a poison or another trap to be taken at its next issue: cause and value (R227, R280). -/
  trapDue : Option (Nat × Word) := none
  /-- Registers written while it was parked (R285, R240). -/
  deliver : List (Nat × Word) := []
  /-- Its registers lie in its park frame (R136, R137), and it has not issued since it took its slot (R125). -/
  flushed : Bool := false
  fresh : Bool := false
  /-- The block it holds a use on, the uses that its instruction holds on blocks it has passed, and carried uses (R274, R275). -/
  use : Option BlockKey := none
  passed : List BlockKey := []
  carried : List BlockKey := []
  /-- The die that holds its visitor record (R97). -/
  visitor : Option Nat := none
  /-- The step at which it parked (R255). -/
  parkedAt : Nat := 0
  /-- Its record lies in the parking overflow area (R255). -/
  overflowed : Bool := false
  /-- It has issued at least once on a die (R123). -/
  issued : Option Nat := none
  /-- Where it was first placed, for its recreation from the journal (R123): core and binding; and the step of its creation, by which such
  recreations are ordered (R34). -/
  home : Option Nat := none
  born : Nat := 0
  /-- A die whose reset it outlived elsewhere: it is retired when it returns there (R123). -/
  doomed : Option Nat := none
  deriving DecidableEq, Repr

/-! ### Cores -/

/-- An event for a supervisor context (R244, R246). -/
structure SupEvent where
  cause : Nat
  slot : Nat := 0
  pc : Word := 0#64
  val : Word := 0#64
  /-- The DETAIL that a report takes to the fault log (R428). -/
  detail : Word := 0#64
  deriving DecidableEq, Repr

/-- Whether a supervisor context is idle, running or stopped by a supervisor fault (R247, R248). -/
inductive SupMode where
  | idle | running | stopped
  deriving DecidableEq, Repr

/-- A message (R291): its 32 bytes as four words, channel, source and destination core, and the sender's LID (R116); for the
completion of a run, the run's die and number, since the run reads as complete only once it is delivered (R364). -/
structure Msg where
  words : List Word
  ch : Nat
  src : Nat
  dst : Nat
  lid : Word
  part : Nat
  run : Option (Nat × Nat) := none
  /-- For the completion of a task: its die and the tiles that stay locked until it is delivered (R337). -/
  lock : Option (Nat × List Nat) := none
  /-- For a completion: the journal entry of its work, a die, kind and name, which stands until it is delivered (R431). -/
  entry : Option (Nat × Nat × Nat) := none
  deriving DecidableEq, Repr

/-- A copy mailbox (R301): owner and 16 words. -/
structure Mailbox where
  owner : Option CtxId := none
  words : List Word := List.replicate 16 0#64
  deriving DecidableEq, Repr

/-- A core (R14): what belongs to the core and not to a strand (R128). -/
structure Core where
  cyc : Word := 0#64
  icnt : Word := 0#64
  msent : Word := 0#64
  mrecv : Word := 0#64
  /-- Slice balance, slice length, tenant, whether slicing is on and whether a slice end is pending (R258, R260). -/
  slb : Word := 0#64
  sliceLen : Nat := 0
  tenant : Nat := 0
  slicing : Bool := false
  sliceEnd : Bool := false
  overrun : Bool := false
  /-- LSPA0 to LSPA7 (R205). -/
  lspa : Vector Word 8 := Vector.replicate 8 0#64
  /-- The strand in each user slot that holds one (R15). -/
  slots : List (Nat × Nat) := []
  /-- The last slot that issued (R16). -/
  rr : Nat := 15
  /-- The inbox, the supervisor's held messages while it overflows, and the arrival queue (R291, R298). -/
  inbox : List Msg := []
  overflow : Bool := false
  arrivals : List Msg := []
  netWait : List Msg := []
  /-- The four copy mailboxes (R301). -/
  mail : List Mailbox := List.replicate 4 {}
  /-- The last request sequence number given (R304). -/
  seq : Nat := 0
  /-- The supervisor context's mode, held trap (slot and PC) and event queue (R244). -/
  supMode : SupMode := .idle
  held : Option (Nat × Word) := none
  events : List SupEvent := []
  /-- The slot and strand being stepped, and whether its instruction has issued (R267). -/
  stepping : Option (Nat × Nat) := none
  stepped : Bool := false
  /-- The gang stop that the core has not reported yet, since accesses of its strands are still outstanding (R243). -/
  stopping : Option Nat := none
  deriving DecidableEq, Repr

/-! ### Dies -/

/-- An entry of a ready pool (R103, R104): strand, level, the core it is bound to, its partition. -/
structure PoolEntry where
  sid : Nat
  level : Nat
  bound : Option Nat
  part : Nat
  deriving DecidableEq, Repr

/-- How a waiter stands in a block queue (R277). -/
inductive WaitKind where
  | parked | slotHeld | remote
  deriving DecidableEq, Repr

/-- A real waiter of a block queue (R277). -/
structure Waiter where
  ctx : CtxId
  stamp : Nat
  kind : WaitKind
  deriving DecidableEq, Repr

/-- The state of a block's frame (R281). -/
inductive FrameState where
  | absent | fetching | resident | writingBack
  deriving DecidableEq, Repr

/-- A block at its home die (R272 to R283). -/
structure Block where
  key : BlockKey
  frame : FrameState := .absent
  data : Bank := {}
  /-- Dirty atoms, by index in the block (R281). -/
  dirty : List Nat := []
  /-- The block whose frame a fetch takes once that is written back (R278, R281). -/
  victim : Option BlockKey := none
  /-- The output address of each 4 KiB page as the fetch found it (R396). -/
  outs : List Nat := []
  /-- For each of those pages, the guest page's size and the hypervisor pages its walk used (R406). -/
  walks : List (Nat × List Nat) := []
  /-- Real waiters, in the order of their stamps (R277). -/
  queue : List Waiter := []
  /-- The time of the first hint, where the queue carries a prefetch mark (R277). -/
  mark : Option Nat := none
  /-- Pages, by fault token, that must be replayed before the queue is eligible (R280), and failing pages that wait for a free fault
  entry, with the reason (R402). -/
  faults : List Nat := []
  unposted : List (Nat × WalkFail) := []
  pins : Nat := 0
  evict : Bool := false
  /-- When the use count last reached zero (R281). -/
  idleSince : Nat := 0
  deriving DecidableEq, Repr

/-- An access of a word-waiter entry (R284). -/
inductive WordOp where
  | ldfe | ldff | stef
  deriving DecidableEq, Repr

/-- A composite translation (R393): output address and IPA of the access's 4 KiB page, attributes, size, the physical addresses
of the two leaves, and the guest page's size. -/
structure Comp where
  pa : Nat
  ipa : Nat
  rd : Bool
  wr : Bool
  ex : Bool
  w : Bool
  f : Bool
  wb : Bool
  pf : Bool
  ar : Bool
  size : Nat
  gleaf : Nat
  hleaf : Nat
  /-- The hypervisor leaf by which the table that holds the guest leaf is reached (R392). -/
  tleaf : Nat
  gsize : Nat
  /-- Is each leaf one of the sixteen of a 64 KiB group (R394)? -/
  ggroup : Bool := false
  hgroup : Bool := false
  /-- RD, WR and EX of the guest leaf alone, by which a lacking permission has its stage (R400). -/
  guest : Bool × Bool × Bool := (true, true, true)
  deriving DecidableEq, Repr

/-- An entry of a die's word-waiter table (R284). -/
structure WordWaiter where
  ctx : CtxId
  at_ : Loc
  va : Word
  op : WordOp
  val : Word
  reg : Nat
  part : Nat
  /-- The translation that led to the word (R393, R408): its address space, the composite, and the hypervisor pages its walk used. -/
  via : Option (Nat × Comp × List Nat) := none
  deriving DecidableEq, Repr

/-- A live entry of a fault queue (R400, R401). -/
structure FaultEntry where
  idx : Nat
  gen : Nat
  part : Nat
  hyp : Bool
  asid : Nat
  va : Nat
  ipa : Nat
  reason : Nat
  kinds : Nat
  srcs : Nat
  wcnt : Nat
  popped : Bool
  deriving DecidableEq, Repr

/-- A barrier instance (R239): its name, and the open episode. -/
structure Barrier where
  part : Nat
  scope : Nat
  unit : Nat
  bid : Nat
  gen : Nat := 0
  count : Nat := 0
  arrived : Nat := 0
  bara : Bool := false
  sum : Word := 0#64
  /-- Waiters and their result registers. -/
  waiters : List (CtxId × Nat) := []
  deriving DecidableEq, Repr

/-- A live launch at its origin die (R112, R116, R117). -/
structure Launch where
  idx : Nat
  gen : Nat
  part : Nat
  asid : Nat
  /-- The descriptor's words (R109). -/
  desc : List Word
  /-- Strands created so far, and whether the rest is called off (R113, R119). -/
  made : Nat := 0
  ended : Bool := false
  /-- The core that launched it, none from a queue port (R118); and that queue port (R34, R114). -/
  by_ : Option Nat
  port : Option Nat := none
  /-- The strand that launched it, all ones for a supervisor context or a queue port (R292). -/
  sid : Nat := 0xFFFFFF
  /-- The launch the launching strand belonged to (R116). -/
  parent : Word
  /-- Sums of R116: messages sent and received, contexts departed and arrived. -/
  sent : Nat := 0
  recv : Nat := 0
  departed : Nat := 0
  arrived : Nat := 0
  /-- The dies on which one of those counts has risen (R124). -/
  touched : List Nat := []
  /-- What the last sweep that found nothing alive saw (R117): sent and departed; and when the last sweep was. -/
  swept : Option (Nat × Nat) := none
  sweptAt : Nat := 0
  /-- The partition's home map as it stood at the launch (R270). -/
  hmap : List (Nat × Nat) := []
  /-- Code and die of its error completion, where it has one (R117, R124). -/
  code : Nat := 0
  xdie : Nat := 0
  /-- Dies whose reset has touched it: a sweep looks at them no more (R124). -/
  lost : List Nat := []
  deriving DecidableEq, Repr

/-! ### Engines (R301 to R388) -/

/-- Who started a piece of work: its core, strand number (all ones for a supervisor context or a queue port), launch,
partition and ASID, and whether that strand has ended since (R116, R292, R312). -/
structure Origin where
  core : Nat
  sid : Nat
  lid : Word
  part : Nat
  asid : Nat
  orphan : Bool := false
  deriving DecidableEq, Repr

/-- Whether a piece of work waits at an access: a fault waiter with its entry's token or none yet, or one whose entry was
given up (R399 to R404). -/
inductive Hold where
  | none
  | fault (token : Option Nat) (va : Nat) (k : Kind) (f : WalkFail)
  | gaveUp (va : Nat)
  deriving DecidableEq, Repr

/-- A completion of form 2 whose word could not yet be translated (R312): source bit, address, value, and the status it
and number it reports when it cannot be written. -/
structure LateWord where
  from_ : Origin
  src : Nat
  va : Word
  val : Word
  seq : Word
  status : Word
  detail : Word
  hold : Hold
  /-- Tiles of its task, which stay locked until it is delivered (R337). -/
  tiles : List Nat := []
  /-- The journal entry of its work, a kind and name, which stands until it is delivered (R431). -/
  entry : Option (Nat × Nat) := none
  deriving DecidableEq, Repr

/-- A movement request (R302, R304): kind 0 to 6 in the order of TKIND, the record's words, its tensor parameter record,
units written so far, flags raised, the first malformed frame, and the QMODE it started with. -/
structure Move where
  from_ : Origin
  kind : Nat
  words : List Word
  seq : Nat
  prm : List Word := []
  pos : Nat := 0
  flags : Nat := 0
  bad : Option Nat := none
  qmode : Option Nat := none
  hold : Hold := .none
  /-- What has been read of the source: of a `BCAST` all its sectors so far (R311), of `ENCK` and `DECK` those of the frame in hand; and
  how many sectors of that frame have been written (R314). -/
  buf : List Nat := []
  sec : Nat := 0
  /-- The bytes of its last frame that share a sector with the next one, low byte first, written with that (R235); and those at the start of
  its segment (R314). -/
  tail : Nat := 0
  segTail : Nat := 0
  /-- Its first error: code and detail (R313). -/
  err : Option (Nat × Word) := none
  deriving DecidableEq, Repr

/-- A movement engine (R315): the partition that leases it, the lease's period and end in ns, whether it is given back
after its segment, its request, and whether it has failed. -/
structure Engine where
  part : Option Nat := none
  period : Nat := 100000
  until_ : Nat := 0
  giveBack : Bool := false
  work : Option Move := none
  failed : Bool := false
  deriving DecidableEq, Repr

/-- An armed transfer (R319, R320). -/
structure Armed where
  cnum : Nat
  thresh : Nat
  move : Move
  fired : Bool := false
  deriving DecidableEq, Repr

/-- A task chain or a run chain of a partition on a die (R336, R363): the next sequence number and the outcomes of completed
items: number, code, progress. -/
structure Chain where
  part : Nat
  next : Nat := 1
  hist : List (Nat × Nat × Nat) := []
  deriving DecidableEq, Repr

/-- A tile task (R328 to R342). `order` is its place in the acceptance order of its die (R338, R359). -/
structure Task where
  part : Nat
  seq : Nat
  order : Nat
  from_ : Origin
  /-- The record's 16 words and the three tensor parameter records, 12 words. -/
  words : List Word
  prm : List Word
  /-- Join dependences that are decided: dependence index, met or failed (R330). -/
  deps : List (Nat × Bool) := []
  /-- K-blocks whose sums are in every tile; output rows, once all are written. -/
  kb : Nat := 0
  rows : Nat := 0
  running : Bool := false
  ran : Bool := false
  /-- When it became eligible (R338), and whether it holds a reservation. -/
  since : Option Nat := none
  reserved : Bool := false
  /-- A kill posted to it: the join's handle, or zero for `TKILL` (R340). -/
  killed : Option Word := none
  hold : Hold := .none
  /-- Rows of the k-block that were loaded before its engine stopped (R339): operand, row, bytes and scale. -/
  loaded : List (Nat × Nat × Nat × Nat) := []
  flags : Nat := 0
  malformed : Bool := false
  /-- QMODE as its output stage sampled it (R183); and the sectors of the output that are written (R339). -/
  qmode : Option Nat := none
  sec : Nat := 0
  deriving DecidableEq, Repr

/-- A unit that is computed (R360): the pieces of its y writes and of its state writes still to be performed, each as address, bytes and
value, and the head's state at its end. -/
structure UnitOps where
  ys : List (Word × Nat × Nat)
  sts : List (Word × Nat × Nat)
  st : List Nat
  deriving DecidableEq, Repr

/-- A running unit of a run (R359, R360): its place among the quads of the run, whether it waits, the pieces of its inputs that it has
read, what is left of it once it is computed, and whether it is run again and so takes its start state from the state area (R361). -/
structure SsmUnit where
  quad : Nat
  hold : Hold := .none
  got : List Nat := []
  ops : Option UnitOps := none
  back : Bool := false
  deriving DecidableEq, Repr

/-- A state-space run (R350 to R362): the units done on each of its quads, and the units that run. -/
structure Run where
  part : Nat
  seq : Nat
  order : Nat
  from_ : Origin
  words : List Word
  deps : List (Nat × Bool) := []
  done : List Nat
  /-- The state that each head's last unit wrote, by head (R360). -/
  states : List (Nat × List Nat) := []
  active : List SsmUnit := []
  started : Bool := false
  flags : Nat := 0
  err : Option (Nat × Word) := none
  deriving DecidableEq, Repr

/-- Where a join's member stands (R367, R374, R375). -/
inductive MemberState where
  | open_ | arriving | arrived | killed
  deriving DecidableEq, Repr

/-- A join's member: its strand, its tasks that its arrival waits for (die and sequence), and the flags of its
contributions. -/
structure Member where
  strand : Option Nat := none
  state : MemberState := .open_
  waits : List (Nat × Nat) := []
  flags : Nat := 0
  /-- A task bound to it has ended in an error other than 0x07 (R374). -/
  failed : Bool := false
  deriving DecidableEq, Repr

/-- A join (R366 to R385). -/
structure Join where
  idx : Nat
  gen : Nat
  from_ : Origin
  at_ : Word
  words : List Word
  weights : List Nat
  members : List Member
  state : Nat := 0
  code : Nat := 0
  detail : Word := 0#64
  forced : Bool := false
  replay : Option Nat := none
  /-- Roster and arrived weight, fixed at release. -/
  roster : Nat := 0
  arrw : Nat := 0
  flags : Nat := 0
  /-- Elements of the result already written, and whether the fold waits. -/
  pos : Nat := 0
  hold : Hold := .none
  /-- Waiters in `JWAIT`, with their result registers (R383). -/
  waiters : List (CtxId × Nat) := []
  deriving DecidableEq, Repr

/-- Writes of Clove to a join's record that wait (R368, R399, R411), in their order: who made the join, the record's address, the offset,
value and size of each write, and what they wait for. -/
structure RecordWait where
  from_ : Origin
  at_ : Word
  puts : List (Nat × Nat × Nat)
  hold : Hold
  deriving DecidableEq, Repr

/-- A doorbell of a fault queue (R403): the queue's key, the word's address in the space of the context that armed it, and whether it is rung
and waits to be written while WB is set (R399, R411). -/
structure Bell where
  key : Nat
  part : Nat
  asid : Nat
  va : Nat
  rung : Bool := false
  deriving DecidableEq, Repr

/-- A die (R13). -/
structure Die where
  pool : List PoolEntry := []
  refills : Nat := 0
  /-- Fresh strand records handed out, and freed indices, least recently freed first (R96). -/
  nextRec : Nat := 0
  freeRecs : List Nat := []
  /-- Records held for visitors: parked here, or reserved in transit (R97, R273), by strand and partition. -/
  visitors : List (Nat × Nat) := []
  launches : List Launch := []
  /-- Generation of each launch entry that was ever used (R112). -/
  launchGens : List (Nat × Nat) := []
  bars : List Barrier := []
  blocks : List Block := []
  words : List WordWaiter := []
  /-- PEWCFG (R276): STARVE 40,000, QUANT 2,000, FMAX 64. -/
  pewcfg : Word := 0x00009C4007D00040#64
  faults : List FaultEntry := []
  /-- The generation that the last entry at each index of the fault table had (R400), and armed doorbells (R403). -/
  faultGens : List (Nat × Nat) := []
  bells : List Bell := []
  /-- Accepted work not yet completed (R431): kind of R428 event 0x05 and name. -/
  journal : List (Nat × Nat) := []
  /-- The die is being reset (R123). -/
  down : Bool := false
  /-- Sectors whose clock is stretching (R38), and whether margins are being re-planned (R39). -/
  stretched : List Nat := []
  replan : Bool := false
  /-- Movement engines that were ever touched, standing lease requests (partition, engines, period, oldest first), and the
  request queues of all partitions in acceptance order (R304, R315). -/
  engines : List (Nat × Engine) := []
  standing : List (Nat × Nat × Nat) := []
  requests : List Move := []
  /-- Trigger counters that are not zero, and armed transfers in the order of their arming (R317, R320). -/
  trig : List (Nat × Nat) := []
  armed : List Armed := []
  /-- Accumulator tiles: 16 × quad + tile of those allotted with their GEN, the die's GEN, and the elements at
  2^20 × quad + 2^16 × tile + 4 × (128 × row + column) (R322 to R324). -/
  tiles : List (Nat × Nat) := []
  accGen : Nat := 0
  acc : Bank := {}
  /-- Tasks and runs accepted so far, task chains and run chains, their tasks and runs in acceptance order (R336, R363), and
  failed matrix engines (R342). -/
  orders : Nat := 0
  chains : List Chain := []
  tasks : List Task := []
  runChains : List Chain := []
  runs : List Run := []
  engFail : List Nat := []
  /-- Joins and the die's join generation (R366). -/
  joins : List Join := []
  joinGen : Nat := 0
  /-- Completion words that wait as fault waiters (R312). -/
  late : List LateWord := []
  /-- Clove's writes of join records that wait. -/
  records : List RecordWait := []
  /-- Joins that were freed while a contribution to them, begun before, still waits (R388). -/
  closing : List Join := []
  deriving DecidableEq, Repr

/-! ### Partitions and translation -/

/-- A live partition (R425, R427). -/
structure Part where
  num : Nat
  pric : Nat
  hyp : Bool
  whole : Bool
  /-- The dies it holds, rising, and its node word where it is a node. -/
  dies : List Nat
  node : Nat
  zsz : Nat
  mquota : Nat
  squota : Nat
  spbase : Word
  hroot : Nat
  groots : Nat
  flogr : Nat
  wbr : Nat
  tquota : Nat
  jquota : Nat
  pquota : Nat
  trign : Nat
  sasid : Nat
  sentry : Word
  /-- First trigger counter of its range on each die (R425). -/
  trigBase : List (Nat × Nat) := []
  /-- Home-map entries that do not name its lowest die (R269, R425). -/
  hmap : List (Nat × Nat) := []
  /-- Pin quotas that were set (R427). -/
  pinq : List (Nat × Nat) := []
  /-- Gang stop (R264). -/
  stopped : Bool := false
  gangGen : Nat := 0
  /-- Ring pointers of the fault log and the write-back ring (R427). -/
  flTail : Nat := 0
  flHead : Nat := 0
  flLost : Nat := 0
  wbTail : Nat := 0
  wbHead : Nat := 0
  deriving DecidableEq, Repr

/-- A cached composite (R397): where, for whom, the page of its size, and the hypervisor pages its walk used, each as its base
plus the logarithm of its size. -/
structure TlbEntry where
  die : Nat
  part : Nat
  asid : Nat
  base : Nat
  comp : Comp
  ipas : List Nat
  deriving DecidableEq, Repr

/-- A cached table entry (R397): where, for whom, the stage and the level, the lowest address that it serves, its value, and the
hypervisor pages that led to it. A root of a guest table is kept as an entry of level 5. -/
structure PteCache where
  die : Nat
  part : Nat
  asid : Nat
  hyp : Bool
  lvl : Nat
  base : Nat
  entry : Nat
  at_ : Nat
  ipas : List Nat
  deriving DecidableEq, Repr

/-- A node of a die's buddy tree that is not in its default state (R422): 1 split, 2 held, 3 whole. -/
structure Node where
  die : Nat
  level : Nat
  idx : Nat
  state : Nat
  part : Nat
  deriving DecidableEq, Repr

/-! ### The module -/

/-- Which move comes next. -/
inductive Turn where
  /-- A context issues. -/
  | issue (c : CtxId)
  /-- A core spends a cycle without issuing (R134). -/
  | idle (core : Nat)
  /-- A module event happens. -/
  | event (e : Event)
  deriving DecidableEq, Repr

/-- An access from outside that has arrived and has not been performed (R224, R433, R434): who makes it (0 another module, 1 a host
port, 2 the storage port) and its module or port, the die it enters, the address, and the value of a write. -/
structure Outside where
  id : Nat
  from_ : Nat
  tag : Nat
  die : Nat
  part : Nat
  asid : Nat
  va : Word
  size : Nat
  write : Option Word
  hold : Hold := .none
  /-- The cause of the fault it waits at (R399). -/
  cause : Nat := 0x11
  /-- The block whose fetch released it: it is served before that frame may go (R279). -/
  use : Option BlockKey := none
  deriving DecidableEq, Repr

/-- A queue port (R430): the partition it is assigned to, its tag table, PASID to ASID, the writes not yet answered, oldest first, and the
place in the table of the tag that was served last. -/
structure QPort where
  part : Nat
  tags : List (Nat × Nat)
  waiting : List (Nat × List Word) := []
  last : Nat := 63
  deriving DecidableEq, Repr

/-- The whole module. -/
structure State where
  /-- The context whose turn it is, and which one it is. -/
  cpu : Thread := { sts := 0x800#64, sid := 0xFFFFFF, slot := 15, wait := .idle }
  cur : CtxId := .sup 0
  /-- Which move comes next, where that is settled. DESIGN CHOICE (log 1). -/
  turn : Option Turn := none
  /-- What the event in progress is about. -/
  subject : Option Event := none
  /-- Feeds the free values of Config. DESIGN CHOICE (log 2). -/
  tick : Nat := 0
  /-- Events from outside the module that have not been taken (R430, R432 to R437). -/
  inputs : List Event := []
  /-- Module time in ns (R152). -/
  now : Nat := 0
  /-- The other live strands and supervisor contexts. -/
  threads : List (Nat × Thread) := []
  sups : List (Nat × Thread) := []
  cores : List (Nat × Core) := []
  dies : List (Nat × Die) := []
  parts : List Part := []
  /-- HBM by physical address, and the local stores at core × 2^18 + offset (R205, R207). -/
  hbm : Bank := {}
  lstore : Bank := {}
  posted : List Posted := []
  /-- Messages in transit, in order per source, destination and channel (R238). -/
  wire : List Msg := []
  tlb : List TlbEntry := []
  ptes : List PteCache := []
  nodes : List Node := []
  /-- MSR (R436). -/
  msr : Word := 0#64
  /-- AHASH0 to AHASH5 as written and as in force (R217, R218). -/
  ahash : List Word := List.replicate 6 0#64
  ahashForce : List Word := List.replicate 6 0#64
  /-- Stack error counters that are not zero: 4 × stack + word (R437). -/
  stackErr : List (Nat × Word) := []
  lostStacks : List Nat := []
  /-- Retired bank regions: stack, bank, base, length (R214). -/
  retired : List (Nat × Nat × Nat × Nat) := []
  /-- Words of partition records written and not yet committed: 16 × p + word (R437). -/
  prec : List (Nat × Word) := []
  /-- The module's number in its pod, the pod's members, and failed link ports (R435). -/
  modNum : Nat := 0
  pod : List Nat := [0]
  linkDown : List Nat := []
  /-- The management log: event code and two words (R218, R430, R437); machine checks: partition or core and code. -/
  mgmtLog : List (Nat × Word × Word) := []
  checks : List (Nat × Nat) := []
  qports : List (Nat × QPort) := []
  /-- Answers given at queue ports: port, PASID and answer (0 success, 1 retry, 2 unsupported). -/
  qanswers : List (Nat × Nat × Nat) := []
  /-- Values read through the host, storage and link ports, in order. -/
  replies : List Word := []
  /-- Accesses from outside that wait, and the number of the next one. -/
  outside : List Outside := []
  nextOutside : Nat := 0
  /-- Messages and accesses handed to the Wellys links, and answers to those of other modules (R224, R295). -/
  linkOut : List (List Word) := []
  /-- The verified image, without which the module stays in reset (R438), named by a number (DESIGN CHOICE, log 17); failed images that were
  reported over the host management interface; and whether memory was initialised since the module reset (R218). -/
  image : Option Nat := none
  reports : List Nat := []
  memInited : Bool := false
  /-- Atom ranges handed on and not yet cleared (R412). -/
  clearing : List (Nat × Nat) := []
  /-- Read-to-act pages: base, current token, and who armed it until when (R414). -/
  rta : List (Nat × Nat × Option (CtxId × Nat)) := []
  /-- Outstanding write-backs: partition, tag, guest leaf and the hypervisor leaf of its table; and the next tag (R392, R409, R410). -/
  wbTags : List (Nat × Nat × Nat × Nat) := []
  /-- Scanned leaves whose entry waits for room in the write-back ring (R409): partition, ASID, address, level, leaf and
the hypervisor leaf of its table. -/
  scanWait : List (Nat × Nat × Nat × Nat × Nat × Nat) := []
  nextTag : Nat := 0
  deriving DecidableEq, Repr

/-- The module right after reset: every supervisor context idle, no strand, no partition, memory cleared (R208, R248). -/
def State.reset : State := {}

end Sys2Proof.Machine
end

