-- ==== Sys2Proof/Machine/Ops.lean ====
section
/-! DEFINITION. The named operations over memory, registers and contexts; taking an exception and returning from one
(R243 to R250). -/

namespace Sys2Proof.Machine

/-! ### Banks -/

/-- The byte of a cell list at an address: zero where none is listed (R208). -/
def cellGet : List Host.Cell → Nat → Byte
  | [], _ => 0#8
  | (a, b) :: rest, x => if a = x then b else if x < a then 0#8 else cellGet rest x

/-- Sets a byte, keeping the list rising and free of zeros. -/
def cellSet : List Host.Cell → Nat → Byte → List Host.Cell
  | [], x, v => if v = 0#8 then [] else [(x, v)]
  | (a, b) :: rest, x, v =>
    if a < x then (a, b) :: cellSet rest x v
    else if a = x then (if v = 0#8 then rest else (x, v) :: rest)
    else if v = 0#8 then (a, b) :: rest else (x, v) :: (a, b) :: rest

/-- Is a number in a rising list? -/
def risingMem : List Nat → Nat → Bool
  | [], _ => false
  | a :: rest, x => if a = x then true else if x < a then false else risingMem rest x

/-- Puts a number into a rising list, or takes it out. -/
def risingSet : List Nat → Nat → Bool → List Nat
  | [], x, v => if v then [x] else []
  | a :: rest, x, v =>
    if a < x then a :: risingSet rest x v
    else if a = x then (if v then a :: rest else rest)
    else if v then x :: a :: rest else a :: rest

/-- Reads a byte of a bank. -/
def Bank.byte (m : Bank) (a : Nat) : Byte := cellGet m.cells a

/-- Writes a byte of a bank. -/
def Bank.setByte (m : Bank) (a : Nat) (v : Byte) : Bank := { m with cells := cellSet m.cells a v }

/-- Reads `n` bytes from `a`, low byte first (R3). -/
def Bank.read (m : Bank) (a : Nat) : Nat → Nat
  | 0 => 0
  | n + 1 => (m.byte a).toNat + (m.read (a + 1) n) <<< 8

/-- Writes the low `n` bytes of `v` from `a` on (R3). -/
def Bank.write (m : Bank) (a : Nat) (v : Nat) : Nat → Bank
  | 0 => m
  | n + 1 => (m.setByte a (BitVec.ofNat 8 v)).write (a + 1) (v >>> 8) n

/-- Is the word that holds byte `a` full (R207)? -/
def Bank.full (m : Bank) (a : Nat) : Bool := !risingMem m.empty (a / 8)

/-- Sets the full/empty bit of the word that holds byte `a`. -/
def Bank.setFull (m : Bank) (a : Nat) (f : Bool) : Bank := { m with empty := risingSet m.empty (a / 8) (!f) }

/-- Is the word that holds byte `a` poisoned (R212)? -/
def Bank.poisoned (m : Bank) (a : Nat) : Bool := risingMem m.poison (a / 8)

/-- Poisons the word that holds byte `a`, or clears its poison. -/
def Bank.setPoison (m : Bank) (a : Nat) (p : Bool) : Bank := { m with poison := risingSet m.poison (a / 8) p }

/-- Poisons the word that holds byte `a` in a step: its bytes and its full/empty bit have no value, so they become free ones
(R212). -/
def Bank.spoil (tick : Nat) (m : Bank) (a : Nat) : Bank :=
  let a := a / 8 * 8
  let v := packNat 8 ((List.range 8).map (fun i => (Config.poisonByte tick (a + i)).toNat))
  ((m.write a v 8).setFull a (Config.poisonFull tick a)).setPoison a true

/-- Applies `f` to the `n` words from the word of byte `a` on. -/
def Bank.eachWord (f : Bank → Nat → Bank) (m : Bank) (a : Nat) : Nat → Bank
  | 0 => m
  | n + 1 => (f m a).eachWord f (a + 8) n

/-! ### Accessors of the state -/

/-- A core, at its reset values where it was never touched. -/
def State.core (s : State) (c : Nat) : Core := (lookup c s.cores).getD {}

/-- Sets a core. -/
def State.setCore (s : State) (c : Nat) (v : Core) : State := { s with cores := insert c v s.cores }

/-- Changes a core. -/
def State.modCore (s : State) (c : Nat) (f : Core → Core) : State := s.setCore c (f (s.core c))

/-- A die, at its reset values where it was never touched. -/
def State.die (s : State) (d : Nat) : Die := (lookup d s.dies).getD {}

/-- Sets a die. -/
def State.setDie (s : State) (d : Nat) (v : Die) : State := { s with dies := insert d v s.dies }

/-- Changes a die. -/
def State.modDie (s : State) (d : Nat) (f : Die → Die) : State := s.setDie d (f (s.die d))

/-- Changes every die that was ever touched. -/
def State.mapDies (s : State) (f : Nat → Die → Die) : State :=
  { s with dies := s.dies.map (fun p => (p.1, f p.1 p.2)) }

/-- A live partition. -/
def State.part? (s : State) (p : Nat) : Option Part := s.parts.find? (fun q => q.num = p)

/-- Changes a live partition. -/
def State.modPart (s : State) (p : Nat) (f : Part → Part) : State :=
  { s with parts := s.parts.map (fun q => if q.num = p then f q else q) }

/-- Changes the issuing context. -/
def State.modCpu (s : State) (f : Thread → Thread) : State := { s with cpu := f s.cpu }

/-- The idle supervisor context of a core (R248). -/
def idleSup (c : Nat) : Thread :=
  { sts := 0x800#64, sid := 0xFFFFFF, core := c, slot := 15, wait := .idle }

/-- A context: the issuing one, another live strand, or a supervisor context (idle where it was never started) of one of the 6,240
cores. -/
def State.thread? (s : State) (c : CtxId) : Option Thread :=
  if c = s.cur then some s.cpu
  else match c with
    | .strand sid => lookup sid s.threads
    | .sup core => if core < 6240 then some ((lookup core s.sups).getD (idleSup core)) else none

/-- Sets a context. -/
def State.setThread (s : State) (c : CtxId) (t : Thread) : State :=
  if c = s.cur then { s with cpu := t }
  else match c with
    | .strand sid => { s with threads := insert sid t s.threads }
    | .sup core => { s with sups := insert core t s.sups }

/-- Changes a context where it lives. -/
def State.modThread (s : State) (c : CtxId) (f : Thread → Thread) : State :=
  match s.thread? c with
  | none => s
  | some t => s.setThread c (f t)

/-- Puts the issuing context back among the others and makes `c` the issuing one. -/
def State.focus (s : State) (c : CtxId) : State :=
  if c = s.cur then s
  else match s.thread? c with
    | none => s
    | some t =>
      let s1 := match s.cur with
        | .strand sid => { s with threads := insert sid s.cpu s.threads }
        | .sup core => { s with sups := insert core s.cpu s.sups }
      let s2 := match c with
        | .strand sid => { s1 with threads := erase sid s1.threads }
        | .sup core => { s1 with sups := erase core s1.sups }
      { s2 with cpu := t, cur := c }

/-- All live strands, by strand number. -/
def State.strands (s : State) : List (Nat × Thread) :=
  match s.cur with
  | .strand sid => (sid, s.cpu) :: s.threads
  | .sup _ => s.threads

/-- Changes every live strand. -/
def State.mapStrands (s : State) (f : Nat → Thread → Thread) : State :=
  let s := { s with threads := s.threads.map (fun (n, t) => (n, f n t)) }
  match s.cur with
  | .strand sid => { s with cpu := f sid s.cpu }
  | .sup _ => s

/-- The die of a core (R14; Utell cores of R152). -/
def dieOf (core : Nat) : Nat := if core < 6144 then core / 256 else (core - 6144) / 4

/-- Is it a Utell core? -/
def isUtell (core : Nat) : Bool := 6144 ≤ core

/-- The current die of the issuing context. -/
def State.here (s : State) : Nat := dieOf s.cpu.core

/-- Is the issuing context a supervisor context? -/
def State.isSup (s : State) : Bool :=
  match s.cur with
  | .sup _ => true
  | .strand _ => false

/-- A block record at its home die, where one exists. -/
def State.block? (s : State) (d : Nat) (k : BlockKey) : Option Block := (s.die d).blocks.find? (fun b => b.key = k)

/-- Replaces or adds a block record. -/
def setBlock (bs : List Block) (b : Block) : List Block :=
  match bs with
  | [] => [b]
  | c :: rest => if c.key = b.key then b :: rest else c :: setBlock rest b

/-- Sets a block record. -/
def State.setBlock (s : State) (d : Nat) (b : Block) : State :=
  s.modDie d (fun x => { x with blocks := Machine.setBlock x.blocks b })

/-- Is the block record no different from an absent block (no frame, queue, mark or pin)? -/
def Block.void (b : Block) : Bool :=
  b.frame == .absent && b.queue.isEmpty && b.mark.isNone && b.pins == 0

/-- Drops block records that say nothing. -/
def State.sweepBlocks (s : State) (d : Nat) : State :=
  s.modDie d (fun x => { x with blocks := x.blocks.filter (fun b => !b.void) })

/-! ### Words at their single copy -/

/-- The bank that holds a location and the offset there. -/
def State.bankAt (s : State) : Loc → Bank × Nat
  | .loc core off => (s.lstore, core * 2 ^ 18 + off)
  | .direct pa => (s.hbm, pa)
  | .frame d k off => (((s.block? d k).getD { key := k }).data, off)

/-- The location `i` bytes further on. -/
def Loc.plus (l : Loc) (i : Nat) : Loc :=
  match l with
  | .loc c o => .loc c (o + i)
  | .direct pa => .direct (pa + i)
  | .frame d k o => .frame d k (o + i)

/-- Dirty atoms with the atoms of `n` bytes from `off` added (R281). -/
def addDirty (l : List Nat) (off n : Nat) : List Nat :=
  (List.range ((off + n - 1) / 32 - off / 32 + 1)).foldl (fun l i => risingSet l (off / 32 + i) true) l

/-- Changes the bank that holds a location; a change of a frame makes the atoms of its `n` bytes dirty. -/
def State.modBank (s : State) (l : Loc) (n : Nat) (f : Bank → Nat → Bank) : State :=
  match l with
  | .loc core off => { s with lstore := f s.lstore (core * 2 ^ 18 + off) }
  | .direct pa => { s with hbm := f s.hbm pa }
  | .frame d k off =>
    let b := (s.block? d k).getD { key := k }
    s.setBlock d { b with data := f b.data off, dirty := addDirty b.dirty off n }

/-- Does the physical address hold data (R216)? -/
def dataPa (pa : Nat) : Bool := pa < 2 ^ 41 && pa % 2 ^ 36 < 60 * 2 ^ 30

/-- The offset of a location in its local store, memory or frame. -/
def Loc.off : Loc → Nat
  | .loc _ o | .direct o | .frame _ _ o => o

/-- Do `n` bytes from `a` and `m` bytes from `b` overlap, at one kind of place? -/
def Loc.overlaps (a : Loc) (n : Nat) (b : Loc) (m : Nat) : Bool :=
  match a, b with
  | .loc c o, .loc c' o' => c == c' && o < o' + m && o' < o + n
  | .direct p, .direct p' => p < p' + m && p' < p + n
  | .frame d k o, .frame d' k' o' => d == d' && k == k' && o < o' + m && o' < o + n
  | _, _ => false

/-- A byte of a posted write, if it covers the location. -/
def Posted.byteAt (p : Posted) (l : Loc) : Option Byte :=
  let off : Option Nat := match p.at_, l with
    | .loc c o, .loc c' o' => if c = c' && o ≤ o' then some (o' - o) else none
    | .direct a, .direct a' => if a ≤ a' then some (a' - a) else none
    | .frame d k o, .frame d' k' o' => if d = d' && k = k' && o ≤ o' then some (o' - o) else none
    | _, _ => none
  match off with
  | none => none
  | some i => if i < p.size then some (BitVec.ofNat 8 (p.val >>> (8 * i))) else none

/-- A byte at its single copy; a byte of a lost stack is free (R34). -/
def State.copyByte (s : State) (l : Loc) : Byte :=
  let (m, a) := s.bankAt l
  match l with
  | .direct pa => if s.lostStacks.contains (pa / 2 ^ 36) then Config.lostByte s.tick pa else m.byte a
  | _ => m.byte a

/-- A byte as an agent of die `d` reads it: the youngest posted write of that die that covers it (R229), else the single copy. -/
def State.byteAt (s : State) (d : Nat) (l : Loc) : Byte :=
  ((s.posted.filter (fun p => p.die = d)).reverse.findSome? (fun p => p.byteAt l)).getD (s.copyByte l)

/-- `n` bytes at their single copy, low byte first. -/
def State.readCopy (s : State) (l : Loc) : Nat → Nat
  | 0 => 0
  | n + 1 => (s.copyByte l).toNat + (s.readCopy (l.plus 1) n) <<< 8

/-- `n` bytes as an agent of die `d` reads them, low byte first. -/
def State.readAt (s : State) (d : Nat) (l : Loc) : Nat → Nat
  | 0 => 0
  | n + 1 => (s.byteAt d l).toNat + (s.readAt d (l.plus 1) n) <<< 8

/-- Writes the low `n` bytes of `v` at the single copy. -/
def State.writeCopy (s : State) (l : Loc) (v n : Nat) : State := s.modBank l n (fun m a => m.write a v n)

/-- What a scope asks of a context that writes (R25). -/
def Thread.writer (t : Thread) (c : CtxId) : Writer :=
  { ctx := some c, core := some t.core, quads := if isUtell t.core then [] else [t.core / 4], die := some (dieOf t.core)
    part := t.part, lid := t.lid, join := field t.jmem 47 0 }

/-- What is left of a store into a line once later stores have replaced the bits `m`. -/
def LineStore.less (x : LineStore) (m : BitVec 512) : Option LineStore :=
  let rest := x.mask &&& ~~~m
  if rest = 0 then none else some { x with mask := rest }

/-- The bits of a line at `a` that `n` bytes with value `v` at `b` give: the bits written, and their value. -/
def lineBits (a b v n : Nat) : BitVec 512 × BitVec 512 :=
  let place (x : Nat) : BitVec 512 := BitVec.ofNat 512 (if a ≤ b then x <<< (8 * (b - a)) else x >>> (8 * (a - b)))
  (place (2 ^ (8 * n) - 1), place v)

/-- A copy of a line that is written into keeps the store (R44), in place of what it replaces of the same writer's. -/
def LineCopy.written (c : LineCopy) (w : Writer) (l : Loc) (v n : Nat) : LineCopy :=
  if c.at_.overlaps 64 l n then
    let (mask, val) := lineBits c.at_.off l.off v n
    let older := c.stores.filterMap (fun x => if x.by_ == w && !x.seen then x.less mask else some x)
    { c with stores := older ++ [{ by_ := w, mask, val }] }
  else c

/-- A context's line copies after a write. -/
def Thread.noteStore (t : Thread) (w : Writer) (l : Loc) (v n : Nat) : Thread :=
  { t with lines := t.lines.map (fun c => c.written w l v n) }

/-- A write of `n` bytes is noted at every copy of a line that it falls into (R44). -/
def State.noteStore (s : State) (w : Writer) (l : Loc) (v n : Nat) : State :=
  { s with cpu := s.cpu.noteStore w l v n
           threads := s.threads.map (fun x => (x.1, x.2.noteStore w l v n))
           sups := s.sups.map (fun x => (x.1, x.2.noteStore w l v n)) }

/-- The bytes a context has seen of a line, with the stores its fences include, in order (R44); and the stores it has not seen, less what
later ones that it has seen replaced. -/
def LineCopy.settle (c : LineCopy) : BitVec 512 × List LineStore :=
  c.stores.foldl (fun (b, rest) x =>
    if x.seen then ((b &&& ~~~x.mask) ||| (x.val &&& x.mask), rest.filterMap (·.less x.mask)) else (b, rest ++ [x]))
    (c.bytes, [])

/-- The line as its context sees it when it is fetched again and its bytes read as `m` (R44): what no fence has shown it stays as it was. -/
def LineCopy.view (c : LineCopy) (m : BitVec 512) : BitVec 512 :=
  let (b, rest) := c.settle
  let hidden := rest.foldl (fun h x => h ||| x.mask) 0
  (b &&& hidden) ||| (m &&& ~~~hidden)

/-- An atom that is written whole is poisoned no longer (R212). -/
def State.freshAtom (s : State) (l : Loc) : State :=
  s.modBank l 32 (fun m a => m.eachWord (fun m a => m.setPoison a false) a 4)

/-- Drains one posted write to its single copy (R229); one of a whole atom clears poison that came since (R212). -/
def State.drainOne (s : State) (p : Posted) : State :=
  let s := (s.noteStore p.by_ p.at_ p.val p.size).writeCopy p.at_ p.val p.size
  if p.size = 32 then s.freshAtom p.at_ else s

/-- Must a posted write leave before another one of its die, since they share bytes (R230)? -/
def Posted.before (p q : Posted) : Bool := p.die == q.die && p.at_.overlaps p.size q.at_ q.size

/-- Splits a posted-write path, oldest first, into the writes that satisfy `f` with the older ones of their die to the same bytes,
and those that stay (R230). -/
def splitPosted (f : Posted → Bool) : List Posted → List Posted × List Posted
  | [] => ([], [])
  | p :: rest =>
    let (out, keep) := splitPosted f rest
    if f p || out.any p.before then (p :: out, keep) else (out, p :: keep)

/-- Drains the posted writes that satisfy `f`, and what must leave before them, oldest first. -/
def State.drain (s : State) (f : Posted → Bool) : State :=
  let (out, keep) := splitPosted f s.posted
  out.foldl State.drainOne { s with posted := keep }

/-- The issuing context as a writer. -/
def State.writer (s : State) : Writer := s.cpu.writer s.cur

/-- A write of an agent of die `d` at the single copy, after the die's posted writes to the same bytes (R230). -/
def State.writeBy (s : State) (w : Writer) (d : Nat) (l : Loc) (v n : Nat) : State :=
  ((s.drain (fun p => p.die = d && p.at_.overlaps p.size l n)).noteStore w l v n).writeCopy l v n

/-- A write of the issuing context at the single copy. -/
def State.writeAt (s : State) (d : Nat) (l : Loc) (v n : Nat) : State := s.writeBy s.writer d l v n

/-- The full/empty bit of the word at a location. -/
def State.fullAt (s : State) (l : Loc) : Bool :=
  let (m, a) := s.bankAt l
  m.full a

/-- Sets the full/empty bit of the word at a location. -/
def State.setFullAt (s : State) (l : Loc) (f : Bool) : State := s.modBank l 1 (fun m a => m.setFull a f)

/-- Is the address in a retired bank region (R214)? -/
def State.inRetired (s : State) (pa : Nat) : Bool :=
  s.retired.any (fun (_, _, base, len) => base ≤ pa && pa < base + len)

/-- Is the word at a location poisoned, or in a retired region? -/
def State.poisonedAt (s : State) (l : Loc) : Bool :=
  let (m, a) := s.bankAt l
  m.poisoned a || (match l with | .direct pa => s.inRetired pa | _ => false)

/-- Is some word of `n` bytes at a location poisoned? -/
def State.anyPoison (s : State) (l : Loc) (n : Nat) : Bool :=
  (List.range ((n + 7) / 8)).any (fun i => s.poisonedAt (l.plus (8 * i))) || s.poisonedAt (l.plus (n - 1))

/-- An agent that writes into a core's local store counts as one of that core (R25). -/
def Writer.into (w : Writer) (l : Loc) : Writer :=
  match l with
  | .loc c _ => { w with core := w.core.or (some c) }
  | _ => w

/-- A write by an agent that is not a strand (R209, R212): the bytes, every word touched set full, and the poison of the
atoms written whole cleared. -/
def State.engineWrite (s : State) (w : Writer) (l : Loc) (v n : Nat) : State :=
  let s := (s.drain (fun p => p.at_.overlaps p.size l n)).noteStore (w.into l) l v n
  let s := s.modBank l n (fun m a => m.write a v n)
  let first := l.off / 8 * 8
  let words := ((l.off + n - 1) / 8 * 8 - first) / 8 + 1
  let back := l.off - first
  let s := s.modBank l n (fun m a => m.eachWord (fun m a => m.setFull a true) (a - back) words)
  if back % 32 = 0 && n % 32 = 0 && first % 32 = 0 then
    s.modBank l n (fun m a => m.eachWord (fun m a => m.setPoison a false) a (n / 8))
  else s

/-! ### STS -/

/-- A field of the issuing context's STS. -/
def Thread.vlive (t : Thread) : Bool := t.sts.getLsbD 1
/-- STS.CHK. -/
def Thread.chk (t : Thread) : Bool := t.sts.getLsbD 0
/-- STS.PFXF. -/
def Thread.pfxf (t : Thread) : Bool := t.sts.getLsbD 2
/-- STS.PFXC. -/
def Thread.pfxc (t : Thread) : Nat := field t.sts 7 4
/-- STS.PFXR. -/
def Thread.pfxr (t : Thread) : Bool := t.sts.getLsbD 8
/-- STS.PRI. -/
def Thread.pri (t : Thread) : Nat := field t.sts 10 9
/-- STS.SUP. -/
def Thread.sup (t : Thread) : Bool := t.sts.getLsbD 11
/-- STS.KOFF. -/
def Thread.koff (t : Thread) : Bool := t.sts.getLsbD 13
/-- STS.RM. -/
def Thread.rm (t : Thread) : Nat := field t.sts 15 14

/-- Sets VLIVE (R155). -/
def Thread.live (t : Thread) : Thread := { t with sts := t.sts ||| 2#64 }

/-- ORs sticky flags into STS bits 20:16 (R165). -/
def Thread.raise (t : Thread) (f : BitVec 5) : Thread := { t with sts := t.sts ||| (f.setWidth 64 <<< 16) }

/-- Clears PFXF, PFXC and PFXR (R196, R220). -/
def Thread.clearPrefix (t : Thread) : Thread := { t with sts := t.sts &&& ~~~0x1F4#64 }

/-! ### Registers -/

/-- A scalar register; g0 reads as zero (R126). -/
def Thread.rd (t : Thread) (r : Reg) : Word := if r = 0#5 then 0#64 else t.regs.get r.toFin

/-- A scalar register, of the issuing context. -/
def State.rd (s : State) (r : Reg) : Word := s.cpu.rd r

/-- A vector register. -/
def State.vrd (s : State) (v : VReg) : VecReg := s.cpu.vregs.get v.toFin

/-- A mask register. -/
def State.krd (s : State) (k : KReg) : Mask := s.cpu.kregs.get k.toFin

/-- Numbers registers as R59 does. -/
def vNum (v : VReg) : Nat := 32 + v.toNat
/-- Numbers registers as R59 does. -/
def kNum (k : KReg) : Nat := 40 + k.toNat

/-- Puts a value in place in a register of R59's numbering; g0 discards it (R126). -/
def Thread.put (t : Thread) (n v : Nat) : Thread :=
  if n = 0 then t
  else if h : n < 32 then { t with regs := t.regs.set n (word v) h }
  else if h : n - 32 < 8 then { t with vregs := t.vregs.set (n - 32) (BitVec.ofNat 512 v) h }
  else if h : n - 40 < 4 then { t with kregs := t.kregs.set (n - 40) (BitVec.ofNat 16 v) h }
  else t

/-- Puts a value in place in an l or i register of an older resident window. -/
def Thread.putOlder (t : Thread) (up n v : Nat) : Thread :=
  { t with older := t.older.modify (up - 1) (fun w =>
      if n < 16 then w
      else if h : n - 16 < 8 then { w with l := w.l.set (n - 16) (word v) h }
      else if h : n - 24 < 8 then { w with i := w.i.set (n - 24) (word v) h } else w) }

/-- Puts a result in place, wherever its window now is. -/
def Thread.putFly (t : Thread) (f : Fly) : Thread :=
  if f.up = 0 then t.put f.reg f.val else t.putOlder f.up f.reg f.val

/-- Puts in place the results whose latency is met, youngest first, and drops older results that a younger one in place
supersedes (R56). Answers the context, what stays in flight, and the places written. -/
def settle (t : Thread) : List Fly → Thread × List Fly × List (Nat × Nat)
  | [] => (t, [], [])
  | f :: rest =>
    let (t, keep, done) := settle t rest
    if done.contains (f.reg, f.up) then (t, keep, done)
    else if f.left = 0 then (t.putFly f, keep, (f.reg, f.up) :: done)
    else (t, f :: keep, done)

/-- Lets `n` of issue distance pass (R55). -/
def Thread.age (t : Thread) (n : Nat) : Thread :=
  match t.fly with
  | [] => t
  | fl =>
    let (t, keep, _) := settle t (fl.map (fun f => { f with left := f.left - n }))
    { t with fly := keep }

/-- Puts every fixed-latency result in place (R57). -/
def Thread.commit (t : Thread) : Thread :=
  match t.fly with
  | [] => t
  | fl => { (settle t (fl.map (fun f => { f with left := 0 }))).1 with fly := [] }

/-- A result of latency `lat` for a register (R55): in place at once for latency 1, else in flight. -/
def Thread.produce (t : Thread) (lat n v : Nat) : Thread :=
  if lat ≤ 1 then { t.put n v with fly := t.fly.filter (fun f => !(f.reg == n && f.up == 0)) }
  else { t with fly := t.fly ++ [⟨n, 0, v, lat, lat⟩] }

/-- A scalar result of latency 1. -/
def State.setR (s : State) (d : Reg) (v : Word) : State := s.modCpu (fun t => t.produce 1 d.toNat v.toNat)

/-- A scalar result of latency `lat`. -/
def State.setRLat (s : State) (lat : Nat) (d : Reg) (v : Nat) : State := s.modCpu (fun t => t.produce lat d.toNat v)

/-- A vector result of latency `lat`; VLIVE is set at issue (R155). -/
def State.setV (s : State) (lat : Nat) (d : VReg) (v : VecReg) : State :=
  s.modCpu (fun t => (t.produce lat (vNum d) v.toNat).live)

/-- A mask result of latency `lat`; VLIVE is set at issue (R155). -/
def State.setK (s : State) (lat : Nat) (d : KReg) (v : Nat) : State :=
  s.modCpu (fun t => (t.produce lat (kNum d) (v % 2 ^ 16)).live)

/-- A variable-latency result (R58): the value, and a pending bit until the answer is in. -/
def Thread.answer (t : Thread) (regs : List (Nat × Nat)) (ordinary relaxed : Bool) (op : Nat := 0) : Thread :=
  let t := regs.foldl (fun t (n, v) => t.produce 1 n v) t
  { t with outs := t.outs ++ [⟨(regs.map (·.1)).filter (· != 0), ordinary, relaxed, op⟩] }

/-- A variable-latency scalar result that is no memory access: `BHINT`, `SPAWN`, rows C to E and the like (R58). -/
def State.setPend (s : State) (d : Reg) (v : Word) : State :=
  s.modCpu (fun t => t.answer [(d.toNat, v.toNat)] false false)

/-- Is some register of a list pending? -/
def Thread.pendingAny (t : Thread) (l : List Nat) : Bool := t.outs.any (fun r => r.regs.any l.contains)

/-- The pending answers are in and the accesses performed (R243). -/
def Thread.quiet (t : Thread) : Thread := { t with outs := [] }

/-! ### The fault log (R427, R428) -/

/-- A word of HBM as hardware reads it at its single copy. -/
def State.hbmWord (s : State) (pa : Nat) : Nat := s.readCopy (.direct pa) 8

/-- The base and the size of a ring register (R425 FLOGR, WBR). -/
def ringOf (r : Nat) : Nat × Nat := (r / 4096 * 4096, 4096 <<< (r % 16))

/-- ADDR of an entry (R392). -/
def pteAddr (e : Nat) : Nat := e / 4096 % 2 ^ 32 * 4096

/-- The size that one entry at a level maps (R394). -/
def levelSize (lvl : Nat) : Nat := 2 ^ (12 + 9 * (4 - lvl))

/-- A malformed entry (R392). -/
def malformed (hyp : Bool) (lvl e : Nat) : Bool :=
  let leaf := e.testBit 1
  e / 2 ^ 44 != 0 || (leaf && lvl < 2) || (!leaf && lvl == 4) || (e.testBit 10 && !(leaf && lvl == 4))
    || (e.testBit 9 && e.testBit 8) || (hyp && (e.testBit 5 || e.testBit 7 || e.testBit 11))
    || (!leaf && e / 4 % 2 ^ 10 != 0) || (leaf && pteAddr e % levelSize lvl != 0)

/-- Who walks, where it may use cached table entries (R397): die, partition and ASID; none for hardware that always reads the
tables. -/
abbrev Walker := Option (Nat × Nat × Nat)

/-- Does a cached table entry serve an address at a stage and level for a walker (R397)? -/
def PteCache.serves (e : PteCache) (d p asid : Nat) (hyp : Bool) (lvl addr : Nat) : Bool :=
  e.die == d && e.part == p && e.hyp == hyp && (hyp || e.asid == asid) && e.lvl == lvl
    && (lvl == 5 || e.base == addr / levelSize lvl * levelSize lvl)

/-- A table entry as a walk reads it (R397): from the table or, by a free choice, a cached one. -/
def State.pte (s : State) (v : Walker) (hyp : Bool) (lvl addr at_ : Nat) : Nat :=
  match v with
  | none => s.hbmWord at_
  | some (d, p, asid) =>
    match s.ptes.find? (fun e => e.serves d p asid hyp lvl addr) with
    | some e => if Config.usePte s.tick lvl then e.entry else s.hbmWord at_
    | none => s.hbmWord at_

/-- An entry without ADDR, D and WB: what the entries of a 64 KiB group must share (R394). -/
def groupBits (e : Nat) : Nat := e % 4096 - (e % 128 / 64) * 64 - (e % 4096 / 2048) * 2048 + e / 2 ^ 44 * 2 ^ 44

/-- A leaf of a 64 KiB group (R394): the leaf to use and its page size, or a conflict. Entries that differ are handled in
one of the three ways the manual allows, by a free choice. -/
def groupLeaf (s : State) (hyp : Bool) (leafAt e addr : Nat) : Option (Nat × Nat) :=
  let j := addr / 4096 % 16
  let first := leafAt - 8 * j
  let es := (List.range 16).map (fun k => s.hbmWord (first + 8 * k))
  let base := pteAddr e - 4096 * j
  let alike := es.zipIdx.all (fun (x, k) => groupBits x == groupBits e && pteAddr x == base + 4096 * k)
  if alike then some (e, 2 ^ 16)
  else match Config.groupChoice s.tick % 3 with
    | 0 => some (e, 4096)
    | 1 => -- the 64 KiB translation of some entry of the group that a walk can use
      let k := Config.pick s.tick % 16
      let x := es.getD k e
      if x.testBit 0 && !malformed hyp 4 x && x.testBit 10 then
        some (x % 4096 + (pteAddr x + 4096 * j - 4096 * k), 2 ^ 16)
      else some (e, 4096)
    | _ => none

/-- What a hypervisor-stage walk finds: the leaf's physical address, the leaf and its page size, a reason of R400, or a conflict
within a 64 KiB group (R394). -/
inductive HypWalk where
  | ok (leafAt entry size : Nat)
  | fail (reason : Nat)
  | conflict
  deriving DecidableEq, Repr

/-- The hypervisor-stage walk of an IPA from a table at level `lvl` (R390, R394). -/
def hypWalk (s : State) (v : Walker) (ipa : Nat) : Nat → Nat → Nat → HypWalk
  | 0, _, _ => .fail 5
  | fuel + 1, table, lvl =>
    if !dataPa table then .fail 2
    else
      let at_ := table + 8 * (ipa / levelSize lvl % 512)
      let e := s.pte v true lvl ipa at_
      if !e.testBit 0 then .fail 0
      else if malformed true lvl e then .fail 5
      else if e.testBit 10 then
        match groupLeaf s true at_ e ipa with
        | some (e, size) => .ok at_ e size
        | none => .conflict
      else if e.testBit 1 then .ok at_ e (levelSize lvl)
      else hypWalk s v ipa fuel (pteAddr e) (lvl + 1)

/-- The hypervisor stage of a partition, from its level-1 table (R390). -/
def State.hyp (s : State) (v : Walker) (p : Part) (ipa : Nat) : HypWalk := hypWalk s v (ipa % 2 ^ 44) 4 p.hroot 1

/-- The output address of a leaf of either stage for an address: an entry of a 64 KiB group names its own 4 KiB page (R394). -/
def leafOut (e size addr : Nat) : Nat :=
  if e.testBit 10 then pteAddr e + addr % 4096 else pteAddr e / size * size + addr % size

/-- Where a table or ring behind an IPA lies, and the hypervisor leaf that maps it. -/
inductive TablePa where
  | ok (pa leaf : Nat)
  | fail (reason : Nat)
  | conflict
  deriving DecidableEq, Repr

/-- Sets D in a leaf, as one indivisible update of the entry's single copy (R393). -/
def State.setD (s : State) (at_ : Nat) : State :=
  let e := s.hbmWord at_
  if e.testBit 6 then s else s.writeCopy (.direct at_) (e + 64) 8

/-- The physical address of a table or ring behind an IPA; reason 2 where that holds no data (R390, R400). -/
def State.tablePa (s : State) (v : Walker) (p : Part) (ipa : Nat) : TablePa :=
  match s.hyp v p ipa with
  | .fail r => .fail r
  | .conflict => .conflict
  | .ok at_ e size => if dataPa (leafOut e size ipa) then .ok (leafOut e size ipa) at_ else .fail 2

/-- Is the partition's fault log full (R427)? -/
def Part.logFull (p : Part) : Bool := (p.flTail + 32) % (ringOf p.flogr).2 == p.flHead

/-- Appends a 32-byte entry to a partition's fault log, or counts it as lost (R392, R427). -/
def State.faultLog (s : State) (part : Nat) (ws : List Word) : State :=
  match s.part? part with
  | none => s
  | some p =>
    let (base, size) := ringOf p.flogr
    match s.tablePa none p (base + p.flTail) with
    | .ok pa leaf =>
      if p.logFull then s.modPart part (fun p => { p with flLost := p.flLost + 1 })
      else
        let s := (s.setD leaf).engineWrite { part } (.direct pa) (packNat 64 (ws.map BitVec.toNat)) 32
        s.modPart part (fun p => { p with flTail := (p.flTail + 32) % size })
    | .fail _ | .conflict => s.modPart part (fun p => { p with flLost := p.flLost + 1 })

/-- Word 0 of a fault-log entry (R428). -/
def logWord0 (src cause core die event : Nat) : Word :=
  word (src + cause <<< 8 + (core % 2 ^ 16) <<< 16 + die <<< 35 + event <<< 40)

/-- Posts a machine check to the management controller (R36, R247). -/
def State.machineCheck (s : State) (who code : Nat) : State := { s with checks := s.checks ++ [(who, code)] }

/-- A line of the management log (R218, R430, R437). -/
def State.mgmt (s : State) (code : Nat) (a b : Word) : State := { s with mgmtLog := s.mgmtLog ++ [(code, a, b)] }

/-! ### Supervisor events, traps and returns (R244 to R250) -/

/-- Writes an asynchronous report to the fault log as an entry of source 0x02, with bit 63 of word 3 set for an overflow alone (R254, R428). -/
def State.logReport (s : State) (core part : Nat) (e : SupEvent) (more : Bool) : State :=
  s.faultLog part [logWord0 0x02 0 core (dieOf core) (field e.val 55 48), e.pc, e.val,
    setField e.detail 63 63 (boolNat more)]

/-- An event joins a supervisor context's queue (R244): a wake cause is held at most once, except reports (R254), and a
context that waits in `WFE` goes on; any other wait of it goes on too, as R416 and R417 say. -/
def State.queueEvent (s : State) (c : Nat) (e : SupEvent) : State :=
  let k := s.core c
  if 0x40 ≤ e.cause && e.cause ≠ 0x42 && k.events.any (fun x => x.cause == e.cause) then s
  else
    let s := s.setCore c { k with events := k.events ++ [e] }
    if k.supMode = .running then s.modThread (.sup c) (fun t => if t.wait = .idle then { t with wait := .none } else t) else s

/-- An asynchronous report for the issuing core's supervisor (R254). -/
def State.report (s : State) (c part : Nat) (pc val detail : Word) : State :=
  let k := s.core c
  let e : SupEvent := { cause := 0x42, pc, val, detail }
  if k.supMode ≠ .running then s.logReport c part e false
  else if 64 ≤ (k.events.filter (fun x => x.cause == 0x42)).length then s.logReport c part e true
  else s.queueEvent c e

/-- A supervisor fault of core `c` (R247): the core stops, the fault is logged with a machine check, and reports not yet
taken go to the log (R254). -/
def State.supFault (s : State) (c cause : Nat) (pc val : Word) : State :=
  let k := s.core c
  let part := ((s.thread? (.sup c)).getD {}).part
  let reports := k.events.filter (fun x => x.cause == 0x42)
  let s := s.setCore c { k with supMode := .stopped, events := k.events.filter (fun x => x.cause != 0x42) }
  let s := s.modThread (.sup c) (fun t => { t.commit.quiet with wait := .idle, hold := 0 })
  let s := s.faultLog part [logWord0 0x01 cause c (dieOf c) 0, pc, val, 0#64]
  let s := s.machineCheck c cause
  reports.foldl (fun s e => s.logReport c part e false) s

/-- TAKING A SYNCHRONOUS TRAP (R243, R244, R247): the instruction has no effect, the context's accesses are performed and
its results in place; a strand's slot is suspended and the event joins its supervisor's queue; in a supervisor context
it is a supervisor fault. -/
def State.trapAt (s : State) (cause : Nat) (pc val : Word) : State :=
  match s.cur with
  | .sup c => s.supFault c cause pc val
  | .strand sid =>
    let s := s.drain (fun p => p.ctx == .strand sid)
    let s := s.modCpu (fun t => { t.commit.quiet with hold := 0, wait := .suspended })
    s.queueEvent s.cpu.core { cause, slot := s.cpu.slot, pc, val }

/-- A trap of the instruction in issue. -/
def State.trap (s : State) (cause : Nat) (val : Word) : State := s.trapAt cause s.cpu.pc val

/-- The head and the tail's low slot, as R52 gives for TVAL. -/
def Thread.operandVal (t : Thread) : Word := t.head.setWidth 64 ||| ((t.tail.extractLsb' 0 16).setWidth 64 <<< 16)

/-- The illegal-operand trap of the instruction in issue (R52). -/
def State.illegal (s : State) : State := s.trap 0x03 s.cpu.operandVal

/-- A trap whose TVAL is the head (R60). -/
def State.trapHead (s : State) (cause : Nat) : State := s.trap cause (s.cpu.head.setWidth 64)

/-- Takes the oldest event, a gang stop first (R244); the end of a step has the same cause and goes first too (DESIGN CHOICE, log 129). -/
def takeEvent (es : List SupEvent) : Option (SupEvent × List SupEvent) :=
  match es.find? (fun e => e.cause == 0x3F) with
  | some e => some (e, es.erase e)
  | none =>
    match es with
    | [] => none
    | e :: rest => some (e, rest)

/-! ### Completing an instruction -/

/-- The line address of a PC (R46). -/
def lineAddr (pc : Word) : Word := pc &&& ~~~63#64

/-- The PC at which sequential flow continues (R47). -/
def nextPc (pc : Word) (n : Nat) : Word :=
  if field pc 5 0 < n then pc + 1#64 else lineAddr pc + 65#64

/-- Counts an instruction retired by the core (R128 ICNT). -/
def State.countRetired (s : State) : State := s.modCore s.cpu.core (fun k => { k with icnt := k.icnt + 1#64 })

/-- Completes the instruction in issue with flow to `pc`: results age by 1 + S + `h` and the stall counts S + `h` hold the
next issue (R54, R55, R141); prefixes are consumed (R196, R220). -/
def State.doneTo (s : State) (h : Nat) (pc : Word) : State :=
  (s.modCpu (fun t =>
    let w := headStall t.head + h
    { t.clearPrefix.age (1 + w) with hold := w, pc := pc, wait := .none })).countRetired

/-- Completes the instruction in issue with sequential flow, with a built-in hold (R47, R54). Flow that would carry bit 57
raises the bad-target trap at this instruction. -/
def State.doneHold (s : State) (h : Nat) : State :=
  let p := s.cpu.pc
  let n := nextPc p s.cpu.lineN
  if field n 63 57 ≠ 0 then (s.doneTo h p).trapAt 0x05 p n else s.doneTo h n

/-- Completes the instruction in issue with sequential flow. -/
def State.done (s : State) : State := s.doneHold 0

/-- Completes `FMT` or `RLX`: as `done`, but the prefixes it leaves pending are those of `sts`. -/
def State.donePrefix (s : State) (sts : Word) : State :=
  let s := s.done
  s.modCpu (fun t => { t with sts := (t.sts &&& ~~~0x1F4#64) ||| (sts &&& 0x1F4#64) })

/-! ### Checks before an effect -/

/-- A meaning's outcome, always a next state. -/
abbrev Res := Host.Outcome State Fault Refusal

/-- An instruction that accepts no pending prefix (R196, R220). -/
def plain (s : State) (k : State → State) : Res :=
  .next (if s.cpu.pfxf || s.cpu.pfxr then s.illegal else k s)

/-- An instruction of rows 5 to 7 or C to E, absent on a Utell core (R92). -/
def onBarrel (s : State) (k : State → State) : Res :=
  if isUtell s.cpu.core then .next (s.trapHead 0x18) else plain s k

/-- An instruction that needs STS.SUP (R93). -/
def needSup (s : State) (k : State → State) : Res :=
  if s.cpu.sup then plain s k else .next (s.trapHead 0x07)

/-- An instruction of row E that needs STS.SUP (R60 places 2 and 3). -/
def needSupBarrel (s : State) (k : State → State) : Res :=
  if s.cpu.sup then onBarrel s k else .next (s.trapHead 0x07)

/-- The refusal form (R94). -/
def refusal (reason : Nat) : Word := word (2 ^ 63 + reason)

/-- BUSY. -/
def busy : Word := refusal 1
/-- BADSHAPE. -/
def badShape : Word := refusal 2
/-- BADHANDLE. -/
def badHandle : Word := refusal 3
/-- DENIED. -/
def denied : Word := refusal 4
/-- NOSPACE. -/
def noSpace : Word := refusal 5

/-- Completes an instruction whose only effect is a variable-latency result, such as a refusal. -/
def State.answerDone (s : State) (d : Reg) (v : Word) : State := (s.setPend d v).done

end Sys2Proof.Machine
end

