-- ==== Sys2Proof/Machine/Translate.lean ====
section
/-! DEFINITION. Pages and address translation: the two-stage walk, cached composites, dirty bits, and posting to the fault
queues (R389 to R402). -/

namespace Sys2Proof.Machine

/-- Reads? -/
def Kind.reads : Kind → Bool
  | .read | .both => true
  | .write | .exec => false

/-- Writes? -/
def Kind.writes : Kind → Bool
  | .write | .both => true
  | .read | .exec => false

/-- The KIND bits of a fault entry (R400): read 4, write 5, line fetch 6. -/
def Kind.bits : Kind → Nat
  | .read => 16
  | .write => 32
  | .both => 48
  | .exec => 64

/-- The hypervisor page that maps an IPA, as its base plus the logarithm of its size. -/
def State.hypTag (s : State) (v : Walker) (p : Part) (ipa : Nat) : Nat :=
  match s.hyp v p ipa with
  | .ok _ _ size => ipa / size * size + size.log2
  | .fail _ | .conflict => ipa / 4096 * 4096 + 12

/-- Does a hypervisor page, given as its base plus the logarithm of its size, hold an IPA? -/
def tagHolds (tag ipa : Nat) : Bool := tag - tag % 4096 ≤ ipa && ipa < tag - tag % 4096 + 2 ^ (tag % 4096)

/-- What a walk finds. -/
inductive Walk where
  | ok (c : Comp) (ipas : List Nat)
  | fail (f : WalkFail)
  | conflict
  deriving DecidableEq, Repr

/-- What the guest walk finds: the leaf's physical address, the leaf, its level, the hypervisor leaf of its table, and the IPAs translated so
far. -/
inductive GuestWalk where
  | ok (leafAt entry lvl tleaf : Nat) (ipas : List Nat)
  | fail (f : WalkFail)
  | conflict
  deriving DecidableEq, Repr

/-- The guest-stage walk from a table (as an IPA) at level `lvl` (R390). -/
def guestWalk (s : State) (v : Walker) (p : Part) (va : Nat) : Nat → Nat → Nat → List Nat → GuestWalk
  | 0, _, _, _ => .fail ⟨false, 5, 0⟩
  | fuel + 1, table, lvl, ipas =>
    match s.tablePa v p table with
    | .fail r => .fail ⟨true, r, table / 4096 * 4096⟩
    | .conflict => .conflict
    | .ok pa tleaf =>
      let at_ := pa + 8 * (va / levelSize lvl % 512)
      let e := s.pte v false lvl va at_
      let ipas := ipas ++ [s.hypTag v p table]
      if !e.testBit 0 then .fail ⟨false, 0, 0⟩
      else if malformed false lvl e then .fail ⟨false, 5, 0⟩
      else if e.testBit 1 then .ok at_ e lvl tleaf ipas
      else guestWalk s v p va fuel (pteAddr e) (lvl + 1) ipas

/-- Is the device address in a range the map defines (R432)? -/
def devicePa (pa : Nat) : Bool := 0x020000000000 ≤ pa && pa < 0x0C0001000000

/-- The size of a composite (R393): the smaller page's, where the pages of both stages lie alike within it. -/
def compSize (gsize hsize va ipa : Nat) : Nat :=
  if va % min gsize hsize = ipa % min gsize hsize then min gsize hsize else 4096

/-- A whole walk (R390 to R395). -/
def State.walk (s : State) (v : Walker) (p : Part) (asid va : Nat) : Walk :=
  match s.tablePa v p (p.groots + 8 * asid) with
  | .fail r => .fail ⟨true, r, (p.groots + 8 * asid) / 4096 * 4096⟩
  | .conflict => .conflict
  | .ok rootAt _ =>
    let root := s.pte v false 5 0 rootAt
    if root = 0 then .fail ⟨false, 0, 0⟩
    else match guestWalk s v p va 5 root 0 [s.hypTag v p (p.groots + 8 * asid)] with
      | .fail f => .fail f
      | .conflict => .conflict
      | .ok gAt g lvl tleaf ipas =>
        match (if g.testBit 10 then groupLeaf s false gAt g va else some (g, levelSize lvl)) with
        | none => .conflict
        | some (g', gsize) =>
          let ipa := leafOut g' gsize va
          match s.hyp v p ipa with
          | .fail r => .fail ⟨true, r, ipa / 4096 * 4096⟩
          | .conflict => .conflict
          | .ok hAt h hsize =>
            let pa := leafOut h hsize ipa
            let ar := g'.testBit 9 || h.testBit 9
            let w := g'.testBit 5
            if !(dataPa pa || devicePa pa) then .fail ⟨true, 3, ipa / 4096 * 4096⟩
            else if w && (2 ^ 41 ≤ pa || ar) then .fail ⟨false, 3, 0⟩
            else .ok ⟨pa / 4096 * 4096, ipa / 4096 * 4096, g'.testBit 2 && h.testBit 2, g'.testBit 3 && h.testBit 3,
              g'.testBit 4 && h.testBit 4, w, g'.testBit 7, g.testBit 11, g'.testBit 8 && h.testBit 8, ar,
              compSize gsize hsize va ipa, gAt, hAt, tleaf, gsize, g.testBit 10, h.testBit 10,
              (g'.testBit 2, g'.testBit 3, g'.testBit 4)⟩ (ipas ++ [s.hypTag v p ipa])

/-- The hypervisor-stage entries that a walk of an IPA reads, as they are cached (R397). -/
def hypTrail (s : State) (d p : Nat) (v : Walker) (ipa : Nat) : Nat → Nat → Nat → List PteCache
  | 0, _, _ => []
  | fuel + 1, table, lvl =>
    let at_ := table + 8 * (ipa / levelSize lvl % 512)
    let e := s.pte v true lvl ipa at_
    let here : PteCache := ⟨d, p, 0, true, lvl, ipa / levelSize lvl * levelSize lvl, e, at_, []⟩
    if e.testBit 1 then [here] else here :: hypTrail s d p v ipa fuel (pteAddr e) (lvl + 1)

/-- The entries of both stages that a guest walk reads from a table at level `lvl` on, as they are cached (R397). -/
def guestTrail (s : State) (d asid : Nat) (v : Walker) (p : Part) (va : Nat) : Nat → Nat → Nat → List Nat → List PteCache
  | 0, _, _, _ => []
  | fuel + 1, table, lvl, ipas =>
    match s.tablePa v p table with
    | .ok pa _ =>
      let at_ := pa + 8 * (va / levelSize lvl % 512)
      let e := s.pte v false lvl va at_
      let ipas := ipas ++ [s.hypTag v p table]
      let here : PteCache := ⟨d, p.num, asid, false, lvl, va / levelSize lvl * levelSize lvl, e, at_, ipas⟩
      let stage := hypTrail s d p.num v (table % 2 ^ 44) 4 p.hroot 1 ++ [here]
      if e.testBit 1 then stage ++ hypTrail s d p.num v (leafOut e (levelSize lvl) va % 2 ^ 44) 4 p.hroot 1
      else stage ++ guestTrail s d asid v p va fuel (pteAddr e) (lvl + 1) ipas
    | _ => []

/-- Every entry that a successful walk reads, as it is cached (R397). -/
def State.trail (s : State) (d : Nat) (p : Part) (asid va : Nat) : List PteCache :=
  let v : Walker := some (d, p.num, asid)
  let slot := p.groots + 8 * asid
  match s.tablePa v p slot with
  | .ok rootAt _ =>
    let root := s.pte v false 5 0 rootAt
    let tag := [s.hypTag v p slot]
    hypTrail s d p.num v (slot % 2 ^ 44) 4 p.hroot 1
      ++ ⟨d, p.num, asid, false, 5, 0, root, rootAt, tag⟩ :: guestTrail s d asid v p va 5 root 0 tag
  | _ => []

/-- Cached composites of a die that match an address (R397, R398). -/
def State.cached (s : State) (d p asid va : Nat) : List TlbEntry :=
  s.tlb.filter (fun t => t.die == d && t.part == p && t.asid == asid && t.base ≤ va && va < t.base + t.comp.size)

/-- A composite of a larger page, seen at one of its 4 KiB pages: in a 64 KiB group each page has its own leaf (R394). -/
def TlbEntry.seen (t : TlbEntry) (va : Nat) : Comp :=
  let n := va / 4096 - t.base / 4096
  { t.comp with
    pa := t.comp.pa + 4096 * n, ipa := t.comp.ipa + 4096 * n
    gleaf := if t.comp.ggroup then t.comp.gleaf + 8 * n else t.comp.gleaf
    hleaf := if t.comp.hgroup then t.comp.hleaf + 8 * n else t.comp.hleaf }

/-- A composite of an address as it is kept, at the lowest page of its size. -/
def Comp.kept (c : Comp) (va : Nat) : Comp :=
  let n := va % c.size / 4096
  { c with
    pa := c.pa - 4096 * n, ipa := c.ipa - 4096 * n
    gleaf := if c.ggroup then c.gleaf - 8 * n else c.gleaf
    hleaf := if c.hgroup then c.hleaf - 8 * n else c.hleaf }

/-- Do two composites agree in output address and every field of R393 (R398)? WB is the guest leaf's own bit. -/
def State.agree (s : State) (a b : Comp) : Bool :=
  a.pa == b.pa && a.rd == b.rd && a.wr == b.wr && a.ex == b.ex && a.w == b.w && a.f == b.f && a.pf == b.pf
    && a.ar == b.ar && (s.hbmWord a.gleaf).testBit 11 == (s.hbmWord b.gleaf).testBit 11

/-- The composite an agent of die `d` uses (R397, R398): a matching cached one or a new walk, by a free choice; cached
composites of different sizes that disagree conflict. -/
def State.lookupComp (s : State) (d : Nat) (p : Part) (asid va : Nat) : Walk :=
  match s.cached d p.num asid va with
  | [] => s.walk (some (d, p.num, asid)) p asid va
  | t :: rest =>
    if rest.any (fun x => !s.agree (x.seen va) (t.seen va)) then .conflict
    else if Config.useCached s.tick then .ok (t.seen va) t.ipas
    else s.walk (some (d, p.num, asid)) p asid va

/-- Is a cached composite the one of a die, an address space, a page and a size? -/
def TlbEntry.names (t : TlbEntry) (d part asid base size : Nat) : Bool :=
  t.die == d && t.part == part && t.asid == asid && t.base == base && t.comp.size == size

/-- Adds cached table entries in place of older ones of the same address and level (R397). -/
def addPtes (old new : List PteCache) : List PteCache :=
  new.foldl (fun l e => l.filter (fun x => !x.serves e.die e.part e.asid e.hyp e.lvl e.base) ++ [e]) old

/-- Caches a composite at a die in place of an older one of the same page, and the entries its walk read (R397). -/
def State.cacheComp (s : State) (d part asid va : Nat) (c : Comp) (ipas : List Nat) : State :=
  let e : TlbEntry := ⟨d, part, asid, va / c.size * c.size, c.kept va, ipas⟩
  if s.tlb.contains e then s
  else
    let ptes := match s.part? part with
      | some p => addPtes s.ptes (s.trail d p asid va)
      | none => s.ptes
    { s with tlb := s.tlb.filter (fun x => !x.names d part asid e.base c.size) ++ [e], ptes }

/-- The outcome of a translation for an access. -/
inductive Trans where
  | ok (c : Comp) (ipas : List Nat)
  | fail (f : WalkFail)
  | conflict
  | writeBack (leaf : Nat)
  deriving DecidableEq, Repr

/-- Does an access need a permission that RD, WR and EX lack (R393)? -/
def Kind.lacks (k : Kind) (rd wr ex : Bool) : Bool := (k.reads && !rd) || (k.writes && !wr) || (k == .exec && !ex)

/-- Permission and write-back checks on a composite (R393, R399). The stage of a lacking permission is the stage whose leaf lacked it when
the composite was formed, the guest first (R400). -/
def State.permit (s : State) (c : Comp) (ipas : List Nat) (k : Kind) : Trans :=
  if k.lacks c.rd c.wr c.ex then
    (if k.lacks c.guest.1 c.guest.2.1 c.guest.2.2 then .fail ⟨false, 1, 0⟩ else .fail ⟨true, 1, c.ipa⟩)
  else if k.writes && (s.hbmWord c.gleaf).testBit 11 then .writeBack c.gleaf
  else .ok c ipas

/-- Translation of an address by an agent of die `d` (R389, R393, R397 to R399). -/
def State.translate (s : State) (d : Nat) (p : Part) (asid va : Nat) (k : Kind) : Trans :=
  match s.lookupComp d p asid va with
  | .fail f => .fail f
  | .conflict => .conflict
  | .ok c ipas => s.permit c ipas k

/-- Hardware writes a guest leaf, through the hypervisor leaf that maps its table (R392). -/
def State.writeLeaf (s : State) (tleaf leaf e : Nat) : State := (s.setD tleaf).writeCopy (.direct leaf) e 8

/-- Sets D in both leaves at the first write through a composite (R393), the guest's as `writeLeaf`. -/
def State.setDirty (s : State) (c : Comp) : State :=
  let e := s.hbmWord c.gleaf
  (if e.testBit 6 then s else s.writeLeaf c.tleaf c.gleaf (e + 64)).setD c.hleaf

/-! ### Fault queues -/

/-- The lowest entry index of a die that no live entry has (R400). -/
def freeIdx (used : List Nat) : Nat → Nat → Nat
  | 0, i => i
  | n + 1, i => if used.contains i then freeIdx used n (i + 1) else i

/-- The live entry a failure merges with (R401). -/
def Die.liveEntry (x : Die) (part : Nat) (hyp : Bool) (asid page : Nat) : Option FaultEntry :=
  x.faults.find? (fun e => e.part == part && e.hyp == hyp && e.asid == asid && e.va == page)

/-- The token of an entry (R400). -/
def FaultEntry.token (e : FaultEntry) : Nat := e.gen * 2 ^ 16 + e.idx

/-- The four words of an entry (R400). -/
def FaultEntry.words (e : FaultEntry) (d : Nat) : List Word :=
  [word e.va, word e.ipa,
   word (e.wcnt % 2 ^ 32 + e.asid <<< 32 + (e.reason + boolNat e.hyp * 8 + e.kinds) <<< 48 + e.srcs <<< 56),
   word (e.token + e.part <<< 32 + d <<< 48)]

/-- Writes a doorbell (R403), through the translation its address has then; it waits while WB is set (R399, R411), and one that no longer
translates to a direct page that may be written is dropped (log 98). -/
def State.writeBell (s : State) (d : Nat) (b : Bell) : State :=
  match s.part? b.part with
  | none => s
  | some p =>
    match s.translate d p b.asid b.va .write with
    | .ok c ipas =>
      let pa := c.pa + b.va % 4096
      if c.w || !dataPa pa then s
      else ((s.cacheComp d b.part b.asid b.va c ipas).setDirty c).engineWrite { die := some d, part := b.part } (.direct pa) (b.key % 2 ^ 16) 8
    | .writeBack _ => s.modDie d (fun x => { x with bells := x.bells ++ [{ b with rung := true }] })
    | _ => s

/-- Rings the doorbell armed on a queue, once (R403). -/
def State.ringBell (s : State) (d key : Nat) : State :=
  match (s.die d).bells.find? (fun b => b.key == key && !b.rung) with
  | none => s
  | some b => (s.modDie d (fun x => { x with bells := x.bells.erase b })).writeBell d b

/-- The queue a failure goes to, as the key of its doorbell: selector in the low bits, guest partition above. -/
def bellKey (d : Nat) (hyp : Bool) (part : Nat) : Nat := if hyp then d + 256 else d + part * 2 ^ 16

/-- Posts or merges a failure (R400 to R402) with `w` waiters of source bit `src`; answers the entry's token, or none where
all 2,048 entries of the die are live. -/
def State.postFault (s : State) (d part asid va : Nat) (k : Kind) (src w : Nat) (f : WalkFail) : State × Option Nat :=
  let x := s.die d
  let page := va / 4096 * 4096
  match x.liveEntry part f.hyp asid page with
  | some e =>
    let e' := { e with wcnt := e.wcnt + w, kinds := e.kinds ||| k.bits, srcs := e.srcs ||| (1 <<< src) }
    (s.setDie d { x with faults := x.faults.map (fun y => if y.token == e.token then e' else y) }, some e.token)
  | none =>
    if 2048 ≤ x.faults.length then (s, none)
    else
      let i := freeIdx (x.faults.map (·.idx)) 2048 0
      let gen := (lookup i x.faultGens).getD 0 % 65535 + 1
      let e : FaultEntry := ⟨i, gen, part, f.hyp, asid, page,
        if f.hyp then f.ipa else 0, f.reason, k.bits, 1 <<< src, w, false⟩
      let s := s.setDie d { x with faults := x.faults ++ [e], faultGens := insert i gen x.faultGens }
      (s.ringBell d (bellKey d f.hyp part), some e.token)

/-- A translation conflict is logged with a machine check (R398). -/
def State.logConflict (s : State) (d core part asid va src : Nat) : State :=
  (s.faultLog part [logWord0 0x03 0 core d 0x04, word va, word asid, word (1 <<< src)]).machineCheck part 0x16

/-- The fault log entry of an uncorrectable error is written where poison is made (R212, R428 event 0x01); `core` is 0xFFFF where no core
is concerned. -/
def State.logPoison (s : State) (part d core pa va : Nat) : State :=
  s.faultLog part [logWord0 0x03 0 core d 0x01, word pa, word va, 0#64]

end Sys2Proof.Machine
end

