-- ==== Sys2Proof/Machine/Access.lean ====
section
/-! DEFINITION. Locating the words of an access, reading them and writing them (R203 to R206, R212, R219, R221, R272), and
the device windows (R414, R427, R432). -/

namespace Sys2Proof.Machine

/-- What an access finds. -/
inductive Found where
  /-- A word at its single copy, with the composite it was reached by, where it was translated. -/
  | at_ (l : Loc) (va : Word) (c : Option (Comp × List Nat))
  /-- A device register. -/
  | device (pa : Nat) (va : Word) (c : Comp) (ipas : List Nat)
  | trap (cause : Nat) (val : Word)
  | fail (va : Word) (f : WalkFail)
  | conflict (va : Word)
  | writeBack (leaf : Nat)
  /-- A walked word whose block is absent from its home die. -/
  | absent (k : BlockKey) (home : Nat) (va : Word)
  deriving DecidableEq, Repr

/-! ### Local store protection -/

/-- Does region register `r` cover byte `o` for slot `sl` with permission bit `perm` (R205)? -/
def regionGrants (r : Word) (sl perm o : Nat) : Bool :=
  bitOf r 63 && bitOf r perm && bitOf r (46 + sl) && 256 * field r 9 0 ≤ o && o < 256 * field r 26 16

/-- Does some region of a core grant a permission on every byte (R206)? -/
def Core.grants (k : Core) (sl perm o n : Nat) : Bool :=
  (List.range n).all (fun i => k.lspa.toList.any (fun r => regionGrants r sl perm (o + i)))

/-- `CheckRegion` (R206) for the issuing context: a strand on a Utell core has no local store; slot 15 is never checked. -/
def State.regionOk (s : State) (o n : Nat) (k : Kind) : Bool :=
  let t := s.cpu
  if isUtell t.core then false
  else if s.isSup then true
  else
    let c := s.core t.core
    (!k.reads || c.grants t.slot 62 o n) && (!k.writes || c.grants t.slot 61 o n) && (k != .exec || c.grants t.slot 60 o n)

/-! ### Locate -/

/-- The home-map index of a block address (R269). -/
def homeIndex (va : Nat) : Nat :=
  ((va >>> 15) % 4096) ^^^ ((va >>> 27) % 4096) ^^^ ((va >>> 39) % 4096) ^^^ ((va >>> 51) % 32)

/-- The home die of a block (R269). -/
def Part.homeDie (p : Part) (va : Nat) : Nat := (lookup (homeIndex va) p.hmap).getD (p.dies.headD 0)

/-- The block that holds an address (R268). -/
def blockOf (part asid : Nat) (va : Word) : BlockKey := ⟨part, asid, va.toNat / 32768 * 32768⟩

/-- Is the block resident and not being written back (R272)? -/
def State.resident (s : State) (d : Nat) (k : BlockKey) : Bool :=
  match s.block? d k with
  | some b => b.frame == .resident
  | none => false

/-- A word through a composite: walked memory at its block's home die, direct memory at its home bank, device space. A read-to-act page is
one of device registers wherever its output lies (R414). -/
def State.foundBy (s : State) (p : Part) (asid : Nat) (va : Word) (c : Comp) (ipas : List Nat) : Found :=
  let pa := c.pa + va.toNat % 4096
  if c.w then
    let k := blockOf p.num asid va
    let h := p.homeDie k.blk
    if s.resident h k then .at_ (.frame h k (va.toNat % 32768)) va (some (c, ipas)) else .absent k h va
  else if c.ar || 2 ^ 41 ≤ pa then .device pa va c ipas
  else .at_ (.direct pa) va (some (c, ipas))

/-- The checks of R203 and R204 on an address, in order. -/
def addrTrap (va : Word) (size : Nat) : Option Found :=
  if field va 63 57 ≠ 0 then some (.trap 0x13 va)
  else if bitOf va 56 && field va 55 18 ≠ 0 then some (.trap 0x13 va)
  else if va.toNat % size ≠ 0 then some (.trap 0x10 va)
  else none

/-- Translates an address of the issuing context and finds its word. -/
def State.locateVirt (s : State) (va : Word) (k : Kind) : Found :=
  match s.part? s.cpu.part with
  | none => .fail va ⟨true, 0, 0⟩
  | some p =>
    match s.translate s.here p s.cpu.asid va.toNat k with
    | .fail f => .fail va f
    | .conflict => .conflict va
    | .writeBack l => .writeBack l
    | .ok c ipas => s.foundBy p s.cpu.asid va c ipas

/-- `Locate` (R221) for the issuing context. -/
def State.locate (s : State) (va : Word) (size : Nat) (k : Kind) : Found :=
  match addrTrap va size with
  | some f => f
  | none =>
    if bitOf va 56 then
      if s.regionOk (field va 17 0) size k then .at_ (.loc s.cpu.core (field va 17 0)) va none else .trap 0x13 va
    else s.locateVirt va k

/-- A local-form address (R223): an offset modulo 2^18, with its alignment and its region. TVAL holds the address as issued (R206); that it
does so for a misaligned and for a poisoned word too is DEDUCED (log 99). -/
def State.locateLocal (s : State) (va : Word) (size : Nat) (k : Kind) : Found :=
  let o := va.toNat % 2 ^ 18
  if o % size ≠ 0 then .trap 0x10 va
  else if s.regionOk o size k then .at_ (.loc s.cpu.core o) va none else .trap 0x13 va

/-- Locates elements in order (R221): all of them, or the first outcome that is no word, with the words before it. -/
def locateAll (f : Word → Found) : List Word → List Found × Option Found
  | [] => ([], none)
  | va :: rest =>
    match f va with
    | .at_ l v c =>
      let (ok, bad) := locateAll f rest
      (.at_ l v c :: ok, bad)
    | .device pa v c ipas =>
      let (ok, bad) := locateAll f rest
      (.device pa v c ipas :: ok, bad)
    | x => ([], some x)

/-! ### Uses (R274, R275) -/

/-- How many uses are held on the block: those of contexts, and those of accesses from outside (R274, R275, R279). -/
def State.useCount (s : State) (k : BlockKey) : Nat :=
  let ts := s.cpu :: (s.threads.map (·.2) ++ s.sups.map (·.2))
  (ts.map (fun t => boolNat (t.use == some k) + boolNat (t.passed.contains k || t.carried.contains k))).sum
    + (s.outside.filter (fun (o : Outside) => o.use == some k)).length

/-- The physical address of a byte of a block, by the output addresses its fetch found (R396). -/
def Block.paOf (b : Block) (off : Nat) : Nat := b.outs.getD (off / 4096) 0 + off % 4096

/-- Where a location in a block's frame lies once the frame is given up (R271). -/
def Block.toHbm (b : Block) (d : Nat) (l : Loc) : Loc :=
  match l with
  | .frame d' k off => if d' = d && k = b.key then .direct (b.paOf off) else l
  | _ => l

/-- A fetch that waited for the frame of a block has it (R281). -/
def Block.given (k : BlockKey) (b : Block) : Block := if b.victim = some k then { b with victim := none } else b

/-- Gives up a block's frame: the single copy of its words is HBM again (R271, R281), and a fetch that waits for the frame has it. -/
def State.freeFrame (s : State) (d : Nat) (b : Block) : State :=
  let s := s.setBlock d { b with frame := .absent, data := {}, dirty := [], outs := [], walks := [], evict := false }
  let s := s.modDie d (fun x => { x with blocks := x.blocks.map (·.given b.key) })
  (s.mapDies (fun _ x => { x with words := x.words.map (fun w => { w with at_ := b.toHbm d w.at_ }) })).sweepBlocks d

/-- Starts the eviction of a resident block (R281): posted writes to it are drained; a clean frame is free at once, a dirty
one is written back first. -/
def State.startEvict (s : State) (d : Nat) (k : BlockKey) : State :=
  let s := s.drain (fun p => p.at_.overlaps p.size (.frame d k 0) 32768)
  match s.block? d k with
  | none => s
  | some b =>
    if b.frame != .resident then s
    else if b.dirty.isEmpty then s.freeFrame d b
    else s.setBlock d { b with frame := .writingBack }

/-- Notes when a block's use count has reached zero; a frame marked by `BHINT.ev` is evicted then (R281). -/
def State.noteIdle (s : State) (k : BlockKey) : State :=
  match s.part? k.part with
  | none => s
  | some p =>
    let h := p.homeDie k.blk
    match s.block? h k with
    | none => s
    | some b =>
      if s.useCount k ≠ 0 then s
      else
        let s := s.setBlock h { b with idleSince := s.now }
        if b.evict && b.pins == 0 then s.startEvict h k else s

/-- The location of a found word. -/
def Found.loc? : Found → Option Loc
  | .at_ l _ _ => some l
  | _ => none

/-- The composite, with the hypervisor pages its walk used, that led to a found word. -/
def Found.comp? : Found → Option (Comp × List Nat)
  | .at_ _ _ c => c
  | _ => none

/-- The block of a found walked word. -/
def Found.block? (f : Found) : Option BlockKey :=
  match f.loc? with
  | some (.frame _ k _) => some k
  | _ => none

/-- Blocks of located walked words. -/
def walkedBlocks (fs : List Found) : List BlockKey := (fs.filterMap Found.block?).eraseDups

/-- The uses that an instruction takes as it locates its elements (R274, R275): the ordinary use on the last walked block, in place of
the one it held, and uses on the others that it has passed, which last as long as the instruction. -/
def State.useBlocks (s : State) (fs : List Found) : State :=
  match (fs.filterMap Found.block?).getLast? with
  | none => s
  | some k =>
    let passed := (walkedBlocks fs).filter (· != k)
    let old := s.cpu.use.filter (fun o => o != k && !passed.contains o)
    let s := s.modCpu (fun t => { t with use := some k, passed := t.passed ++ passed.filter (fun o => !t.passed.contains o) })
    match old with
    | some o => s.noteIdle o
    | none => s

/-- Drops the uses that the issuing context's instruction holds, the carried ones among them, at its end (R275). -/
def State.dropCarried (s : State) : State :=
  match s.cpu.passed ++ s.cpu.carried with
  | [] => s
  | ks => ks.foldl State.noteIdle (s.modCpu (fun t => { t with passed := [], carried := [] }))

/-- Caches the composite of a found word (R397). -/
def State.cacheFound (s : State) (f : Found) : State :=
  match f with
  | .at_ _ va (some (c, ipas)) | .device _ va c ipas => s.cacheComp s.here s.cpu.part s.cpu.asid va.toNat c ipas
  | _ => s

/-- Caches the composites of found words, and takes the uses of walked ones (R274, R275, R397). -/
def State.touched (s : State) (fs : List Found) : State := (fs.foldl State.cacheFound s).useBlocks fs

/-- One found word is touched. -/
def State.touch (s : State) (f : Found) : State := s.touched [f]

/-! ### Device windows -/

/-- Read-to-act state of a page: its token and who armed it (R414). -/
def State.rtaPage (s : State) (page : Nat) : Nat × Option (CtxId × Nat) :=
  match s.rta.find? (fun x => x.1 == page) with
  | some (_, tok, arm) => (tok, arm)
  | none => (1, none)

/-- Sets the read-to-act state of a page. -/
def State.setRta (s : State) (page tok : Nat) (arm : Option (CtxId × Nat)) : State :=
  { s with rta := insertRta s.rta }
where insertRta (l : List (Nat × Nat × Option (CtxId × Nat))) : List (Nat × Nat × Option (CtxId × Nat)) :=
  match l with
  | [] => [(page, tok, arm)]
  | x :: rest => if x.1 = page then (page, tok, arm) :: rest else x :: insertRta rest

/-- A token after an arming: one that differs, from 1 to 0xFFFF (R414). -/
def freshToken (tick tok : Nat) : Nat :=
  let n := Config.nextToken tick % 65535 + 1
  if n = tok then n % 65535 + 1 else n

/-- The issuing context as an agent of device registers. -/
def State.devAgent (s : State) : DevAgent := ⟨s.cur, s.here, s.cpu.core, s.cpu.part⟩

/-- A read of a read-to-act page by a context (R414). -/
def State.rtaRead (s : State) (c : CtxId) (page off : Nat) : State × Word :=
  let (tok, arm) := s.rtaPage page
  if off / 8 = 0x1FE then (s, word tok)
  else if off / 8 = 0x1FF then (s, 0#64)
  else match arm with
    | some (who, until_) =>
      if who = c && s.now ≤ until_ then (s.setRta page tok none, Config.deviceRead s.tick (page + off))
      else (s, badDenied)
    | none => (s, badDenied)
where badDenied : Word := refusal 4

/-- A write to the token word of a read-to-act page (R414): arms it for 10 µs, or is discarded and logged. -/
def State.rtaArm (s : State) (a : DevAgent) (page : Nat) (va v : Word) : State :=
  let (tok, arm) := s.rtaPage page
  if v.toNat = tok then s.setRta page (freshToken s.tick tok) (some (a.who, s.now + 10000))
  else (s.setRta page (freshToken s.tick tok) arm).faultLog a.part [logWord0 0x03 0 a.core a.die 0x08, va, v, 0#64]

/-- A read of a partition's control region (R427): every access is of 8 bytes; another is discarded and logged. -/
def Part.controlRead (p : Part) (off : Nat) : Word :=
  if off < 0x1000 then
    word (packNat 8 ((List.range 8).map (fun i => (lookup (off + i) p.hmap).getD (p.dies.headD 0))))
  else if off < 0x10C0 then word ((lookup ((off - 0x1000) / 8) p.pinq).getD p.pquota)
  else if off = 0x1100 then word p.flTail
  else if off = 0x1108 then word p.flHead
  else if off = 0x1110 then word p.flLost
  else if off = 0x1200 then word p.wbTail
  else if off = 0x1208 then word p.wbHead
  else 0#64

/-- A discarded access of a control region is logged (R427, R428 event 0x09). -/
def State.logControl (s : State) (a : DevAgent) (part off : Nat) (v : Word) : State :=
  s.faultLog part [logWord0 0x03 0 a.core a.die 0x09, word off, v, 0#64]

/-- A device read of `size` bytes by an agent (R414, R427, R432). -/
def State.deviceGet (s : State) (a : DevAgent) (pa size : Nat) (c : Comp) : State × Nat :=
  if c.ar then
    let (s, v) := s.rtaRead a.who (pa / 4096 * 4096) (pa % 4096)
    (s, (v.toNat >>> (8 * (pa % 8))) % 2 ^ (8 * size))
  else if 0x0C0000000000 ≤ pa then
    let n := (pa - 0x0C0000000000) / 16384
    let off := pa % 16384
    match s.part? n with
    | none => (s, 0)
    | some p => if size = 8 then (s, (p.controlRead off).toNat) else (s.logControl a n off 0#64, 0)
  else (s, (Config.deviceRead s.tick pa).toNat % 2 ^ (8 * size))

/-- A device read of `size` bytes by the issuing context. -/
def State.deviceRead (s : State) (pa size : Nat) (c : Comp) : State × Nat := s.deviceGet s.devAgent pa size c

/-- Is an event a store to a partition's control region (R427)? -/
def Event.isControl : Event → Bool
  | .hmapStore .. | .pinqStore .. | .controlRegionWrite .. => true
  | _ => false

/-- A store to a control region is the next module event; further ones of the same instruction follow it in order. -/
def State.controlStore (s : State) (e : Event) : State :=
  let first := s.inputs.takeWhile Event.isControl
  { s with inputs := first ++ e :: s.inputs.drop first.length, turn := some (.event (first.headD e)) }

/-- A device write of `size` bytes by an agent, through a composite whose D it sets (R393, R414, R427, R432). A control region's writes are
performed as module events of their own rows, which come next. -/
def State.devicePut (s : State) (a : DevAgent) (pa size : Nat) (va : Word) (c : Comp) (v : Nat) : State :=
  let s := s.setDirty c
  if c.ar then
    if pa % 4096 / 8 = 0x1FF && size = 8 then s.rtaArm a (pa / 4096 * 4096) va (word v) else s
  else if 0x0C0000000000 ≤ pa then
    let p := (pa - 0x0C0000000000) / 16384
    let off := pa % 16384
    s.controlStore (
      if off < 0x1000 then .hmapStore a p off size (word v)
      else if off < 0x10C0 then .pinqStore a p off size (word v)
      else .controlRegionWrite a p off size (word v))
  else s

/-- A device write by the issuing context. -/
def State.deviceWrite (s : State) (pa size : Nat) (va : Word) (c : Comp) (v : Nat) : State :=
  s.devicePut s.devAgent pa size va c v

/-! ### Handling what is no word -/

/-- A context becomes a fault waiter (R399): the failure is posted or merged at its die (R400, R401), or waits for a free
entry (R402). Source bit 0 is a strand access. -/
def State.faultWait (s : State) (va : Word) (k : Kind) (f : WalkFail) : State :=
  let d := s.here
  let (s, tok) := s.postFault d s.cpu.part s.cpu.asid va.toNat k 0 1 f
  s.modCpu (fun t => { t with wait := .fault d tok va k f })

/-- A translation conflict (R398): the trap, the log entry and the machine check. -/
def State.conflictTrap (s : State) (va : Word) : State :=
  (s.logConflict s.here s.cpu.core s.cpu.part s.cpu.asid va.toNat 0).trap 0x16 va

/-! ### Values -/

/-- The issuing context's own posted writes to the bytes of located elements are performed first (R219, R230). -/
def State.ownFirst (s : State) (size : Nat) (fs : List Found) : State :=
  s.drain (fun p => p.ctx == s.cur && (fs.filterMap Found.loc?).any (fun l => p.at_.overlaps p.size l size))

/-- The values of located elements of `size` bytes, or the first poisoned address (R212). -/
def State.readFound (s : State) (size : Nat) : List Found → State × List Nat
  | [] => (s, [])
  | .at_ l _ _ :: rest =>
    let v := s.readAt s.here l size
    let (s, vs) := s.readFound size rest
    (s, v :: vs)
  | .device pa _ c _ :: rest =>
    let (s, v) := s.deviceRead pa size c
    let (s, vs) := s.readFound size rest
    (s, v :: vs)
  | _ :: rest => s.readFound size rest

/-- The first poisoned element among located ones (R212). -/
def State.firstPoison (s : State) (size : Nat) : List Found → Option Word
  | [] => none
  | .at_ l va _ :: rest => if s.anyPoison l size then some va else s.firstPoison size rest
  | _ :: rest => s.firstPoison size rest

/-- Does some element of `size` bytes cover a byte? -/
def covers (size : Nat) (fs : List Found) (b : Loc) : Bool :=
  fs.any (fun f => match f.loc? with | some l => l.overlaps size b 1 | none => false)

/-- The start of the atom that holds a location (R207). -/
def Loc.atom (l : Loc) : Loc :=
  match l with
  | .loc c o => .loc c (o / 32 * 32)
  | .direct p => .direct (p / 32 * 32)
  | .frame d k o => .frame d k (o / 32 * 32)

/-- Do the elements cover the whole atom of a location (R212)? -/
def coversAtom (size : Nat) (fs : List Found) (l : Loc) : Bool :=
  (List.range 32).all (fun i => covers size fs (l.atom.plus i))

/-- The first element of a store to a poisoned word whose atom the store does not write whole (R212, log 19). -/
def State.storePoison (s : State) (size : Nat) (all : List Found) : List Found → Option Word
  | [] => none
  | .at_ l va _ :: rest =>
    if s.anyPoison l size && !coversAtom size all l then some va
    else s.storePoison size all rest
  | _ :: rest => s.storePoison size all rest

/-- Clears the poison of the atoms a store writes whole (R212). -/
def State.freshen (s : State) (size : Nat) (all : List Found) : List Found → State
  | [] => s
  | .at_ l _ _ :: rest =>
    let s := if (List.range 4).any (fun i => s.poisonedAt (l.atom.plus (8 * i))) && coversAtom size all l
      then s.freshAtom l.atom else s
    s.freshen size all rest
  | _ :: rest => s.freshen size all rest

end Sys2Proof.Machine
end

