-- ==== Sys2Proof/Machine/Spill.lean ====
section
/-! DEFINITION. Windows, spills, fills, flushes and refills (R127, R132 to R138, R144, R145). -/

namespace Sys2Proof.Machine

/-- The number of resident windows (R132 RES), while the context holds a slot. -/
def Thread.res (t : Thread) : Nat := t.older.length + 1

/-- The current window's l and i registers. -/
def Thread.window (t : Thread) : Window :=
  ⟨Vector.ofFn (fun k : Fin 8 => t.regs.get ⟨16 + k, by omega⟩), Vector.ofFn (fun k : Fin 8 => t.regs.get ⟨24 + k, by omega⟩)⟩

/-- Eight words of a list. -/
def vec8 (l : List Word) : Vector Word 8 := Vector.ofFn (fun k : Fin 8 => l.getD k.val 0#64)

/-- A register file from g, o, l and i registers. -/
def fileOf (g o l i : List Word) : Vector Word 32 :=
  Vector.ofFn (fun k : Fin 32 => (g ++ o ++ l ++ i).getD k.val 0#64)

/-- The g registers. -/
def Thread.gregs (t : Thread) : List Word := t.regs.toList.take 8
/-- The o registers. -/
def Thread.oregs (t : Thread) : List Word := (t.regs.toList.drop 8).take 8

/-- Eight zero words. -/
def zero8 : List Word := List.replicate 8 0#64

/-- A result in flight after `SAVE`: o registers are now i registers; l and i registers went one window up (R56, R127). -/
def Fly.saved (f : Fly) : Fly :=
  if 32 ≤ f.reg || f.reg < 8 then f
  else if f.up = 0 && f.reg < 16 then { f with reg := f.reg + 16 }
  else { f with up := f.up + 1 }

/-- A result in flight after a window closes: i registers are now o registers; the closed window's l and o are gone. -/
def Fly.restored (f : Fly) : Option Fly :=
  if 32 ≤ f.reg || f.reg < 8 then some f
  else if f.up = 0 then (if 24 ≤ f.reg then some { f with reg := f.reg - 16 } else none)
  else if f.reg < 16 then none
  else some { f with up := f.up - 1 }

/-- `NewWindow` (R144). -/
def Thread.newWindow (t : Thread) : Thread :=
  { t with older := t.window :: t.older, regs := fileOf t.gregs zero8 zero8 t.oregs, fly := t.fly.map Fly.saved }

/-- `DropCurrentWindow` (R145): the caller's window comes back, with the old i registers as its o registers. An idle spill that faulted
is forgotten with the window it was of (R136). -/
def Thread.dropWindow (t : Thread) : Thread :=
  match t.older with
  | [] => t
  | w :: rest =>
    { t with older := rest, spillOff := t.spillOff && !rest.isEmpty, regs := fileOf t.gregs t.window.i.toList w.l.toList w.i.toList, fly := t.fly.filterMap Fly.restored }

/-- WPTR as it reads while the context holds a slot (R132). -/
def Thread.wptr (t : Thread) : Word := word (t.depth <<< 16 + t.zsz <<< 8 + t.res)

/-- The outcome of a spill, a fill or a flush: it went on, or the context now waits or has trapped. -/
inductive Spilled where
  | ok (s : State)
  | stopped (s : State)

/-- Handles a spill or fill address that is not plain direct memory (R136, R399): a fault waiter, or a precise trap. -/
def State.spillStop (s : State) (va : Word) (k : Kind) (f : Found) : State :=
  match f with
  | .fail _ w => s.faultWait va k w
  | .conflict _ => s.conflictTrap va
  | .writeBack l => s.modCpu (fun t => { t with wait := .writeBack l })
  | .trap c v => s.trap c v
  | _ => s.trap 0x13 va

/-- Finds a spill or fill address (R134, R136): a word of direct memory by the context's own translation. -/
def State.spillFind (s : State) (va : Word) (k : Kind) : Found :=
  match addrTrap va 8 with
  | some f => f
  | none => if bitOf va 56 then .trap 0x13 va else s.locateVirt va k

/-- Writes words at a location, low first. -/
def State.writeWords (s : State) (d : Nat) (l : Loc) : List Word → State
  | [] => s
  | w :: ws => (s.writeAt d l w.toNat 8).writeWords d (l.plus 8) ws

/-- Reads `n` words at a location. -/
def State.readWords (s : State) (d : Nat) (l : Loc) : Nat → List Word
  | 0 => []
  | n + 1 => word (s.readAt d l 8) :: s.readWords d (l.plus 8) n

/-- A write of sectors of the spill stack, each an atom written whole (R134, R212). -/
def State.spillWrite (s : State) (va : Word) (ws : List Word) : Spilled :=
  match s.spillFind va .write with
  | .at_ (.direct pa) v (some (c, ipas)) =>
    let s := ((s.touch (.at_ (.direct pa) v (some (c, ipas)))).setDirty c).writeWords s.here (.direct pa) ws
    .ok (s.modBank (.direct pa) (8 * ws.length) (fun m a => m.eachWord (fun m a => m.setPoison a false) a ws.length))
  | f => .stopped (s.spillStop va .write f)

/-- Writes several pieces of the spill stack, in order. -/
def State.spillPieces (s : State) : List (Word × List Word) → Spilled
  | [] => .ok s
  | (va, ws) :: rest =>
    match s.spillWrite va ws with
    | .stopped s => .stopped s
    | .ok s => s.spillPieces rest

/-- The first of several addresses of the spill stack that cannot be reached now, with what stops it. -/
def State.firstStop (s : State) (k : Kind) : List Word → Option (Word × Found)
  | [] => none
  | va :: rest =>
    match s.spillFind va k with
    | .at_ (.direct _) _ _ => s.firstStop k rest
    | f => some (va, f)

/-- Reads `n` words of the spill stack at an address that can be reached. The bytes are taken as they stand, poisoned or not (DESIGN CHOICE,
log 100). -/
def State.spillRead (s : State) (va : Word) (n : Nat) : State × List Word :=
  match s.spillFind va .read with
  | .at_ (.direct pa) v c => (s.touch (.at_ (.direct pa) v c), s.readWords s.here (.direct pa) n)
  | _ => (s, [])

/-- Results still in flight to the oldest window are put in place before it is written. -/
def Thread.commitOldest (t : Thread) : Thread :=
  { (settle t (t.fly.map (fun f => if f.up = t.older.length then { f with left := 0 } else f))).1 with
    fly := t.fly.filter (fun f => f.up != t.older.length) }

/-- The oldest window is written: it is no longer resident and SSP has fallen by 128 (R134). -/
def Thread.dropOldest (t : Thread) : Thread :=
  { t with ssp := t.ssp - 128#64, older := t.older.dropLast, spillSec := 0, spillOff := false }

/-- Spills the oldest resident window but the current (R134): the sectors not yet written, then SSP falls by 128. -/
def State.spillOldest (s : State) : Spilled :=
  match s.cpu.older with
  | [] => .ok s
  | _ :: _ =>
    let s := s.modCpu Thread.commitOldest
    match s.cpu.older.getLast? with
    | none => .ok s
    | some w =>
      let from_ := s.cpu.spillSec
      match s.spillWrite (s.cpu.ssp - 128#64 + word (32 * from_)) ((w.l.toList ++ w.i.toList).drop (4 * from_)) with
      | .stopped s => .stopped s
      | .ok s => .ok (s.modCpu Thread.dropOldest)

/-- Spills `n` of the oldest windows. -/
def State.spillMany (s : State) : Nat → Spilled
  | 0 => .ok s
  | n + 1 =>
    match s.spillOldest with
    | .ok s => s.spillMany n
    | .stopped s => .stopped s

/-- `SpillAllButCurrent` (R138). -/
def State.spillAllButCurrent (s : State) : Spilled := s.spillMany s.cpu.older.length

/-- `FillWindow` (R145): the window below the current one, from SSP. -/
def State.fillOlder (s : State) : Spilled :=
  match s.firstStop .read [s.cpu.ssp] with
  | some (va, f) => .stopped (s.spillStop va .read f)
  | none =>
    let (s, ws) := s.spillRead s.cpu.ssp 16
    .ok (s.modCpu (fun t => { t with ssp := t.ssp + 128#64, older := [⟨vec8 (ws.take 8), vec8 (ws.drop 8)⟩] }))

/-- The park frame (R133): o0 to o7, g1 to g7, LID, JMEM, KHND, six reserved words. -/
def Thread.parkFrame (t : Thread) : List Word :=
  t.oregs ++ t.gregs.drop 1 ++ [t.lid, t.jmem, t.khnd] ++ List.replicate 6 0#64

/-- The pieces of a flush's last frames, none of which crosses a page: the current window, and below it the park frame, whose first 64
bytes lie below a 128-byte boundary (R133). -/
def Thread.lastFrames (t : Thread) : List (Word × List Word) :=
  let p := t.ssp - 320#64
  [(t.ssp - 128#64, t.window.l.toList ++ t.window.i.toList), (p, t.parkFrame.take 8), (p + 64#64, t.parkFrame.drop 8)]

/-- The flush of R136: every resident window not yet spilled, oldest first, then the park frame below them. A spill that
faults stops it, and the context keeps its slot. The addresses of the current window and of the park frame are all
tried before any of them is written (DEDUCED, log 12: RES is never 0 in a slot). -/
def State.flush (s : State) : Spilled :=
  match (s.modCpu Thread.commit).spillAllButCurrent with
  | .stopped s => .stopped s
  | .ok s =>
    match s.firstStop .write (s.cpu.lastFrames.map (·.1)) with
    | some (va, f) => .stopped (s.spillStop va .write f)
    | none =>
      match s.spillPieces s.cpu.lastFrames with
      | .stopped s => .stopped s
      | .ok s => .ok (s.modCpu (fun t => { t with ssp := t.ssp - 320#64, flushed := true }))

/-- A value delivered to a parked context (R285, R240); number 44 is JMEM, which the end of a `JWAIT` clears where it names the
join (R383). -/
def Thread.receive (t : Thread) (n : Nat) (v : Word) : Thread :=
  if n = 44 then (if field t.jmem 47 0 = v.toNat then { t with jmem := 0#64 } else t) else t.put n v.toNat

/-- The refill of R137 for the issuing context: the park frame at SSP, then the current window; results delivered while it
was parked are then in place (R285). LID and JMEM are truncated to the bits they hold (R4, R112, R367). -/
def State.refillRegs (s : State) : Spilled :=
  let p := s.cpu.ssp
  match s.firstStop .read [p, p + 64#64, p + 192#64] with
  | some (va, f) => .stopped (s.spillStop va .read f)
  | none =>
    let (s, low) := s.spillRead p 8
    let (s, high) := s.spillRead (p + 64#64) 10
    let (s, ws) := s.spillRead (p + 192#64) 16
    let f := low ++ high
    let t := s.cpu
    let t := { t with
      regs := fileOf (0#64 :: (f.drop 8).take 7) (f.take 8) (ws.take 8) (ws.drop 8)
      lid := word (field (f.getD 15 0#64) 31 0), jmem := setField (f.getD 16 0#64) 55 48 0, khnd := f.getD 17 0#64
      ssp := p + 320#64, older := [], deliver := [], flushed := false }
    .ok { s with cpu := s.cpu.deliver.foldl (fun t (n, v) => t.receive n v) t }

end Sys2Proof.Machine
end

