-- ==== Sys2Proof/Machine/Strands.lean ====
section
/-! DEFINITION. Strands and slots: records, placement, pools, slots, parking, retirement and launches (R96 to R125). -/

namespace Sys2Proof.Machine

/-! ### Partitions and their cores (R421 to R424) -/

/-- First core index and core count of a node word (R421). -/
def nodeRange (node : Nat) : Nat × Nat :=
  let lvl := node / 32 % 8
  let size := 256 >>> lvl
  (node / 256 % 16 * size, size)

/-- Does the partition hold barrel core index `i` of die `d`? -/
def Part.hasIdx (p : Part) (d i : Nat) : Bool :=
  if p.whole then p.dies.contains d
  else d == p.node % 32 && (nodeRange p.node).1 ≤ i && i < (nodeRange p.node).1 + (nodeRange p.node).2

/-- Does the partition own a core (R422, R423)? Utell core u of a die goes with core index 64 × u. -/
def Part.owns (p : Part) (core : Nat) : Bool :=
  if isUtell core then p.hasIdx (dieOf core) (64 * ((core - 6144) % 4)) else p.hasIdx (dieOf core) (core % 256)

/-- The partition that owns a core. -/
def State.owner (s : State) (core : Nat) : Option Part := s.parts.find? (fun p => p.owns core)

/-- Is the core's partition gang-stopped (R264)? -/
def State.gangStopped (s : State) (core : Nat) : Bool :=
  match s.owner core with
  | some p => p.stopped
  | none => false

/-- The cores of a die that a partition owns, by rising index. -/
def Part.coresOn (p : Part) (d : Nat) : List Nat :=
  if p.whole then (if p.dies.contains d then (List.range 256).map (256 * d + ·) else [])
  else if d = p.node % 32 then
    (List.range (nodeRange p.node).2).map (fun i => 256 * d + (nodeRange p.node).1 + i) else []

/-- How many cores of the module it holds. -/
def Part.coreCount (p : Part) : Nat := if p.whole then 256 * p.dies.length else (nodeRange p.node).2

/-! ### Records and quotas -/

/-- The creating die of a strand number (R27). -/
def sidDie (sid : Nat) : Nat := sid / 2 ^ 19

/-- The free records of a die (R96, R97, R255). -/
def State.freeRecords (s : State) (d : Nat) : Nat :=
  524288 - (s.strands.filter (fun (n, t) => sidDie n == d && !t.overflowed)).length - (s.die d).visitors.length

/-- Records a partition holds anywhere (R423). -/
def State.recordsHeld (s : State) (p : Nat) : Nat :=
  (s.strands.filter (fun (_, t) => t.part == p && !t.overflowed)).length
    + (s.dies.map (fun (_, x) => (x.visitors.filter (fun v => v.2 == p)).length)).sum

/-- Has the partition reached its cap of records (R423)? -/
def State.recordCap (s : State) (p : Part) : Bool := !p.whole && 2048 * p.coreCount ≤ s.recordsHeld p.num

/-- Is a record free on die `d` for a strand that would park there (R30)? -/
def State.recordFree (s : State) (d sid part : Nat) : Bool :=
  sidDie sid == d ||
    (0 < s.freeRecords d && (match s.part? part with | some p => !s.recordCap p | none => true))

/-- Does a die have a record index that no live strand's number holds (R96)? The records of strands that were spilled to the parking
overflow area are free, but their numbers are not (R255; DEDUCED, log 101). -/
def State.recordIdx (s : State) (d : Nat) : Bool := !(s.die d).freeRecs.isEmpty || (s.die d).nextRec < 2 ^ 19

/-- May a strand be created on die `d` (R97, R423)? -/
def State.mayCreate (s : State) (d : Nat) (p : Part) : Bool :=
  !(s.die d).down && s.recordIdx d && 16384 < s.freeRecords d && (p.whole || s.recordsHeld p.num + 64 * p.coreCount < 2048 * p.coreCount)

/-- Live strands of a partition, with those its accepted launches have still to create (R98, R113). -/
def State.quotaUsed (s : State) (p : Nat) : Nat :=
  (s.strands.filter (fun (_, t) => t.part == p)).length
    + (s.dies.map (fun (_, x) => ((x.launches.filter (fun l => l.part == p && !l.ended)).map
        (fun l => field (l.desc.getD 1 0#64) 31 0 - l.made)).sum)).sum

/-- The next record index of a die: a freed one, least recently freed first, else a fresh one (R96). -/
def State.allocRecord (s : State) (d : Nat) : State × Nat :=
  let x := s.die d
  match x.freeRecs with
  | i :: rest => (s.setDie d { x with freeRecs := rest }, d * 2 ^ 19 + i)
  | [] => (s.setDie d { x with nextRec := x.nextRec + 1 }, d * 2 ^ 19 + x.nextRec)

/-- Is the acceptance journal of a die full (R431), or the die being reset? -/
def State.journalFull (s : State) (d : Nat) : Bool := (s.die d).down || 65536 ≤ (s.die d).journal.length

/-- Accepted work enters the journal (R35, R431). -/
def State.journal (s : State) (d kind id : Nat) : State :=
  s.modDie d (fun (x : Die) => { x with journal := x.journal ++ [(kind, id)] })

/-- An entry of the journal is freed: a strand's when it is retired, other work's when its completion is delivered (R431; log 52). -/
def State.unjournal (s : State) (d kind id : Nat) : State :=
  s.modDie d (fun (x : Die) => { x with journal := x.journal.erase (kind, id) })

/-- The completion of journalled work is delivered: its entry is freed (R431). -/
def State.delivered (s : State) (d : Nat) (e : Option (Nat × Nat)) : State :=
  match e with
  | some (kind, id) => s.unjournal d kind id
  | none => s

/-! ### Placement (R99, R100) -/

/-- A destination. -/
inductive Placed where
  | core (c : Nat)
  | pool (d : Nat)
  deriving DecidableEq, Repr

/-- Reads a placement word for a context on core `c` (R99, R100); none for an illegal word. -/
def place (w : Word) (c : Nat) : Option Placed :=
  let k := field w 15 13
  let x := field w 12 0
  if field w 63 16 ≠ 0 then none
  else match k with
    | 0 => if x < 6144 then some (.core x) else none
    | 1 => if x < 24 then some (.pool x) else none
    | 2 => if x = 0 then some (.pool (dieOf c)) else none
    | 3 => if x = 0 then some (.core c) else none
    | 4 => if x < 96 then some (.core (6144 + x)) else none
    | _ => none

/-- Is a destination inside a partition (R100)? -/
def Part.allows (p : Part) : Placed → Bool
  | .core c => p.owns c
  | .pool d => p.dies.contains d

/-- The die of a destination. -/
def Placed.die : Placed → Nat
  | .core c => dieOf c
  | .pool d => d

/-! ### Slots and pools (R101 to R105) -/

/-- Does core `c` take entries of a partition now (R103, R258)? No core of a die does while the die is being reset, or while its margins are
re-planned (R39). -/
def State.takesFrom (s : State) (c part : Nat) : Bool :=
  let k := s.core c
  (match s.owner c with | some p => p.num == part || (k.slicing && k.tenant == part) | none => false)
    && (!k.slicing || k.tenant == part) && !k.sliceEnd && !(s.die (dieOf c)).down
    && !(s.die (dieOf c)).replan

/-- The lowest user slot of a core that is empty. -/
def State.emptySlot (s : State) (c : Nat) : Option Nat :=
  let used := (s.core c).slots.map (·.1)
  if isUtell c then (if used.isEmpty then some 0 else none)
  else (List.range 14).find? (fun i => !used.contains i)

/-- Puts a strand into a slot of a core (R102), with the issue cycles its last instruction still holds (R54); a flushed one reads its park
frame and its window (R137). -/
def State.enterSlot (s : State) (sid c sl : Nat) : State :=
  let s := s.modCore c (fun k => { k with slots := insert sl sid k.slots })
  let s := s.modThread (.strand sid) (fun t =>
    { t with place := .slot, core := c, slot := sl, wait := .none, overflowed := false, fresh := true })
  match s.thread? (.strand sid) with
  | none => s
  | some t =>
    if t.flushed then
      let old := s.cur
      match (s.focus (.strand sid)).refillRegs with
      | .ok s => s.focus old
      | .stopped s => s.focus old
    else s

/-- The first entry of the level that a refill takes (R17, R103): the highest level that holds a candidate, or the lowest
where the refill count is a multiple of 16. -/
def chooseEntry (cands : List PoolEntry) (lowest : Bool) : Option PoolEntry :=
  let order := if lowest then [3, 2, 1, 0] else [0, 1, 2, 3]
  order.findSome? (fun l => cands.find? (fun e => e.level == l))

/-- Candidates of a die's pool for a core (R103). -/
def State.candidates (s : State) (c : Nat) : List PoolEntry :=
  (s.die (dieOf c)).pool.filter (fun e => (e.bound == none || e.bound == some c) && s.takesFrom c e.part)

/-- Refills an empty user slot of a barrel core from its die's pool (R103). -/
def State.refillSlot (s : State) (c sl : Nat) : State :=
  let d := dieOf c
  let x := s.die d
  match chooseEntry (s.candidates c) ((x.refills + 1) % 16 == 0) with
  | none => s
  | some e =>
    let s := s.setDie d { x with pool := x.pool.erase e, refills := x.refills + 1 }
    s.enterSlot e.sid c sl

/-- Strands in a Utell core's own queue, in order of their stay (R105): the pool of the die holds them bound to the core. -/
def State.refillUtell (s : State) (c : Nat) : State :=
  let d := dieOf c
  let x := s.die d
  match (x.pool.find? (fun e => e.bound == some c && s.takesFrom c e.part)) with
  | none => s
  | some e =>
    let s := s.setDie d { x with pool := x.pool.erase e }
    s.enterSlot e.sid c 0

/-- A user slot has become empty (R103). -/
def State.refill (s : State) (c sl : Nat) : State := if isUtell c then s.refillUtell c else s.refillSlot c sl

/-- The slot that an entry that joins a pool takes at once, if some empty slot can take it (R103). -/
def State.offer (s : State) (d : Nat) (e : PoolEntry) : Option (Nat × Nat) :=
  match e.bound with
  | some c => if s.takesFrom c e.part then (s.emptySlot c).map (fun sl => (c, sl)) else none
  | none =>
    match s.part? e.part with
    | none => none
    | some p => (p.coresOn d).findSome? (fun c =>
        if s.takesFrom c e.part then (s.emptySlot c).map (fun sl => (c, sl)) else none)

/-- A strand gives back its visitor record, once it is parked no longer (R97). -/
def State.dropVisitor (s : State) (sid : Nat) : State :=
  (s.modThread (.strand sid) (fun t => { t with visitor := none })).mapDies
    (fun _ x => { x with visitors := x.visitors.filter (fun v => v.1 != sid) })

/-- The mailboxes of a core that a context owns are freed (R301, R321). -/
def State.freeMail (s : State) (c : Nat) (who : CtxId) : State :=
  s.modCore c (fun k => { k with mail := k.mail.map (fun m => if m.owner == some who then {} else m) })

/-- Frees a core's slot, with the mailboxes its strand owns (R301), and refills it (R103); when a slice end is pending and
every user slot is empty, the supervisor is woken with cause 0x41 (R258). -/
def State.freeSlot (s : State) (c sl : Nat) : State :=
  let s := (lookup sl (s.core c).slots).elim s (fun sid => s.freeMail c (.strand sid))
  let s := s.modCore c (fun k => { k with slots := erase sl k.slots })
  let k := s.core c
  if k.sliceEnd && k.slots.isEmpty then s.queueEvent c { cause := 0x41, val := k.slb }
  else s.refill c sl

/-- The issuing strand drops its ordinary use as it leaves its slot (R274). -/
def State.dropUse (s : State) : State :=
  match s.cpu.use with
  | none => s
  | some k => (s.modCpu (fun t => { t with use := none })).noteIdle k

/-- Takes a visitor record for a strand on a die that is not its creating die (R97, R273). -/
def State.takeVisitor (s : State) (d sid part : Nat) : State :=
  if sidDie sid = d then s
  else (s.modThread (.strand sid) (fun t => { t with visitor := some d })).modDie d
    (fun x => if x.visitors.any (fun v => v.1 == sid) then x else { x with visitors := x.visitors ++ [(sid, part)] })

/-- A count of a launch rises on a die (R116, R124). -/
def Launch.on (l : Launch) (d : Nat) : Launch := if l.touched.contains d then l else { l with touched := l.touched ++ [d] }

/-- A message of a launch is sent on a die, or a context of it departs there: sums over the dies that the sweeps look at (R116, R124). -/
def Launch.sends (l : Launch) (d : Nat) : Launch := if l.lost.contains d then l else { l with sent := l.sent + 1 }.on d
/-- A context of a launch departs from a die (R116, R124). -/
def Launch.departs (l : Launch) (d : Nat) : Launch := if l.lost.contains d then l else { l with departed := l.departed + 1 }.on d

/-- A context of a launch arrives at a die (R116, R124). -/
def Launch.arrives (l : Launch) (d : Nat) : Launch := { l with arrived := l.arrived + 1 }.on d

/-- Departures and arrivals of tiny contexts count for the launch (R116). -/
def State.modLaunch (s : State) (lid : Word) (f : Launch → Launch) : State :=
  if lid = 0#64 then s
  else
    let d := field lid 31 27
    s.modDie d (fun x => { x with launches := x.launches.map (fun l =>
      if l.idx = field lid 11 0 && l.gen = field lid 26 12 then f l else l) })

/-- A launch that loses a strand to the reset of a die ends with code 0x01 (R123). -/
def State.loseLaunch (s : State) (lid : Word) (d : Nat) : State :=
  s.modLaunch lid (fun l => if l.code = 1 then l else { l with code := 1, xdie := d })

/-- A live launch by its id (R112); a DIE of 24 or more names none (DESIGN CHOICE, log 123). -/
def State.launch? (s : State) (lid : Word) : Option Launch :=
  if field lid 63 32 ≠ 0 then none
  else (s.die (field lid 31 27)).launches.find? (fun l => l.idx == field lid 11 0 && l.gen == field lid 26 12)

/-- The die a context stands on, by its place. -/
def Thread.standsOn (t : Thread) : Nat :=
  match t.place with
  | .slot => dieOf t.core
  | .parked _ x | .pool x | .transit x _ _ => x
  | .utellQueue c => dieOf c

/-- A tiny context goes to die `d` at once: where that is another die than it stands on, it departs from the one and arrives at the other
(R116, R124). -/
def State.crosses (s : State) (t : Thread) (d : Nat) : State :=
  if t.standsOn = d then s else s.modLaunch t.lid (fun l => (l.departs t.standsOn).arrives d)

/-- The issuing strand, flushed, gives up its slot and parks on die `d` with a CAUSE (R28, R136, R140, R243). -/
def State.parkOn (s : State) (cause d : Nat) : State :=
  match s.cur with
  | .sup _ => s
  | .strand sid =>
    let c := s.cpu.core
    let sl := s.cpu.slot
    let s := s.drain (fun p => p.ctx == .strand sid)
    let s := s.takeVisitor d sid s.cpu.part
    let s := s.dropUse.crosses s.cpu d
    let s := s.modCpu (fun t => { t.quiet with place := .parked cause d, parkedAt := s.tick, wait := .none })
    s.freeSlot c sl

/-- The issuing strand, flushed, leaves its slot as a tiny context for another die (R273). It reserves a visitor record there where it is
to park (R30, R97). Every posted write of the die it leaves reaches its single copy first, since the strand may have acquired it (R232;
DESIGN CHOICE, log 14). -/
def State.ship (s : State) (d : Nat) (bound : Option Nat) (block : Option (BlockKey × Nat)) : State :=
  match s.cur with
  | .sup _ => s
  | .strand sid =>
    let c := s.cpu.core
    let sl := s.cpu.slot
    let s := s.drain (fun p => p.die == s.here)
    let s := if block.isSome then s.takeVisitor d sid s.cpu.part else s
    let s := s.dropUse
    let s := s.modCpu (fun t => { t.quiet with place := .transit d bound block, wait := .none })
    let s := s.modLaunch s.cpu.lid (·.departs (dieOf c))
    s.freeSlot c sl

/-- Are all user slots of a die occupied (R30)? -/
def State.slotsFull (s : State) (d : Nat) : Bool :=
  (List.range 256).all (fun i => (s.emptySlot (256 * d + i)).isNone)

/-- Where a long wait of the issuing context on die `d` is held: in the slot (VLIVE, a supervisor context, or no record:
R29, R30), parked, or a parking-full trap (R255). -/
inductive LongWait where
  | inSlot | park | full
  deriving DecidableEq, Repr

/-- Decides R29 and R30. -/
def State.longWait (s : State) (d : Nat) : LongWait :=
  match s.cur with
  | .sup _ => .inSlot
  | .strand sid =>
    if s.cpu.vlive then .inSlot
    else if s.recordFree d sid s.cpu.part then .park
    else if s.slotsFull d then .full else .inSlot

/-! ### Retirement (R115) -/

/-- Makes a supervisor context the issuing one, so that a strand can be retired. -/
def State.unfocus (s : State) (sid : Nat) : State :=
  if s.cur = .strand sid then s.focus (.sup s.cpu.core) else s

/-- Marks the work a strand started as that of a strand that has ended (R254, R312). -/
def Origin.quit (o : Origin) (sid : Nat) : Origin := if o.sid = sid then { o with orphan := true } else o

/-- Marks the work of a die; a member's strand that has ended is named by a number that no strand has (R380). -/
def Die.orphans (x : Die) (sid : Nat) : Die :=
  { x with
    engines := x.engines.map (fun (n, (e : Engine)) => (n, { e with work := e.work.map (fun m => { m with from_ := m.from_.quit sid }) }))
    requests := x.requests.map (fun m => { m with from_ := m.from_.quit sid })
    armed := x.armed.map (fun a => { a with move := { a.move with from_ := a.move.from_.quit sid } })
    tasks := x.tasks.map (fun t => { t with from_ := t.from_.quit sid })
    runs := x.runs.map (fun r => { r with from_ := r.from_.quit sid })
    joins := x.joins.map (fun j => { j with
      from_ := j.from_.quit sid
      members := j.members.map (fun m => if m.strand = some sid then { m with strand := some (2 ^ 25) } else m) })
    late := x.late.map (fun l => { l with from_ := l.from_.quit sid })
    records := x.records.map (fun r => { r with from_ := r.from_.quit sid })
    closing := x.closing.map (fun j => { j with from_ := j.from_.quit sid }) }

/-- Takes a strand out of every block queue, word-waiter table, pool and barrier waiter list of every die; its arrivals
stay (R226, R240, R289). -/
def Die.forget (x : Die) (c : CtxId) : Die :=
  { x with
    blocks := x.blocks.map (fun b => { b with queue := b.queue.filter (fun w => w.ctx != c) })
    words := x.words.filter (fun w => w.ctx != c)
    bars := x.bars.map (fun b => { b with waiters := b.waiters.filter (fun w => w.1 != c) })
    joins := x.joins.map (fun j => { j with waiters := j.waiters.filter (fun w => w.1 != c) })
    pool := x.pool.filter (fun e => CtxId.strand e.sid != c)
    visitors := x.visitors.filter (fun v => CtxId.strand v.1 != c) }

/-- A core disposes of the trap of a slot, held or queued (R244, R252). -/
def Core.disposeTrap (k : Core) (slot : Nat) : Core :=
  { k with held := k.held.filter (fun h => h.1 != slot)
           events := k.events.filter (fun e => !(e.cause < 0x3F && e.slot == slot)) }

/-- Retires a strand (R27, R115): its accesses performed, its records, slot and quota given back. -/
def State.retire (s : State) (sid : Nat) : State :=
  match s.thread? (.strand sid) with
  | none => s
  | some t =>
    let s := s.drain (fun p => p.ctx == .strand sid)
    let s := s.unfocus sid
    let s := { s with threads := erase sid s.threads }
    let s := s.mapDies (fun _ x => (x.forget (.strand sid)).orphans sid)
    let s := (t.use.toList ++ t.passed ++ t.carried).foldl State.noteIdle s
    let d := sidDie sid
    let s := s.modDie d (fun x => { x with freeRecs := x.freeRecs ++ [sid % 2 ^ 19] })
    let s := s.unjournal d 1 sid
    let s := s.modCore t.core (fun k =>
      if t.place == .slot then k.disposeTrap t.slot else k)
    if t.place = .slot then s.freeSlot t.core t.slot else s

/-- A strand enters a ready pool, or its Utell core's queue, at its level (R101, R104, R105). An entry that takes an empty slot as it
joins counts as a refill on a barrel core (DESIGN CHOICE, log 102). One that returns to a die whose reset doomed it is retired (R123). -/
def State.enterPool (s : State) (d sid : Nat) (bound : Option Nat) : State :=
  match s.thread? (.strand sid) with
  | none => s
  | some t =>
    let s := s.crosses t d
    if t.doomed == some d && t.place != .slot && !(s.die d).down then (s.loseLaunch t.lid d).retire sid else
    let e : PoolEntry := ⟨sid, t.pri, bound, t.part⟩
    let pl : Place := match bound with
      | some c => if isUtell c then .utellQueue c else .pool d
      | none => .pool d
    let s := (s.dropVisitor sid).modThread (.strand sid) (fun t => { t with place := pl, wait := .none, overflowed := false })
    let s := s.modDie d (fun x => { x with pool := x.pool ++ [e] })
    match s.offer d e with
    | none => s
    | some (c, sl) =>
      let n := (s.die d).refills + 1
      let s := s.modDie d (fun x => { x with pool := x.pool.erase e, refills := if isUtell c then x.refills else n })
      s.enterSlot sid c sl

/-! ### Creation -/

/-- The spill base of a partition's die (R107, R425). -/
def Part.spillTop (p : Part) (d x : Nat) : Word :=
  let z := 1024 <<< p.zsz
  let k := (p.dies.takeWhile (· != d)).length
  p.spbase + word (k * 524288 * z + (x + 1) * z)

/-- A new strand's context (R106, R111). -/
def newThread (p : Part) (sid asid : Nat) (pc lid : Word) (sts : Word) (args : List Word) : Thread :=
  { regs := fileOf zero8 zero8 zero8 (args ++ List.replicate (8 - args.length) 0#64)
    pc, sts, sid, lid, zsz := p.zsz, ssp := p.spillTop (sidDie sid) (sid % 2 ^ 19), part := p.num, asid
    place := .pool (sidDie sid) }

/-- Creates a strand on a die and puts it into the pool (R96, R101, R106, R108, R113). -/
def State.create (s : State) (p : Part) (d : Nat) (bound : Option Nat) (asid : Nat) (pc lid sts : Word) (args : List Word) :
    State × Nat :=
  let (s, sid) := s.allocRecord d
  let t := newThread p sid asid pc lid sts args
  let t := { t with core := bound.getD (256 * d), home := bound, born := s.tick }
  let s := { s with threads := insert sid t s.threads }
  (s.enterPool d sid bound, sid)

/-- STS.PRI lowered to the partition's ceiling (R106, R131): a lower level is a greater number. -/
def ceilPri (p : Part) (pri : Nat) : Nat := if pri < p.pric then p.pric else pri

/-! ### Safe points (R119, R257, R258) -/

/-- The issuing strand, flushed, enters the pool of its current die bound to core `c`, or free, as the newest at its level, and
its slot is freed (R101, R120, R258). -/
def State.giveFlushed (s : State) (bound : Option Nat) : State :=
  match s.cur with
  | .sup _ => s
  | .strand sid =>
    let c := s.cpu.core
    let sl := s.cpu.slot
    let s := s.drain (fun p => p.ctx == .strand sid)
    let s := s.dropUse
    let s := s.modCpu Thread.quiet
    (s.enterPool (dieOf c) sid bound).freeSlot c sl

/-- Completes an instruction by `fin`, flushes, and goes on with `go`; a spill that faults leaves the instruction without effect
(R136). -/
def State.flushAfter (s : State) (fin go : State → State) : State :=
  let done := fin s
  if done.cpu.wait != .none then done
  else match done.flush with
    | .ok s => go s
    | .stopped _ =>
      match s.flush with
      | .ok s => s
      | .stopped s => s

/-- Is the issuing strand to be pre-empted at a safe point (R258, R263)? -/
def State.preempts (s : State) : Bool :=
  !s.isSup && (s.core s.cpu.core).sliceEnd && !s.cpu.vlive && !s.gangStopped s.cpu.core

/-- Completes an instruction that is a safe point (R257): the strand of a launch that is being ended is retired (R119), and a
pending slice end takes the slot (R258). -/
def State.safeFinish (s : State) (fin : State → State) : State :=
  match s.cur with
  | .sup _ => fin s
  | .strand sid =>
    if s.cpu.ending then
      let done := fin s
      if done.cpu.wait != .none then done else done.retire sid
    else if s.preempts then s.flushAfter fin (fun s => s.giveFlushed (some s.cpu.core))
    else fin s

end Sys2Proof.Machine
end

