-- ==== Sys2Proof/Machine/Fetch.lean ====
section
/-! DEFINITION. Fetching and entering instruction lines, and the check of a transfer's target (R43 to R48, R203). -/

namespace Sys2Proof.Machine

/-- What a line fetch finds. -/
inductive Fetched where
  /-- The line's instructions, and where its bytes were found; none for a copy that is held. -/
  | ok (src : Option Found) (is : List Slotted)
  /-- The bytes are no legal line (R43). -/
  | illegal
  | trap (cause : Nat) (val : Word)
  | fail (f : WalkFail)
  | conflict
  deriving DecidableEq, Repr

/-- The name of the copy of a line (R44, R45): the copy the context is in, if it is in this line, else the line itself, in the local
store of its current core where it lies in the aperture. So a transfer within the current line neither leaves it nor enters it again
(DESIGN CHOICE, log 103). -/
def Thread.lineKey (t : Thread) (la : Word) : Word × Nat :=
  match t.curLine.filter (fun k => k.1 == la) with
  | some k => k
  | none => (la, if bitOf la 56 then t.core else 0)

/-- The copy of a name that the context holds. -/
def Thread.copy? (t : Thread) (key : Word × Nat) : Option LineCopy := t.lines.find? (fun c => c.key == key)

/-- The copy of a line, from a location, that the context holds. -/
def Thread.copyAt (t : Thread) (la : Word) (l : Loc) : Option LineCopy := (t.copy? (t.lineKey la)).filter (fun c => c.at_ == l)

/-- The 64 bytes of a line as an agent of die `d` reads them. -/
def State.lineBytes (s : State) (d : Nat) (l : Loc) : List Byte := bytesOf (s.readAt d l 64) 64

/-- The bytes of a line that is fetched, as the context sees them: without the stores that no fence of its has shown it (R44). -/
def State.lineSeen (s : State) (la : Word) (l : Loc) : BitVec 512 :=
  let m := BitVec.ofNat 512 (s.readAt s.here l 64)
  match s.cpu.copyAt la l with
  | some c => c.view m
  | none => m

/-- Fetches and decodes the line at a line address whose bits 63:57 are zero (R43, R45, R206, R212). -/
def State.fetchLine (s : State) (la : Word) : Fetched :=
  let read (l : Loc) (c : Option (Comp × List Nat)) : Fetched :=
    if s.anyPoison l 64 then .trap 0x14 la
    else match decodeLine (bytesOf (s.lineSeen la l).toNat 64) with
      | some is => .ok (some (.at_ l la c)) is
      | none => .illegal
  if bitOf la 56 then
    if field la 55 18 ≠ 0 then .trap 0x13 la
    else if s.regionOk (field la 17 0) 64 .exec then read (.loc s.cpu.core (field la 17 0)) none else .trap 0x13 la
  else match s.locateVirt la .exec with
    | .at_ (.direct pa) _ c => read (.direct pa) c
    | .fail _ f => .fail f
    | .conflict _ => .conflict
    | _ => .trap 0x13 la

/-- The decoded copy of a line that the context holds, or a fetch of it (R44). -/
def State.lineOf (s : State) (la : Word) : Fetched :=
  match s.cpu.copy? (s.cpu.lineKey la) with
  | some c => if c.stale then s.fetchLine la else .ok none c.insts
  | none => s.fetchLine la

/-- The context now holds the copy of a line that was fetched, and its die the composite it was reached by (R44, R397). -/
def State.holdLine (s : State) (la : Word) (src : Option Found) (is : List Slotted) : State :=
  match src.bind (fun f => f.loc?.map (fun l => (f, l))) with
  | none => s
  | some (f, l) => (s.cacheFound f).modCpu (fun t =>
      let c : LineCopy := { key := t.lineKey la, at_ := l, insts := is, bytes := s.lineSeen la l
                            stores := (t.copyAt la l).elim [] (·.settle.2) }
      { t with lines := t.lines.filter (·.key != c.key) ++ [c] })

/-- The outcome of entering a line (R43 to R48). -/
inductive Checked where
  | ok (s : State)
  | stopped (s : State)

/-- The outcome of checking a transfer (R48): the target's line as it is fetched, which the context holds once the transfer is made (R44). -/
inductive Aim where
  | ok (src : Option Found) (is : List Slotted)
  | stopped (s : State)

/-- `CheckTarget` (R48), before the transfer has any effect: TPC is the transferring instruction, TVAL the target PC. -/
def State.checkTarget (s : State) (t : Word) : Aim :=
  if field t 63 57 ≠ 0 then .stopped (s.trap 0x05 t)
  else
    match s.lineOf (lineAddr t) with
    | .illegal => .stopped (s.trap 0x02 t)
    | .trap c v => .stopped (s.trap c v)
    | .fail f => .stopped (s.faultWait (lineAddr t) .exec f)
    | .conflict => .stopped (s.conflictTrap (lineAddr t))
    | .ok src is =>
      if field t 5 0 = 0 ∨ is.length < field t 5 0 then .stopped (s.trap 0x05 t)
      else .ok src is

/-- The target of a branch immediate (R53). -/
def branchTarget (pc : Word) (imm : BrImm) : Word :=
  lineAddr pc + (((imm.extractLsb' 5 11).signExtend 64) <<< 6) + (imm.extractLsb' 0 5).setWidth 64

/-- Control passes to a line: where it leaves the one the context is in, a copy that a fence has made stale is to be fetched again (R44). -/
def State.leaveLine (s : State) (la : Word) : State :=
  if s.cpu.staleCur && s.cpu.curLine.map (·.1) != some la then
    s.modCpu (fun t => { t with lines := t.lines.map (fun c => { c with stale := c.stale || some c.key == t.curLine }), staleCur := false })
  else s

/-- The instruction of a line that a PC names (R46). -/
def instAt (is : List Slotted) (pc : Word) : Option Slotted := if field pc 5 0 = 0 then none else is[field pc 5 0 - 1]?

/-- Enters the line of the PC, if the context is not in it already, and puts the instruction at the PC into the issue latch
(R43 to R48). -/
def State.enterLine (s : State) : Checked :=
  let pc := s.cpu.pc
  let la := lineAddr pc
  let load (src : Option Found) (is : List Slotted) (s : State) : Checked :=
    match instAt is pc with
    | none => .stopped (s.trapAt 0x05 pc pc)
    | some sl => .ok ((s.holdLine la src is).modCpu (fun t => { t with head := sl.head, tail := sl.tail, lineN := is.length, curLine := some (t.lineKey la) }))
  let s := s.leaveLine la
  if field pc 63 57 ≠ 0 then .stopped (s.trapAt 0x05 pc pc)
  else match s.lineOf la with
    | .ok src is => load src is s
    | .illegal => .stopped (s.trapAt 0x02 pc la)
    | .trap c v => .stopped (s.trapAt c pc v)
    | .fail f => .stopped (s.faultWait la .exec f)
    | .conflict => .stopped (s.conflictTrap la)

end Sys2Proof.Machine
end

