-- ==== Sys2Proof/Machine/Operands.lean ====
section
/-! DEFINITION. The operand forms of the instructions: immediates, effective addresses, elements of vectors and masks
(R51, R146, R156, R222). -/

namespace Sys2Proof.Machine

/-- A sign-extended T2 immediate (R51). -/
def sx16 (i : BitVec 16) : Word := i.signExtend 64
/-- A sign-extended T4 immediate (R51). -/
def sx48 (i : BitVec 48) : Word := i.signExtend 64

/-- The effective address reg[a] + imm (R222). -/
def State.ea (s : State) (a : Reg) (imm : Word) : Word := s.rd a + imm

/-- The registers R to R + n − 1, by number. -/
def regRange (r : Reg) (n : Nat) : List Nat := (List.range n).map (r.toNat + ·)

/-- A scalar register by its number, g0 for a number that names none. -/
def Thread.rdNum (t : Thread) (n : Nat) : Word := if n < 32 then t.rd (BitVec.ofNat 5 n) else 0#64

/-- The lanes a vec operation writes (R156): all, or those whose mask bit is one. -/
def State.active (s : State) (m : VecM) (i : Nat) : Bool :=
  match m.mask with
  | none => true
  | some k => (s.krd k).getLsbD i

/-- The result of a vec operation (R156): new lanes where active, the old lanes of `d` elsewhere. -/
def State.merge (s : State) (m : VecM) (d : VReg) (new : List Nat) : VecReg :=
  let w := laneBits m.wide
  packLanes w ((List.range (laneCount m.wide)).map (fun i =>
    if s.active m i then new.getD i 0 else lane w (s.vrd d) i))

/-- The lanes of a vector source. -/
def State.srcLanes (s : State) (wide : Bool) (v : VReg) : List Nat := lanes (laneBits wide) (laneCount wide) (s.vrd v)

/-! ### Registers that an instruction reads and writes, numbered as in R59 -/

/-- The mask register of a vec operation. -/
def maskRegs (m : VecM) : List Nat :=
  match m.mask with
  | none => []
  | some k => [kNum k]

/-- A masked operation reads its destination (R156, R223). -/
def maskedOld (m : VecM) (d : VReg) : List Nat := if m.mask.isSome then [vNum d] else []

/-- The register operands an instruction reads at issue (R56, R59). -/
def sourceRegs : Instr → List Nat
  | .ill .. | .br .. | .call .. | .movi .. | .moviT4 .. | .movs .. | .movsWptr .. | .movsSsp .. | .ids .. | .clk ..
    | .fmt .. | .fence .. | .jarrive .. | .copy .. | .copys .. | .deal .. | .enck .. | .deck .. | .redc ..
    | .bcast .. | .trap .. | .svc .. | .reservedOpcode .. | .illT1 | .illT2 | .illT4 | .nop | .nopT1 | .nopT2
    | .nopT4 | .save | .restore | .kpt | .rlx | .vdrop | .waita | .quit | .yield | .waitm | .kmaskOff | .kmaskOn
    | .tret | .lend | .smove | .sreg | .sret | .pspill | .sstep | .flog | .gstop | .gres | .tlbiAll | .wfe
    | .queuePortLaunch | .queuePortOtherKind | .launchStrandCreate | .strandArrival | .wordRequestAnswer
    | .postedWriteDrain | .spillSector | .slotPatienceExpiry | .wordWaiterRetry | .fetchStart | .fetchDone
    | .fetchFault | .writeBackDone | .launchSweep | .messageArrival | .arrivalQueueAdmit | .movementDispatch
    | .movementSegmentEnd | .movementComplete | .movementFault | .leasePeriodEnd | .triggeredEnqueue
    | .taskKblockEnd | .taskFault | .taskComplete | .engineFailure | .ssmUnitEnd | .ssmUnitFault
    | .joinDeferredArrival | .joinFoldDone | .joinFoldFault | .faultPostRetry | .sliceExpiry | .sliceOverrun
    | .ldxTimeout | .rtaArm | .rtaActRead | .rtaArmExpiry | .writeBackScan | .flashWriteComplete | .hostAccess
    | .linkPortFailure | .dieReset | .dieReturn | .hbmStackLoss | .rowRemapFailure | .scrubPass | .clockStretch
    | .vfReplan | .imageVerify | .moduleMemoryInit | .crst | .msrWrite | .ahashWrite | .pewcfgWrite
    | .stackCounterClear | .partitionRecordCommit | .partitionDissolve | .serviceSpaceWrite | .hmapStore
    | .pinqStore | .controlRegionWrite | .movementEngineFailure | .remoteAccessArrival | .remoteBarrierArrival
    | .storagePortAccess | .backgroundClearing | .virtualFunctionReset | .moduleReset | .podFormation
    | .queuePortAssignment => []
  | .brc _ a b _ | .add _ a b | .sub _ a b | .mul _ a b | .mulh _ _ a b | .div _ _ a b | .rem _ _ a b
    | .min _ _ a b | .max _ _ a b | .slt _ _ a b | .and _ a b | .or _ a b | .xor _ a b | .andn _ a b | .shl _ a b
    | .shr _ a b | .sar _ a b | .rot _ a b | .cmp _ _ a b | .fadd _ _ _ a b | .fsub _ _ _ a b | .fmul _ _ _ a b
    | .fdiv _ _ _ a b | .fmin _ _ a b | .fmax _ _ a b | .fcmp _ _ _ a b | .fsgn _ _ _ a b | .vrng _ _ a b
    | .ldx _ _ a b _ | .ldxT4 _ _ a b _ | .st _ a b _ | .stT4 _ a b _ | .stl _ a b _ | .stef a b _ | .stefT4 a b _
    | .stff a b _ | .stffT4 a b _ | .stnp _ _ a b _ | .stnpT4 _ _ a b _ | .aadd _ _ a b _ | .aaddT4 _ _ a b _
    | .amin _ _ a b _ | .aminT4 _ _ a b _ | .amax _ _ a b _ | .amaxT4 _ _ a b _ | .aand _ _ a b _
    | .aandT4 _ _ a b _ | .aor _ _ a b _ | .aorT4 _ _ a b _ | .axor _ _ a b _ | .axorT4 _ _ a b _ | .aswp _ _ a b _
    | .aswpT4 _ _ a b _ | .afadd _ _ a b _ | .afaddT4 _ _ a b _ | .bara _ _ a b | .trigarm _ a b
    | .tqpush _ a b | .tcont _ a b | .accld _ a b _ | .accz a b | .ssmrun _ a b | .jinit _ a b | .jcontrib _ a b
    | .jkill _ a b | .jroster _ a b | .jreplay _ a b | .jbind _ a b | .trigset _ a b | .tlbiG a b | .fqpop _ a b
    | .fqrepReplay _ a b | .fqrepGiveup _ a b | .slice _ a b => [a.toNat, b.toNat]
  | .jmp a | .callr a | .addi _ a _ | .addiT4 _ a _ | .slti _ _ a _ | .sltiT4 _ _ a _ | .logi _ _ a _
    | .logiT4 _ _ a _ | .shlImm _ a _ | .shrImm _ a _ | .sarImm _ a _ | .rotImm _ a _ | .clz _ a | .popc _ a
    | .bfx _ _ a _ _ | .mov _ a | .lea _ a _ | .leaT4 _ a _ | .movt _ a | .movtSts a | .movtWptr a | .movtSsp a
    | .cmpImm _ _ a _ | .ext _ _ a | .fsqrt _ _ _ a | .fcvt _ _ a | .fcls _ _ a | .vbcast _ _ a | .kmovFx _ a
    | .ld _ _ a _ | .ldT4 _ _ a _ | .ldl _ _ a _ | .ldfe _ a _ | .ldfeT4 _ a _ | .ldff _ a _ | .ldffT4 _ a _
    | .ldfs _ a _ _ | .ldfsT4 _ a _ _ | .ldm _ _ a _ | .ldmT4 _ _ a _ | .ldnp _ _ a _ _ | .ldnpT4 _ _ a _ _
    | .fesetE a _ | .fesetET4 a _ | .fesetF a _ | .fesetFT4 a _ | .bhintPf _ a _ | .bhintPfT4 _ a _
    | .bhintPin _ a _ | .bhintPinT4 _ a _ | .bhintUnpin _ a _ | .bhintUnpinT4 _ a _ | .bhintEv _ a _
    | .bhintEvT4 _ a _ | .launch _ a | .migrate _ a | .migrateNear _ a
    | .sendEndOverflow _ _ a _ | .recv _ a | .recvArrival _ a | .bar _ _ a | .tqstat _ a | .tkill _ a | .accal _ a
    | .accfr _ a | .ssmstat _ a | .tseq _ a | .jwait _ a | .jqrySt _ a | .jqryWt _ a | .jclose _ a | .jrel _ a
    | .lease _ a | .unlease _ a | .mbxst _ _ a _ | .trigrd _ a | .tlbiH a | .pgmap _ a | .prtnQry _ a
    | .prtnSplit _ a | .prtnMerge _ a => [a.toNat]
  | .spawn _ _ a b => [a.toNat, b.toNat] ++ regRange 8#5 4
  | .spawnLabel _ _ a _ => a.toNat :: regRange 8#5 4
  | .loop d _ | .movhi _ d _ => [d.toNat]
  | .madd d a b | .sel d a b | .rng d a b | .ffma _ _ d a b | .stx _ d a b _ | .stxT4 _ d a b _ | .acas _ d a b _
    | .acasT4 _ d a b _ => [d.toNat, a.toNat, b.toNat]
  | .vadd m d a b | .vsub m d a b | .vmul m d a b | .vand m d a b | .vor m d a b | .vxor m d a b | .vfadd m d a b
    | .vfsub m d a b | .vfmul m d a b | .vfmin m d a b | .vfmax m d a b | .vscale m d a b | .vclamp m d a b => [vNum a, vNum b] ++ maskRegs m ++ maskedOld m d
  | .vshift _ _ _ a b | .vminmax _ _ _ _ a b | .vperm _ _ a b | .vfcmp _ _ _ a b | .vpack _ _ a b => [vNum a, vNum b]
  | .vsel _ k _ a b => [kNum k, vNum a, vNum b]
  | .vextr _ _ a b | .vdq8 _ _ a b | .vunpk _ _ a b => [vNum a, b.toNat]
  | .vextrImm _ _ a _ | .vfred _ _ _ a | .vcvt _ _ a => [vNum a]
  | .vffma m d a b => [vNum d, vNum a, vNum b] ++ maskRegs m ++ maskedOld m d
  | .vfrcp m d a | .vfrsq m d a | .vfexp m d a => [vNum a] ++ maskRegs m ++ maskedOld m d
  | .vq8 _ d a b => [vNum d, vNum a, vNum b]
  | .kand _ _ a b => [kNum a, kNum b]
  | .kmov _ a | .kmovTx _ a => [kNum a]
  | .ldv m d a _ | .ldvT4 m d a _ | .ldlv m d a _ => [a.toNat] ++ maskRegs m ++ maskedOld m d
  | .ldvs m d a b _ | .ldvsT4 m d a b _ => [a.toNat, b.toNat] ++ maskRegs m ++ maskedOld m d
  | .ldvg m d a b _ | .ldvgT4 m d a b _ => [a.toNat, vNum b] ++ maskRegs m ++ maskedOld m d
  | .stv m a b _ | .stvT4 m a b _ | .stlv m a b _ => [a.toNat, vNum b] ++ maskRegs m
  | .stvs m d a b _ | .stvsT4 m d a b _ => [d.toNat, a.toNat, vNum b] ++ maskRegs m
  | .stvg m d a b _ | .stvgT4 m d a b _ => [vNum d, a.toNat, vNum b] ++ maskRegs m
  | .stm n a b _ | .stmT4 n a b _ => [a.toNat] ++ regRange b (n.toNat + 1)
  | .send _ _ a _ => [a.toNat]
  | .sendx _ _ a b => [a.toNat] ++ regRange b 3
  | .sendLoopback _ _ a b => [a.toNat] ++ regRange b 4
  | .accst d a b _ => [d.toNat, a.toNat, vNum b]
  | .tlbiAsid b => [b.toNat]
  | .ret => [31]

/-- The registers an instruction writes or renames (R58). -/
def destRegs : Instr → List Nat
  | .ill .. | .br .. | .brc .. | .jmp .. | .movt .. | .movtSts .. | .movtWptr .. | .movtSsp .. | .fmt .. | .st ..
    | .stT4 .. | .stv .. | .stvT4 .. | .stvs .. | .stvsT4 .. | .stvg .. | .stvgT4 .. | .stl .. | .stlv ..
    | .stef .. | .stefT4 .. | .stff .. | .stffT4 .. | .fesetE .. | .fesetET4 .. | .fesetF .. | .fesetFT4 ..
    | .stm .. | .stmT4 .. | .stx .. | .stxT4 .. | .fence .. | .accst .. | .accz .. | .trap .. | .svc .. | .tlbiG ..
    | .tlbiH .. | .tlbiAsid .. | .reservedOpcode .. | .illT1 | .illT2 | .illT4 | .nop | .nopT1 | .nopT2 | .nopT4
    | .kpt | .rlx | .waita | .quit | .yield | .waitm | .kmaskOff | .kmaskOn | .tret | .lend | .smove | .sreg
    | .sret | .pspill | .sstep | .flog | .gstop | .gres | .tlbiAll | .wfe | .queuePortLaunch | .queuePortOtherKind
    | .launchStrandCreate | .strandArrival | .wordRequestAnswer | .postedWriteDrain | .spillSector
    | .slotPatienceExpiry | .wordWaiterRetry | .fetchStart | .fetchDone | .fetchFault | .writeBackDone
    | .launchSweep | .messageArrival | .arrivalQueueAdmit | .movementDispatch | .movementSegmentEnd
    | .movementComplete | .movementFault | .leasePeriodEnd | .triggeredEnqueue | .taskKblockEnd | .taskFault
    | .taskComplete | .engineFailure | .ssmUnitEnd | .ssmUnitFault | .joinDeferredArrival | .joinFoldDone
    | .joinFoldFault | .faultPostRetry | .sliceExpiry | .sliceOverrun | .ldxTimeout | .rtaArm | .rtaActRead
    | .rtaArmExpiry | .writeBackScan | .flashWriteComplete | .hostAccess | .linkPortFailure | .dieReset
    | .dieReturn | .hbmStackLoss | .rowRemapFailure | .scrubPass | .clockStretch | .vfReplan | .imageVerify
    | .moduleMemoryInit | .crst | .msrWrite | .ahashWrite | .pewcfgWrite | .stackCounterClear
    | .partitionRecordCommit | .partitionDissolve | .serviceSpaceWrite | .hmapStore | .pinqStore
    | .controlRegionWrite | .movementEngineFailure | .remoteAccessArrival | .remoteBarrierArrival
    | .storagePortAccess | .backgroundClearing | .virtualFunctionReset | .moduleReset | .podFormation
    | .queuePortAssignment => []
  | .call _ | .callr _ => [15]
  | .loop d _ | .add d _ _ | .sub d _ _ | .addi d _ _ | .addiT4 d _ _ | .mul d _ _ | .mulh _ d _ _ | .div _ d _ _
    | .rem _ d _ _ | .min _ d _ _ | .max _ d _ _ | .slt _ d _ _ | .slti _ d _ _ | .sltiT4 _ d _ _ | .madd d _ _
    | .and d _ _ | .or d _ _ | .xor d _ _ | .andn d _ _ | .logi _ d _ _ | .logiT4 _ d _ _ | .shl d _ _
    | .shlImm d _ _ | .shr d _ _ | .shrImm d _ _ | .sar d _ _ | .sarImm d _ _ | .rot d _ _ | .rotImm d _ _
    | .clz d _ | .popc d _ | .bfx _ d _ _ _ | .mov d _ | .movi d _ | .moviT4 d _ | .movhi _ d _ | .sel d _ _
    | .lea d _ _ | .leaT4 d _ _ | .movs d _ | .movsWptr d | .movsSsp d | .ids _ d | .clk d | .rng d _ _
    | .cmp _ d _ _ | .cmpImm _ d _ _ | .ext _ d _ | .fadd _ _ d _ _ | .fsub _ _ d _ _ | .fmul _ _ d _ _
    | .ffma _ _ d _ _ | .fdiv _ _ d _ _ | .fsqrt _ _ d _ | .fmin _ d _ _ | .fmax _ d _ _ | .fcmp _ _ d _ _
    | .fcvt _ d _ | .fsgn _ _ d _ _ | .fcls _ d _ | .vextr _ d _ _ | .vextrImm _ d _ _ | .vfred _ _ d _
    | .kmovTx d _ | .ld _ d _ _ | .ldT4 _ d _ _ | .ldl _ d _ _ | .ldfe d _ _ | .ldfeT4 d _ _ | .ldff d _ _
    | .ldffT4 d _ _ | .ldx _ d _ _ _ | .ldxT4 _ d _ _ _ | .stnp _ d _ _ _ | .stnpT4 _ d _ _ _ | .aadd _ d _ _ _
    | .aaddT4 _ d _ _ _ | .amin _ d _ _ _ | .aminT4 _ d _ _ _ | .amax _ d _ _ _ | .amaxT4 _ d _ _ _
    | .aand _ d _ _ _ | .aandT4 _ d _ _ _ | .aor _ d _ _ _ | .aorT4 _ d _ _ _ | .axor _ d _ _ _ | .axorT4 _ d _ _ _
    | .aswp _ d _ _ _ | .aswpT4 _ d _ _ _ | .acas _ d _ _ _ | .acasT4 _ d _ _ _ | .afadd _ d _ _ _
    | .afaddT4 _ d _ _ _ | .bhintPf d _ _ | .bhintPfT4 d _ _ | .bhintPin d _ _ | .bhintPinT4 d _ _
    | .bhintUnpin d _ _ | .bhintUnpinT4 d _ _ | .bhintEv d _ _ | .bhintEvT4 d _ _ | .spawn _ d _ _
    | .spawnLabel _ d _ _ | .launch d _ | .migrate d _ | .migrateNear d _ | .send _ d _ _ | .sendLoopback _ d _ _
    | .sendEndOverflow _ d _ _ | .bar _ d _ | .bara _ d _ _ | .trigarm d _ _ | .sendx _ d _ _ | .tqpush d _ _
    | .tqstat d _ | .tkill d _ | .tcont d _ _ | .accal d _ | .accfr d _ | .ssmrun d _ _ | .ssmstat d _ | .tseq d _
    | .jinit d _ _ | .jarrive d | .jcontrib d _ _ | .jwait d _ | .jqrySt d _ | .jqryWt d _ | .jkill d _ _
    | .jroster d _ _ | .jreplay d _ _ | .jclose d _ | .jbind d _ _ | .jrel d _ | .copy _ d | .copys _ d | .deal _ d
    | .enck _ d | .deck _ d | .redc _ d | .bcast _ d | .lease d _ | .unlease d _ | .mbxst _ d _ _ | .trigset d _ _
    | .trigrd d _ | .fqrepReplay d _ _ | .fqrepGiveup d _ _ | .pgmap d _ | .slice d _ _ | .prtnQry d _
    | .prtnSplit d _ | .prtnMerge d _ => [d.toNat]
  | .vadd _ d _ _ | .vsub _ d _ _ | .vmul _ d _ _ | .vand _ d _ _ | .vor _ d _ _ | .vxor _ d _ _
    | .vshift _ _ d _ _ | .vminmax _ _ _ d _ _ | .vsel _ _ d _ _ | .vbcast _ d _ | .vperm _ d _ _ | .vfadd _ d _ _
    | .vfsub _ d _ _ | .vfmul _ d _ _ | .vffma _ d _ _ | .vfmin _ d _ _ | .vfmax _ d _ _ | .vfrcp _ d _
    | .vfrsq _ d _ | .vfexp _ d _ | .vrng _ d _ _ | .vcvt _ d _ | .vq8 _ d _ _ | .vdq8 _ d _ _ | .vscale _ d _ _
    | .vpack _ d _ _ | .vunpk _ d _ _ | .vclamp _ d _ _ | .ldv _ d _ _ | .ldvT4 _ d _ _ | .ldvs _ d _ _ _
    | .ldvsT4 _ d _ _ _ | .ldvg _ d _ _ _ | .ldvgT4 _ d _ _ _ | .ldlv _ d _ _ | .accld d _ _ _ => [vNum d]
  | .vfcmp _ _ d _ _ | .kand _ d _ _ | .kmov d _ | .kmovFx d _ => [kNum d]
  | .ldfs d _ b _ | .ldfsT4 d _ b _ | .ldnp _ d _ b _ | .ldnpT4 _ d _ b _ => [d.toNat, b.toNat]
  | .ldm n d _ _ | .ldmT4 n d _ _ => regRange d (n.toNat + 1)
  | .recv d _ | .recvArrival d _ | .fqpop d _ _ => regRange d 4
  | .ret | .save | .restore => regRange 8#5 24
  | .vdrop => (List.range 12).map (· + 32)

/-- The arguments that a service reads in a supervisor context (R252). -/
def serviceRegs : Instr → List Nat
  | .lend | .sret | .sstep => [8]
  | .smove | .pspill => [8, 9]
  | .sreg | .flog => [8, 9, 10, 11]
  | _ => []

/-- Every register an instruction reads at issue: its operands, a service's arguments, and the registers that the destination
word of a `SEND` makes it read: three, with LOOP four, with LOOP and END none (R295, R299). -/
def Thread.sources (t : Thread) (isSup : Bool) (i : Instr) : List Nat :=
  sourceRegs i ++ (if isSup then serviceRegs i else []) ++
    (match i with
     | .send _ _ a b => if !bitOf (t.rd a) 31 then regRange b 3 else if bitOf (t.rd a) 30 then [] else regRange b 4
     | _ => [])

/-- Every register an instruction writes: a service answers in o0 (R252). -/
def Thread.targets (isSup : Bool) (i : Instr) : List Nat :=
  destRegs i ++ (if isSup && !(serviceRegs i).isEmpty then [8] else [])

end Sys2Proof.Machine
end

