-- ==== Sys2Proof/Machine/Flags.lean ====
section
/-! DEFINITION. Conditions (R83, R85), rounding directions (R84, R130) and sticky flags (R165). -/

namespace Sys2Proof.Machine

/-- `Cond` (R83). -/
def cond (c : Cond) (a b : Word) : Bool :=
  match c with
  | .eq => a == b
  | .ne => a != b
  | .lt => a.slt b
  | .ge => !a.slt b
  | .le => a.sle b
  | .gt => !a.sle b
  | .lo => a.ult b
  | .hs => !a.ult b
  | .ls => a.ule b
  | .hi => !a.ule b

/-- The rounding direction in force (R163). -/
def State.rmode (s : State) : Rnd → RMode
  | .dyn => rmOfCode s.cpu.rm
  | .rne => .rne
  | .rtz => .rtz
  | .rup => .rup
  | .rdn => .rdn

/-- STS.RM as a direction. -/
def State.rm (s : State) : RMode := rmOfCode s.cpu.rm

/-- The format of a PREC field. -/
def precFmt : Prec → FFmt
  | .s => f32
  | .d => f64

/-- A scalar operand of a floating-point operation: an FP32 operation ignores bits 63:32 (R162). -/
def State.fpRd (s : State) (p : Prec) (r : Reg) : Nat := (s.rd r).toNat % 2 ^ (precFmt p).bits

/-- Flags are set at issue (R165); the result has latency 4 (R157). -/
def State.fpResult (s : State) (d : Reg) (r : Nat × FFlags) : State := (s.modCpu (fun t => t.raise r.2)).setRLat 4 d r.1

end Sys2Proof.Machine
end

