-- ==== Sys2Proof/Machine/Float.lean ====
section
/-! DEFINITION. Row 4: scalar floating point (R168 to R170). -/

namespace Sys2Proof.Machine

/-- A two-operand operation in a precision and a rounding direction. -/
def fpBinary (op : FFmt → RMode → Nat → Nat → Nat × FFlags) (r : Rnd) (p : Prec) (d a b : Reg) (s : State) : State :=
  s.fpResult d (op (precFmt p) (s.rmode r) (s.fpRd p a) (s.fpRd p b))

/-- The built-in hold of `FDIV`, `FSQRT`, `VFRCP` and `VFRSQ` (R157). -/
def divHold (wide : Bool) : Nat := if wide then 15 else 7

/-- `FADD` (R168). -/
def execFadd (r : Rnd) (p : Prec) (d a b : Reg) (s : State) : Res :=
  plain s fun s => (fpBinary FFmt.add r p d a b s).done
/-- `FSUB` (R168). -/
def execFsub (r : Rnd) (p : Prec) (d a b : Reg) (s : State) : Res :=
  plain s fun s => (fpBinary FFmt.sub r p d a b s).done
/-- `FMUL` (R168). -/
def execFmul (r : Rnd) (p : Prec) (d a b : Reg) (s : State) : Res :=
  plain s fun s => (fpBinary FFmt.mul r p d a b s).done
/-- `FFMA` (R163, R168). -/
def execFfma (r : Rnd) (p : Prec) (d a b : Reg) (s : State) : Res :=
  plain s fun s => (s.fpResult d ((precFmt p).fma (s.rmode r) (s.fpRd p a) (s.fpRd p b) (s.fpRd p d))).done
/-- `FDIV` (R157, R168). -/
def execFdiv (r : Rnd) (p : Prec) (d a b : Reg) (s : State) : Res :=
  plain s fun s => (fpBinary FFmt.div r p d a b s).doneHold (divHold (p == .d))
/-- `FSQRT` (R157, R168). -/
def execFsqrt (r : Rnd) (p : Prec) (d a : Reg) (s : State) : Res :=
  plain s fun s => (s.fpResult d ((precFmt p).sqrt (s.rmode r) (s.fpRd p a))).doneHold (divHold (p == .d))
/-- `FMIN` (R166, R168). -/
def execFmin (p : Prec) (d a b : Reg) (s : State) : Res :=
  plain s fun s => (s.fpResult d ((precFmt p).minmax false (s.fpRd p a) (s.fpRd p b))).done
/-- `FMAX` (R166, R168). -/
def execFmax (p : Prec) (d a b : Reg) (s : State) : Res :=
  plain s fun s => (s.fpResult d ((precFmt p).minmax true (s.fpRd p a) (s.fpRd p b))).done

/-- A comparison's number and flags (R167). -/
def cmpResult (f : FFmt) (c : FCond) (a b : Nat) : Nat × FFlags :=
  let (v, fl) := f.cmp c.toCode.toNat a b
  (boolNat v, fl)

/-- `FCMP` (R167, R168). -/
def execFcmp (c : FCond) (p : Prec) (d a b : Reg) (s : State) : Res :=
  plain s fun s => (s.fpResult d (cmpResult (precFmt p) c (s.fpRd p a) (s.fpRd p b))).done

/-- A conversion to an integer, sign-extended to 64 bits (R169). -/
def toIntWord (w : Nat) (rm : RMode) (x : FNum) : Nat × FFlags :=
  let (i, fl) := toIntSat w rm x
  (ofSigned 64 i, fl)

/-- The conversions of `FCVT` (R91, R169), destination first. -/
def fcvt (k : FcvtCode) (rm : RMode) (a : Word) : Nat × FFlags :=
  let lo := a.toNat % 2 ^ 32
  match k with
  | .ds => convert f32 f64 rm lo
  | .sd => convert f64 f32 rm a.toNat
  | .ld => toIntWord 64 rm (f64.num a.toNat)
  | .ls => toIntWord 64 rm (f32.num lo)
  | .dl => f64.round rm (numOfInt a.toInt) false
  | .sl => f32.round rm (numOfInt a.toInt) false
  | .wd => toIntWord 32 rm (f64.num a.toNat)
  | .ws => toIntWord 32 rm (f32.num lo)
  | .dw => f64.round rm (numOfInt (toSigned 32 lo)) false
  | .sw => f32.round rm (numOfInt (toSigned 32 lo)) false

/-- `FCVT` (R169), rounding in STS.RM. -/
def execFcvt (k : FcvtCode) (d a : Reg) (s : State) : Res :=
  plain s fun s => (s.fpResult d (fcvt k s.rm (s.rd a))).done

/-- `FSGN` (R170): bits only, no flag. -/
def execFsgn (op : SgnOp) (p : Prec) (d a b : Reg) (s : State) : Res :=
  plain s fun s => (s.fpResult d ((precFmt p).sgn op.toCode.toNat (s.fpRd p a) (s.fpRd p b), 0#5)).done
/-- `FCLS` (R170): one bit set. -/
def execFcls (p : Prec) (d a : Reg) (s : State) : Res :=
  plain s fun s => (s.fpResult d (2 ^ (precFmt p).classBit (s.fpRd p a), 0#5)).done

end Sys2Proof.Machine
end

