-- ==== Sys2Proof/Machine/Vector.lean ====
section
/-! DEFINITION. Rows 5 and 6, and the mask and liveness instructions of row 7 (R154 to R161, R171 to R175). -/

namespace Sys2Proof.Machine

/-! ### Row 5: vector integer (R171) -/

/-- A lane-wise operation of two vector sources (R156, R171). -/
def vecBinary (op : Nat → Nat → Nat → Nat) (m : VecM) (d a b : VReg) (s : State) : State :=
  let w := laneBits m.wide
  (s.setV 2 d (s.merge m d (List.zipWith (op w) (s.srcLanes m.wide a) (s.srcLanes m.wide b)))).done

/-- `VADD` (R171). -/
def execVadd (m : VecM) (d a b : VReg) (s : State) : Res := onBarrel s (vecBinary (fun _ x y => x + y) m d a b)
/-- `VSUB` (R171). -/
def execVsub (m : VecM) (d a b : VReg) (s : State) : Res := onBarrel s (vecBinary (fun w x y => x + 2 ^ w - y) m d a b)
/-- `VMUL` (R171). -/
def execVmul (m : VecM) (d a b : VReg) (s : State) : Res := onBarrel s (vecBinary (fun _ x y => x * y) m d a b)
/-- `VAND` (R171). -/
def execVand (m : VecM) (d a b : VReg) (s : State) : Res := onBarrel s (vecBinary (fun _ x y => x &&& y) m d a b)
/-- `VOR` (R171). -/
def execVor (m : VecM) (d a b : VReg) (s : State) : Res := onBarrel s (vecBinary (fun _ x y => x ||| y) m d a b)
/-- `VXOR` (R171). -/
def execVxor (m : VecM) (d a b : VReg) (s : State) : Res := onBarrel s (vecBinary (fun _ x y => x ^^^ y) m d a b)

/-- A lane shifted by n = b mod w (R171). -/
def laneShift (op : VShiftOp) (w x b : Nat) : Nat :=
  let n := b % w
  match op with
  | .shl => x <<< n
  | .shr => x >>> n
  | .sar => ofSigned w (toSigned w x / (2 ^ n : Nat))
  | .rot => x <<< n ||| x >>> (w - n)

/-- `VSHIFT` (R171). -/
def execVshift (op : VShiftOp) (wide : Bool) (d a b : VReg) (s : State) : Res :=
  onBarrel s (vecBinary (laneShift op) ⟨wide, none⟩ d a b)

/-- The lesser or greater of two lanes (R171). -/
def laneMinmax (isMax us : Bool) (w x y : Nat) : Nat :=
  let lt := if us then decide (x < y) else decide (toSigned w x < toSigned w y)
  if lt != isMax then x else y

/-- `VMINMAX` (R171). -/
def execVminmax (isMax us wide : Bool) (d a b : VReg) (s : State) : Res :=
  onBarrel s (vecBinary (laneMinmax isMax us) ⟨wide, none⟩ d a b)

/-- `VSEL` (R156, R171): the mask selects between the sources and every lane is written. -/
def execVsel (wide : Bool) (k : KReg) (d a b : VReg) (s : State) : Res :=
  onBarrel s fun s =>
    let w := laneBits wide
    let new := (List.range (laneCount wide)).map (fun i =>
      if (s.krd k).getLsbD i then lane w (s.vrd a) i else lane w (s.vrd b) i)
    (s.setV 2 d (packLanes w new)).done

/-- `VBCAST` (R171). -/
def execVbcast (wide : Bool) (d : VReg) (a : Reg) (s : State) : Res :=
  onBarrel s fun s =>
    (s.setV 2 d (packLanes (laneBits wide) (List.replicate (laneCount wide) (s.rd a).toNat))).done

/-- `VPERM` (R171). -/
def execVperm (wide : Bool) (d a b : VReg) (s : State) : Res :=
  onBarrel s fun s =>
    let w := laneBits wide
    let new := (s.srcLanes wide b).map (fun j => lane w (s.vrd a) (j % laneCount wide))
    (s.setV 2 d (packLanes w new)).done

/-- `VEXTR` by a register (R171); VLIVE stays (R155). -/
def execVextr (wide : Bool) (d : Reg) (a : VReg) (b : Reg) (s : State) : Res :=
  onBarrel s fun s =>
    (s.setRLat 2 d (lane (laneBits wide) (s.vrd a) ((s.rd b).toNat % laneCount wide))).done

/-- `VEXTR` by an immediate (R171): an index outside the lanes is an illegal operand. -/
def execVextrImm (wide : Bool) (d : Reg) (a : VReg) (j : BitVec 4) (s : State) : Res :=
  onBarrel s fun s =>
    if j.toNat < laneCount wide then (s.setRLat 2 d (lane (laneBits wide) (s.vrd a) j.toNat)).done else s.illegal

/-! ### Row 6: vector floating point (R172 to R175) -/

/-- The format of a lane. -/
def laneFmt (wide : Bool) : FFmt := if wide then f64 else f32

/-- A lane-wise floating-point result: active lanes are formed and raise flags, the others are kept (R156, R165). -/
def vecFloat (m : VecM) (d : VReg) (rs : List (Nat × FFlags)) (h : Nat) (s : State) : State :=
  let fl := (rs.zipIdx.filter (fun x => s.active m x.2)).foldl (fun acc x => acc ||| x.1.2) 0#5
  ((s.modCpu (fun t => t.raise fl)).setV 4 d (s.merge m d (rs.map (·.1)))).doneHold h

/-- A two-source lane-wise operation. -/
def vecFloat2 (op : FFmt → Nat → Nat → Nat × FFlags) (m : VecM) (d a b : VReg) (s : State) : State :=
  vecFloat m d (List.zipWith (op (laneFmt m.wide)) (s.srcLanes m.wide a) (s.srcLanes m.wide b)) 0 s

/-- A one-source lane-wise operation with a built-in hold. -/
def vecFloat1 (op : FFmt → Nat → Nat × FFlags) (m : VecM) (d a : VReg) (h : Nat) (s : State) : State :=
  vecFloat m d ((s.srcLanes m.wide a).map (op (laneFmt m.wide))) h s

/-- `VFADD` (R172). -/
def execVfadd (m : VecM) (d a b : VReg) (s : State) : Res := onBarrel s fun s => vecFloat2 (fun f => f.add s.rm) m d a b s
/-- `VFSUB` (R172). -/
def execVfsub (m : VecM) (d a b : VReg) (s : State) : Res := onBarrel s fun s => vecFloat2 (fun f => f.sub s.rm) m d a b s
/-- `VFMUL` (R172). -/
def execVfmul (m : VecM) (d a b : VReg) (s : State) : Res := onBarrel s fun s => vecFloat2 (fun f => f.mul s.rm) m d a b s

/-- `VFFMA` (R172): d is read as a source. -/
def execVffma (m : VecM) (d a b : VReg) (s : State) : Res :=
  onBarrel s fun s =>
    let f := laneFmt m.wide
    let rs := List.zipWith (fun x yz => f.fma s.rm x yz.1 yz.2) (s.srcLanes m.wide a)
      (List.zip (s.srcLanes m.wide b) (s.srcLanes m.wide d))
    vecFloat m d rs 0 s

/-- `VFMIN` (R172). -/
def execVfmin (m : VecM) (d a b : VReg) (s : State) : Res :=
  onBarrel s fun s => vecFloat2 (fun f => f.minmax false) m d a b s
/-- `VFMAX` (R172). -/
def execVfmax (m : VecM) (d a b : VReg) (s : State) : Res :=
  onBarrel s fun s => vecFloat2 (fun f => f.minmax true) m d a b s
/-- `VFRCP` (R173). -/
def execVfrcp (m : VecM) (d a : VReg) (s : State) : Res :=
  onBarrel s fun s => vecFloat1 (fun f => f.recip s.rm) m d a (divHold m.wide) s
/-- `VFRSQ` (R173). -/
def execVfrsq (m : VecM) (d a : VReg) (s : State) : Res :=
  onBarrel s fun s => vecFloat1 (fun f => f.rsqrt s.rm) m d a (divHold m.wide) s
/-- `VFEXP` (R173). -/
def execVfexp (m : VecM) (d a : VReg) (s : State) : Res :=
  onBarrel s fun s => vecFloat1 (fun f => f.exp2 s.rm) m d a (if m.wide then 19 else 11) s

/-- `VFCMP` (R167, R172): mask bits above the lanes are cleared. -/
def execVfcmp (c : FCond) (wide : Bool) (d : KReg) (a b : VReg) (s : State) : Res :=
  onBarrel s fun s =>
    let rs := List.zipWith (cmpResult (laneFmt wide) c) (s.srcLanes wide a) (s.srcLanes wide b)
    let fl := rs.foldl (fun acc x => acc ||| x.2) 0#5
    ((s.modCpu (fun t => t.raise fl)).setK 4 d (packNat 1 (rs.map (·.1)))).done

/-- One level of the tree of `VFRED` (R174). -/
def redLevel (op : Nat → Nat → Nat × FFlags) : List Nat → List Nat × FFlags
  | x :: y :: rest =>
    let (v, fl) := op x y
    let (vs, fl') := redLevel op rest
    (v :: vs, fl ||| fl')
  | l => (l, 0#5)

/-- The tree of `VFRED` (R174), `n` levels. -/
def redTree (op : Nat → Nat → Nat × FFlags) : Nat → List Nat → Nat × FFlags
  | 0, l => (l.headD 0, 0#5)
  | n + 1, l =>
    let (vs, fl) := redLevel op l
    let (v, fl') := redTree op n vs
    (v, fl ||| fl')

/-- `Node` (R174). -/
def redNode (op : RedOp) (f : FFmt) (rm : RMode) : Nat → Nat → Nat × FFlags :=
  match op with
  | .sum => f.add rm
  | .min => f.minmax false
  | .max => f.minmax true

/-- `VFRED` (R157, R174). -/
def execVfred (op : RedOp) (wide : Bool) (d : Reg) (a : VReg) (s : State) : Res :=
  onBarrel s fun s =>
    let r := redTree (redNode op (laneFmt wide) s.rm) (if wide then 3 else 4) (s.srcLanes wide a)
    (s.fpResult d r).doneHold 8

/-- The FP32 bits of (u >> 8) × 2^-24 (R175), exact. -/
def unif (u : Nat) : Nat := (f32.round .rne (.fin false (u >>> 8) (-24)) false).1

/-- `VRNG` (R175). -/
def execVrng (un : Bool) (d : VReg) (a b : Reg) (s : State) : Res :=
  onBarrel s fun s =>
    let ws := (List.range 4).flatMap (fun q =>
      let out := philox (s.rd a) (s.rd b) (word q)
      (List.range 4).map (fun j => (out >>> (32 * j)) % 2 ^ 32))
    (s.setV 4 d (packLanes 32 (if un then ws.map unif else ws))).doneHold 7

/-! ### Liveness and masks (R159 to R161) -/

/-- `VDROP` (R159): results not yet in place never arrive, the registers are zeroed and VLIVE cleared. The wait for
pending bits is a short wait of the step. -/
def execVdrop (s : State) : Res :=
  onBarrel s fun s =>
    (s.modCpu (fun t => { t with
      fly := t.fly.filter (fun f => f.reg < 32)
      vregs := Vector.replicate 8 0#512
      kregs := Vector.replicate 4 0#16
      sts := t.sts &&& ~~~2#64 })).done

/-- `KAND` (R160). -/
def execKand (op : LogOp) (d a b : KReg) (s : State) : Res :=
  onBarrel s fun s =>
    let x := s.krd a
    let y := s.krd b
    let v : Mask := match op with
      | .and => x &&& y
      | .or => x ||| y
      | .xor => x ^^^ y
      | .andn => x &&& ~~~y
    (s.setK 2 d v.toNat).done

/-- `KMOV` (R161). -/
def execKmov (d a : KReg) (s : State) : Res := onBarrel s fun s => (s.setK 2 d (s.krd a).toNat).done
/-- `KMOV.fx` (R161). -/
def execKmovFx (d : KReg) (a : Reg) (s : State) : Res := onBarrel s fun s => (s.setK 2 d ((s.rd a).toNat % 2 ^ 16)).done
/-- `KMOV.tx` (R161). -/
def execKmovTx (d : Reg) (a : KReg) (s : State) : Res := onBarrel s fun s => (s.setRLat 2 d (s.krd a).toNat).done

end Sys2Proof.Machine
end

