-- ==== Sys2Proof/Machine/FormatOps.lean ====
section
/-! DEFINITION. Row 7: the prefixes and the format instructions (R195, R198 to R202, R220). -/

namespace Sys2Proof.Machine

/-- `FMT` (R195): replaces any format already pending; an `RLX` stays pending (R196). -/
def execFmt (f : Fmt) (s : State) : Res :=
  if isUtell s.cpu.core then .next (s.trapHead 0x18)
  else .next (s.donePrefix (setField (s.cpu.sts ||| 4#64) 7 4 f.toCode.toNat))

/-- `RLX` (R220). -/
def execRlx (s : State) : Res :=
  if isUtell s.cpu.core then .next (s.trapHead 0x18) else .next (s.donePrefix (s.cpu.sts ||| 0x100#64))

/-- The source format of a `VCVT`: PFXC where a format is pending, else FP32 (R198). -/
def Thread.srcFmt (t : Thread) : Option Fmt := if t.pfxf then Fmt.ofCode (BitVec.ofNat 4 t.pfxc) else some .f32

/-- The conversions of `VCVT` by destination and source (R198): the result lanes with their width, or none for a pair that
is not allowed. -/
def vcvt (dst src : Fmt) (rm : RMode) (v : VecReg) : Option (Nat × List (Nat × FFlags)) :=
  let l32 := lanes 32 16 v
  let l64 := lanes 64 8 v
  match dst, src with
  | .f32, .f64 => some (32, l64.map (convert f64 f32 rm))
  | .f32, .bf16 => some (32, l32.map (widen .bf16))
  | .f32, .i32 => some (32, l32.map (fun x => f32.round rm (numOfInt (toSigned 32 x)) false))
  | .f64, .f32 => some (64, (l32.take 8).map (convert f32 f64 rm))
  | .f64, .i32 => some (64, (l32.take 8).map (fun x => f64.round rm (numOfInt (toSigned 32 x)) false))
  | .bf16, .f32 => some (32, l32.map (narrow .bf16 rm))
  | .e8m0, .f32 => some (32, l32.map toE8m0)
  | .i32, .f32 => some (32, l32.map (fun x =>
      let (i, fl) := toIntSat 32 rm (f32.num x)
      (ofSigned 32 i, fl)))
  | _, _ => none

/-- `VCVT` (R196, R198): consumes a pending format; a pair that is not allowed, or a pending `RLX`, is an illegal operand. -/
def execVcvt (f : Fmt) (d a : VReg) (s : State) : Res :=
  if isUtell s.cpu.core then .next (s.trapHead 0x18)
  else if s.cpu.pfxr then .next s.illegal
  else
    match s.cpu.srcFmt with
    | none => .next s.illegal
    | some src =>
      match vcvt f src s.rm (s.vrd a) with
      | none => .next s.illegal
      | some (w, rs) =>
        let fl := rs.foldl (fun acc x => acc ||| x.2) 0#5
        .next (((s.modCpu (fun t => t.raise fl)).setV 4 d (packLanes w (rs.map (·.1)))).done)

/-- QMODE (R183, R436). -/
def State.qmode (s : State) : Nat := field s.msr 1 0

/-- `VQ8` (R199), with its built-in hold. -/
def execVq8 (f : Fp8) (d a b : VReg) (s : State) : Res :=
  onBarrel s fun s =>
    let (X, ys, fl) := quantise32 f s.qmode (lane 32 (s.vrd d) 0) none (lanes 32 16 (s.vrd a) ++ lanes 32 16 (s.vrd b))
    ((s.modCpu (fun t => t.raise fl)).setV 4 d (packLanes 8 (ys ++ [X]))).doneHold 7

/-- `VDQ8` (R199). -/
def execVdq8 (f : Fp8) (d a : VReg) (b : Reg) (s : State) : Res :=
  onBarrel s fun s =>
    let h := (s.rd b).toNat % 2
    let X := lane 8 (s.vrd a) 32
    let rs := (List.range 16).map (fun i => rne32 (scaledNum f X (lane 8 (s.vrd a) (16 * h + i))))
    let fl := rs.foldl (fun acc x => acc ||| x.2) 0#5
    ((s.modCpu (fun t => t.raise fl)).setV 4 d (packLanes 32 (rs.map (·.1)))).done

/-- `VSCALE` (R200). -/
def execVscale (m : VecM) (d a b : VReg) (s : State) : Res :=
  onBarrel s fun s => vecFloat2 (fun f x n =>
    let (v, fl) := f.scale s.rm x (toSigned (laneBits m.wide) n)
    (v, fl)) m d a b s

/-- `VCLAMP` (R200). -/
def execVclamp (m : VecM) (d a b : VReg) (s : State) : Res := onBarrel s fun s => vecFloat2 FFmt.clamp m d a b s

/-- `VPACK` (R201). -/
def execVpack (f : PackFmt) (d a b : VReg) (s : State) : Res :=
  onBarrel s fun s =>
    let rs := (lanes 32 16 (s.vrd a) ++ lanes 32 16 (s.vrd b)).map (narrow f s.rm)
    ((s.modCpu (fun t => t.raise (orFlags (rs.map (·.2))))).setV 2 d (packLanes (8 * packSize f) (rs.map (·.1)))).done

/-- `VUNPK` (R201). -/
def execVunpk (f : PackFmt) (d a : VReg) (b : Reg) (s : State) : Res :=
  onBarrel s fun s =>
    let w := 8 * packSize f
    let j := if w = 16 then (s.rd b).toNat % 2 else (s.rd b).toNat % 4
    let rs := (List.range 16).map (fun i => widen f (lane w (s.vrd a) (16 * j + i)))
    ((s.modCpu (fun t => t.raise (orFlags (rs.map (·.2))))).setV 2 d (packLanes 32 (rs.map (·.1)))).done

end Sys2Proof.Machine
end

