-- ==== Sys2Proof/Machine/Integer.lean ====
section
/-! DEFINITION. Rows 1 to 3: integer arithmetic, logic and bit fields, moves and comparison, identity, time and random
numbers (R146 to R150, R152, R153). -/

namespace Sys2Proof.Machine

/-- An integer result of latency 1 and sequential flow (R55, R141). -/
def State.intDone (s : State) (d : Reg) (v : Word) : State := (s.setR d v).done

/-- `ADD` (R146). -/
def execAdd (d a b : Reg) (s : State) : Res := plain s fun s => s.intDone d (s.rd a + s.rd b)
/-- `SUB` (R146). -/
def execSub (d a b : Reg) (s : State) : Res := plain s fun s => s.intDone d (s.rd a - s.rd b)
/-- `ADDI` (R146). -/
def execAddi (d a : Reg) (imm : BitVec 16) (s : State) : Res := plain s fun s => s.intDone d (s.rd a + sx16 imm)
/-- `ADDI` with T4 (R146). -/
def execAddiT4 (d a : Reg) (imm : BitVec 48) (s : State) : Res := plain s fun s => s.intDone d (s.rd a + sx48 imm)
/-- `MUL` (R146). -/
def execMul (d a b : Reg) (s : State) : Res := plain s fun s => s.intDone d (s.rd a * s.rd b)

/-- The high half of a product (R146). -/
def mulHigh (us : Bool) (a b : Word) : Word :=
  if us then word (a.toNat * b.toNat / 2 ^ 64) else wordInt (a.toInt * b.toInt / 2 ^ 64)

/-- `MULH` (R146). -/
def execMulh (us : Bool) (d a b : Reg) (s : State) : Res := plain s fun s => s.intDone d (mulHigh us (s.rd a) (s.rd b))

/-- Division (R146, R147). -/
def quotient (us : Bool) (a b : Word) : Word :=
  if b = 0#64 then -1#64 else if us then word (a.toNat / b.toNat) else wordInt (a.toInt.tdiv b.toInt)

/-- Remainder (R146, R147). -/
def remainder (us : Bool) (a b : Word) : Word :=
  if b = 0#64 then a else if us then word (a.toNat % b.toNat) else wordInt (a.toInt.tmod b.toInt)

/-- `DIV` (R141, R147). -/
def execDiv (us : Bool) (d a b : Reg) (s : State) : Res :=
  plain s fun s => (s.setR d (quotient us (s.rd a) (s.rd b))).doneHold 15
/-- `REM` (R141, R147). -/
def execRem (us : Bool) (d a b : Reg) (s : State) : Res :=
  plain s fun s => (s.setR d (remainder us (s.rd a) (s.rd b))).doneHold 15

/-- a < b, signed or unsigned. -/
def less (us : Bool) (a b : Word) : Bool := if us then a.ult b else a.slt b

/-- `MIN` (R146). -/
def execMin (us : Bool) (d a b : Reg) (s : State) : Res :=
  plain s fun s => s.intDone d (if less us (s.rd b) (s.rd a) then s.rd b else s.rd a)
/-- `MAX` (R146). -/
def execMax (us : Bool) (d a b : Reg) (s : State) : Res :=
  plain s fun s => s.intDone d (if less us (s.rd a) (s.rd b) then s.rd b else s.rd a)
/-- `SLT` (R146). -/
def execSlt (us : Bool) (d a b : Reg) (s : State) : Res :=
  plain s fun s => s.intDone d (boolWord (less us (s.rd a) (s.rd b)))
/-- `SLTI` (R146). -/
def execSlti (us : Bool) (d a : Reg) (imm : BitVec 16) (s : State) : Res :=
  plain s fun s => s.intDone d (boolWord (less us (s.rd a) (sx16 imm)))
/-- `SLTI` with T4 (R146). -/
def execSltiT4 (us : Bool) (d a : Reg) (imm : BitVec 48) (s : State) : Res :=
  plain s fun s => s.intDone d (boolWord (less us (s.rd a) (sx48 imm)))
/-- `MADD` (R146). -/
def execMadd (d a b : Reg) (s : State) : Res := plain s fun s => s.intDone d (s.rd d + s.rd a * s.rd b)

/-! ### Row 2 -/

/-- `AND` (R148). -/
def execAnd (d a b : Reg) (s : State) : Res := plain s fun s => s.intDone d (s.rd a &&& s.rd b)
/-- `OR` (R148). -/
def execOr (d a b : Reg) (s : State) : Res := plain s fun s => s.intDone d (s.rd a ||| s.rd b)
/-- `XOR` (R148). -/
def execXor (d a b : Reg) (s : State) : Res := plain s fun s => s.intDone d (s.rd a ^^^ s.rd b)
/-- `ANDN` (R148). -/
def execAndn (d a b : Reg) (s : State) : Res := plain s fun s => s.intDone d (s.rd a &&& ~~~s.rd b)

/-- The operation of `LOGI` (R90, R148). -/
def logic (op : LogOp) (a b : Word) : Word :=
  match op with
  | .and => a &&& b
  | .or => a ||| b
  | .xor => a ^^^ b
  | .andn => a &&& ~~~b

/-- `LOGI` (R148). -/
def execLogi (op : LogOp) (d a : Reg) (imm : BitVec 16) (s : State) : Res :=
  plain s fun s => s.intDone d (logic op (s.rd a) (sx16 imm))
/-- `LOGI` with T4 (R148). -/
def execLogiT4 (op : LogOp) (d a : Reg) (imm : BitVec 48) (s : State) : Res :=
  plain s fun s => s.intDone d (logic op (s.rd a) (sx48 imm))

/-- The count of a T1 shift: b[5:0] (R148). -/
def shiftCount (b : Word) : Nat := b.toNat % 64

/-- `SHL` (R148). -/
def execShl (d a b : Reg) (s : State) : Res := plain s fun s => s.intDone d (s.rd a <<< shiftCount (s.rd b))
/-- `SHL` by an immediate (R148). -/
def execShlImm (d a : Reg) (n : BitVec 6) (s : State) : Res := plain s fun s => s.intDone d (s.rd a <<< n.toNat)
/-- `SHR` (R148). -/
def execShr (d a b : Reg) (s : State) : Res := plain s fun s => s.intDone d (s.rd a >>> shiftCount (s.rd b))
/-- `SHR` by an immediate (R148). -/
def execShrImm (d a : Reg) (n : BitVec 6) (s : State) : Res := plain s fun s => s.intDone d (s.rd a >>> n.toNat)
/-- `SAR` (R148). -/
def execSar (d a b : Reg) (s : State) : Res := plain s fun s => s.intDone d ((s.rd a).sshiftRight (shiftCount (s.rd b)))
/-- `SAR` by an immediate (R148). -/
def execSarImm (d a : Reg) (n : BitVec 6) (s : State) : Res :=
  plain s fun s => s.intDone d ((s.rd a).sshiftRight n.toNat)
/-- `ROT` (R148). -/
def execRot (d a b : Reg) (s : State) : Res := plain s fun s => s.intDone d ((s.rd a).rotateLeft (shiftCount (s.rd b)))
/-- `ROT` by an immediate (R148). -/
def execRotImm (d a : Reg) (n : BitVec 6) (s : State) : Res :=
  plain s fun s => s.intDone d ((s.rd a).rotateLeft n.toNat)
/-- `CLZ` (R148). -/
def execClz (d a : Reg) (s : State) : Res := plain s fun s => s.intDone d (word (clz64 (s.rd a)))
/-- `POPC` (R148). -/
def execPopc (d a : Reg) (s : State) : Res := plain s fun s => s.intDone d (word (popcount (s.rd a).toNat 64))

/-- The bit field of `BFX` (R149). -/
def bitField (sx : Bool) (a : Word) (p w : Nat) : Word :=
  let f := (a.toNat >>> p) % 2 ^ w
  if sx then wordInt (toSigned w f) else word f

/-- `BFX` (R149): a width of 0 or a field past bit 63 is an illegal operand. -/
def execBfx (sx : Bool) (d a : Reg) (p : BitVec 6) (w : BitVec 7) (s : State) : Res :=
  plain s fun s =>
    if 1 ≤ w.toNat && p.toNat + w.toNat ≤ 64 then s.intDone d (bitField sx (s.rd a) p.toNat w.toNat) else s.illegal

/-! ### Row 3 -/

/-- `MOV` (R150). -/
def execMov (d a : Reg) (s : State) : Res := plain s fun s => s.intDone d (s.rd a)
/-- `MOVI` (R150). -/
def execMovi (d : Reg) (imm : BitVec 16) (s : State) : Res := plain s fun s => s.intDone d (sx16 imm)
/-- `MOVI` with T4 (R150). -/
def execMoviT4 (d : Reg) (imm : BitVec 48) (s : State) : Res := plain s fun s => s.intDone d (sx48 imm)

/-- `MOVHI` (R150): bits 16k + 15 to 16k of d replaced. -/
def execMovhi (k : BitVec 2) (d : Reg) (imm : BitVec 16) (s : State) : Res :=
  plain s fun s =>
    let sh := 16 * k.toNat
    s.intDone d ((s.rd d &&& ~~~(0xFFFF#64 <<< sh)) ||| (imm.setWidth 64 <<< sh))

/-- `SEL` (R150). -/
def execSel (d a b : Reg) (s : State) : Res :=
  plain s fun s => s.intDone d (if s.rd d ≠ 0#64 then s.rd a else s.rd b)

/-- The base of `LEA` (R150): the line address of the `LEA` itself when a = 0. -/
def State.leaBase (s : State) (a : Reg) : Word := if a = 0#5 then lineAddr s.cpu.pc else s.rd a

/-- `LEA` (R150). -/
def execLea (d a : Reg) (imm : BitVec 16) (s : State) : Res := plain s fun s => s.intDone d (s.leaBase a + sx16 imm)
/-- `LEA` with T4 (R150). -/
def execLeaT4 (d a : Reg) (imm : BitVec 48) (s : State) : Res := plain s fun s => s.intDone d (s.leaBase a + sx48 imm)

/-- `CMP` (R150). -/
def execCmp (c : Cond) (d a b : Reg) (s : State) : Res :=
  plain s fun s => s.intDone d (boolWord (cond c (s.rd a) (s.rd b)))
/-- `CMP` with an immediate (R150). -/
def execCmpImm (c : Cond) (d a : Reg) (imm : BitVec 16) (s : State) : Res :=
  plain s fun s => s.intDone d (boolWord (cond c (s.rd a) (sx16 imm)))

/-- A loaded or extended element of a size (R86). -/
def extend (sz : LdSize) (v : Nat) : Word :=
  match sz with
  | .d => word v
  | .wz => word (v % 2 ^ 32)
  | .ws => wordInt (toSigned 32 v)
  | .hz => word (v % 2 ^ 16)
  | .hs => wordInt (toSigned 16 v)
  | .bz => word (v % 2 ^ 8)
  | .bs => wordInt (toSigned 8 v)

/-- `EXT` (R150): code 0 is an illegal operand. -/
def execExt (sz : LdSize) (d a : Reg) (s : State) : Res :=
  plain s fun s => if sz = .d then s.illegal else s.intDone d (extend sz (s.rd a).toNat)

/-- What `IDS` reads (R152). -/
def State.ids (s : State) : IdsSel → Nat
  | .core => s.cpu.core
  | .die => s.here
  | .slot => if isUtell s.cpu.core then 0 else s.cpu.slot
  | .part => s.cpu.part
  | .mod => s.modNum

/-- `IDS` (R152). -/
def execIds (q : IdsSel) (d : Reg) (s : State) : Res := plain s fun s => s.intDone d (word (s.ids q))
/-- `CLK` (R152). -/
def execClk (d : Reg) (s : State) : Res := plain s fun s => s.intDone d (word s.now)
/-- `RNG` (R153), with its built-in hold (R141). -/
def execRng (d a b : Reg) (s : State) : Res :=
  plain s fun s => (s.setR d (word (philox (s.rd a) (s.rd d) (s.rd b)))).doneHold 7

end Sys2Proof.Machine
end

