-- ==== Sys2Proof/Machine/Kill.lean ====
section
/-! DEFINITION. Join kills: posting one to a strand and taking it (R125, R263, R289, R380, R381). -/

namespace Sys2Proof.Machine

/-- Is a kill pending that may be taken at a kill point (R380)? -/
def Thread.killable (t : Thread) : Bool := !t.kill.isEmpty && !t.koff

/-- `ValidTarget` for a kill handler (R381): a line that cannot be fetched is met when the handler is entered. -/
def State.validHandler (s : State) (k : Word) : Bool :=
  field k 63 57 == 0 && field k 5 0 != 0 &&
    match s.lineOf (lineAddr k) with
    | .ok _ is => field k 5 0 ≤ is.length
    | .illegal => false
    | _ => true

/-- A context leaves the waiters of words, barriers and joins; a barrier arrival stays (R240). -/
def State.leaveWaits (s : State) (c : CtxId) : State :=
  s.mapDies (fun _ x => { x with
    words := x.words.filter (fun w => w.ctx != c)
    bars := x.bars.map (fun b => { b with waiters := b.waiters.filter (fun w => w.1 != c) })
    joins := x.joins.map (fun j => { j with waiters := j.waiters.filter (fun w => w.1 != c) }) })

/-- A waiter that leaves a block queue whose fault is pending lowers the counts of its fault entries (R280, R289). -/
def State.leaveQueues (s : State) (c : CtxId) : State :=
  s.mapDies (fun _ x =>
    let toks := (x.blocks.filter (fun b => b.queue.any (fun w => w.ctx == c))).flatMap (·.faults)
    { x with
      faults := x.faults.map (fun e => if toks.contains e.token then { e with wcnt := e.wcnt - 1 } else e)
      blocks := (x.blocks.map (fun b => { b with queue := b.queue.filter (fun w => w.ctx != c) })).filter (fun b => !b.void) })

/-- Leaves every wait of the issuing context, with its carried uses (R275, R381). -/
def State.abandonWait (s : State) : State :=
  (((s.leaveQueues s.cur).leaveWaits s.cur).modCpu (fun t => { t with wait := .none, trapDue := none })).dropCarried

/-- `DeliverKill` (R381) for the issuing strand: the oldest kill that is pending. Its mailboxes are freed (R321). The kill word is i0's youngest
result, which no older one replaces (R56; DEDUCED, log 104). -/
def State.deliverKill (s : State) : State :=
  match s.cur, s.cpu.kill with
  | .strand sid, w :: rest =>
    let at_ := s.cpu.pc
    let s := s.abandonWait.freeMail s.cpu.core s.cur
    let s := s.modCpu (fun t => { t.clearPrefix with jmem := 0#64, kill := rest })
    if s.cpu.khnd = 0#64 then s.retire sid
    else if !s.validHandler s.cpu.khnd then s.trapAt 0x05 at_ s.cpu.khnd
    else s.modCpu (fun t => { t.produce 1 24 w.toNat with pc := t.khnd })
  | _, _ => s

/-- A kill is taken as its instruction issues, which has no other effect and is counted (R54, R55, R261, R380). -/
def State.killHere (s : State) : State := (s.doneTo 0 s.cpu.pc).deliverKill

/-- A strand whose wait a kill ends, in its slot or parked: the instruction it waits at issued, with its stall count (R54, R55; DEDUCED,
log 55). -/
def Thread.waited (t : Thread) : Thread :=
  let w := headStall t.head
  { t.age (1 + w) with hold := w }

/-- A kill is taken at a wait, whose instruction has no further effect (R381). -/
def State.killWait (s : State) : State := (s.modCpu Thread.waited).deliverKill

/-- A pending kill meets a strand where it stands (R125, R289, R380): it is taken at once where the strand waits at a kill point in its
slot, a parked strand leaves its wait for the pool of its current core, and otherwise it stays pending. A strand that waits in its slot
on a block or a word, or waits for a kill point, goes on. -/
def State.offerKill (s : State) (sid : Nat) : State :=
  match s.thread? (.strand sid) with
  | none => s
  | some t =>
    if !t.killable then s
    else match t.place, t.wait with
      | .slot, .message | .slot, .barrier | .slot, .join =>
        if s.gangStopped t.core then s else
        let old := s.cur
        let s := (s.focus (.strand sid)).killWait
        if (s.thread? old).isSome then s.focus old else s
      | .parked _ _, _ =>
        let s := ((s.leaveQueues (.strand sid)).leaveWaits (.strand sid)).modThread (.strand sid) Thread.waited
        s.enterPool (dieOf t.core) sid (some t.core)
      | _, _ => s

/-- A kill reaches a strand (R380). -/
def State.postKill (s : State) (sid : Nat) (w : Word) : State :=
  (s.modThread (.strand sid) (fun t => { t with kill := t.kill ++ [w] })).offerKill sid

end Sys2Proof.Machine
end

