-- ==== Sys2Proof/Machine/Queues.lean ====
section
/-! DEFINITION. How contexts wait and are woken: block queues and uses (R272 to R280), word waiters (R284, R285), long waits
at the current die (R28 to R30), and the completion of an instruction that waited. -/

namespace Sys2Proof.Machine

/-! ### Completing an instruction that waited -/

/-- Completes the waiting instruction of a context and writes its results: in its slot (R285), or, where it is parked, by
delivery with its release to the pool of its current core, bound to it (R101), with its stall count to be held there (R54). -/
def State.completeWait (s : State) (c : CtxId) (regs : List (Nat × Word)) : State :=
  match s.thread? c with
  | none => s
  | some t =>
    match t.place, c with
    | .slot, _ =>
      let old := s.cur
      let s := (s.focus c).modCpu (fun t => regs.foldl (fun t (n, v) => t.produce 1 n v.toNat) t)
      (s.done).focus old
    | _, .strand sid =>
      let n := nextPc t.pc t.lineN
      let due : Option (Nat × Word) := if field n 63 57 ≠ 0 then some (0x05, n) else none
      let s := s.modThread c (fun t =>
        { t.clearPrefix with
          pc := if due.isSome then t.pc else n, hold := headStall t.head, trapDue := due, deliver := t.deliver ++ regs, wait := .none })
      let s := s.modCore t.core (fun k => { k with icnt := k.icnt + 1#64 })
      s.enterPool (dieOf t.core) sid (some t.core)
    | _, .sup _ => s

/-- A context tries its waiting instruction again: in its slot, or from the pool of its current core (R101). -/
def State.retryWait (s : State) (c : CtxId) : State :=
  match s.thread? c with
  | none => s
  | some t =>
    match t.place, c with
    | .slot, _ => s.modThread c (fun t => { t with wait := .none })
    | _, .strand sid => s.enterPool (dieOf t.core) sid (some t.core)
    | _, .sup _ => s

/-- A context that waited takes a trap at its waiting instruction (R227, R280): at once in its slot, else before its next
issue. -/
def State.trapWait (s : State) (c : CtxId) (cause : Nat) (val : Word) : State :=
  (s.modThread c (fun t => { t with trapDue := some (cause, val) })).retryWait c

/-! ### Long waits at the current die (R28 to R30) -/

/-- What the issuing strand does instead of giving up its slot at a wait that is a safe point and a kill point (R257, R263,
R380): it takes a kill, or is retired with its launch. -/
def State.atWait (s : State) : Option State :=
  match s.cur with
  | .sup _ => none
  | .strand sid =>
    if s.cpu.killable then some s.killWait
    else if s.cpu.ending then some (s.retire sid)
    else none

/-- The parking-full trap (R30, R246). -/
def State.parkingFull (s : State) (d : Nat) : State := s.trap 0x21 (word d)

/-- A long wait of the issuing context at its current die with a CAUSE of R140, once `arrive` has been done; `held` is its
wait where it keeps its slot: there it is a kill point and no safe point (R257, R380). A kill is taken with the registers in place (R381);
else the windows are flushed before `arrive`, so that a spill that faults leaves nothing done. -/
def State.waitHere (s : State) (cause : Nat) (held : Wait) (arrive : State → State) : State :=
  match s.longWait s.here with
  | .full => s.parkingFull s.here
  | .inSlot =>
    let s := arrive (s.modCpu (fun t => { t with wait := held }))
    if !s.isSup && s.cpu.killable then s.killWait else s
  | .park =>
    match (arrive s).atWait with
    | some s => s
    | none =>
      match s.flush with
      | .stopped s => s
      | .ok s => (arrive s).parkOn cause s.here

/-! ### Block queues -/

/-- Does a waiter come before another (R277, R289)? -/
def Waiter.before (a b : Waiter) : Bool :=
  let num : CtxId → Nat := fun c => match c with
    | .strand n => n
    | .sup n => 2 ^ 24 + n
  a.stamp < b.stamp || (a.stamp == b.stamp && num a.ctx < num b.ctx)

/-- Puts a waiter into a queue in the order of stamps. -/
def insertWaiter (w : Waiter) : List Waiter → List Waiter
  | [] => [w]
  | x :: rest => if w.before x then w :: x :: rest else x :: insertWaiter w rest

/-- Changes the waiter counts of a die's fault entries (R280). -/
def State.countFaults (s : State) (d : Nat) (toks : List Nat) (f : Nat → Nat) : State :=
  s.modDie d (fun x => { x with faults := x.faults.map (fun e => if toks.contains e.token then { e with wcnt := f e.wcnt } else e) })

/-- Is the block's queue fault pending: some page waits for a replay, or for a free fault entry (R280, R402)? -/
def Block.faultPending (b : Block) : Bool := !b.faults.isEmpty || !b.unposted.isEmpty

/-- `JoinQueue` (R272, R277, R280): a real waiter joins the queue of an absent block. -/
def State.joinQueue (s : State) (d : Nat) (k : BlockKey) (w : Waiter) : State :=
  let b := (s.block? d k).getD { key := k }
  let s := s.setBlock d { b with queue := insertWaiter w b.queue }
  if b.faults.isEmpty then s else s.countFaults d b.faults (· + 1)

/-- Frames of a die that some context keeps under a carried use (R275). -/
def State.carriedFrames (s : State) (d : Nat) : List BlockKey :=
  let ts := s.cpu :: (s.threads.map (·.2) ++ s.sups.map (·.2))
  ((ts.flatMap (·.carried)).filter (fun k => match s.part? k.part with | some p => p.homeDie k.blk == d | none => false)).eraseDups

/-- A carried use on a block, within the limit of its home die (R275). -/
def State.carryOne (s : State) (k : BlockKey) : State :=
  match s.part? k.part with
  | none => s
  | some p =>
    let on := s.carriedFrames (p.homeDie k.blk)
    if s.cpu.carried.contains k || (!on.contains k && 1024 ≤ on.length) then s
    else s.modCpu (fun t => { t with carried := t.carried ++ [k] })

/-- The issuing context keeps uses on the blocks it has located, within the limits; the ordinary use it held is dropped, since it has taken
another, and so are those that its instruction held (R274, R275). -/
def State.carry (s : State) (fs : List Found) : State :=
  match walkedBlocks fs, s.cpu.passed with
  | [], [] => s
  | ks, ps =>
    let old := (if ks.isEmpty then none else s.cpu.use).toList ++ ps
    (old ++ ks).foldl State.noteIdle
      (ks.foldl State.carryOne (s.modCpu (fun t => { t with use := if ks.isEmpty then t.use else none, passed := [] })))

/-- `BlockWord` for an absent block (R272, R273): the issuing context joins the queue in its slot, or parks at the home die.
Parking is a safe point and a kill point (R257, R380). -/
def State.waitBlock (s : State) (before : List Found) (k : BlockKey) (home : Nat) : State :=
  let s := s.carry before
  let stamp := s.now
  match s.longWait home with
  | .full => s.parkingFull home
  | .inSlot => (s.joinQueue home k ⟨s.cur, stamp, .slotHeld⟩).modCpu (fun t => { t with wait := .block k })
  | .park =>
    match s.atWait with
    | some s => s
    | none =>
      match s.flush with
      | .stopped s => s
      | .ok s =>
        if home = s.here then
          let pending := match s.block? home k with | some b => b.faultPending | none => false
          (s.joinQueue home k ⟨s.cur, stamp, .parked⟩).parkOn (if pending then 0x08 else 0x01) home
        else s.ship home none (some (k, stamp))

/-- The name under which an access from outside stands in a block queue: no core's context. -/
def Outside.ctx (o : Outside) : CtxId := .sup (2 ^ 20 + o.id)

/-- A context, or an access from outside, has a use on a block in place of the one it held (R274, R279). -/
def State.grantUse (s : State) (c : CtxId) (k : BlockKey) : State :=
  let s := { s with outside := s.outside.map (fun (o : Outside) => if o.ctx = c then { o with use := some k } else o) }
  match (s.thread? c).bind (·.use) with
  | some old =>
    let s := s.modThread c (fun t => { t with use := some k })
    if old = k then s else s.noteIdle old
  | none => s.modThread c (fun t => { t with use := some k })

/-- Releases a waiter of a block queue of die `d` (R101, R279): into its slot, its Utell core's queue, or the die's pool. -/
def State.releaseWaiter (s : State) (d : Nat) (w : Waiter) : State :=
  match s.thread? w.ctx with
  | none => s
  | some t =>
    match w.kind, w.ctx with
    | .slotHeld, _ => s.modThread w.ctx (fun t => { t with wait := .none })
    | .parked, .strand sid =>
      if isUtell t.core then s.enterPool (dieOf t.core) sid (some t.core) else s.enterPool d sid none
    | _, _ => s

/-! ### Word waiters (R284, R285) -/

/-- The die that serves a word (R284). -/
def stackDie (pa : Nat) : Nat :=
  [0, 1, 2, 3, 4, 5, 11, 17, 23, 22, 21, 20, 19, 18, 12, 6].getD (pa / 2 ^ 36 / 2) 0

/-- The die that serves a word at a location. -/
def Loc.server : Loc → Nat
  | .loc core _ => dieOf core
  | .direct pa => stackDie pa
  | .frame d _ _ => d

/-- Can the access of an entry proceed (R225)? -/
def State.canServe (s : State) (w : WordWaiter) : Bool :=
  match w.op with
  | .ldfe | .ldff => s.fullAt w.at_
  | .stef => !s.fullAt w.at_

/-- The first entry of a list that can proceed and before which no entry waits on the same word. -/
def State.servable (s : State) : List Loc → List WordWaiter → Option WordWaiter
  | _, [] => none
  | seen, w :: rest =>
    if !seen.contains w.at_ && s.canServe w then some w else s.servable (w.at_ :: seen) rest

/-- D is set before the access of an entry changes its word (R393). -/
def State.dirtyWaiter (s : State) (w : WordWaiter) : State :=
  match w.via with
  | some (_, c, _) => s.setDirty c
  | none => s

/-- Is WB set in the guest leaf of an entry's word, so that no write of it is performed (R411)? -/
def State.wbWaiter (s : State) (w : WordWaiter) : Bool := w.via.any (fun v => (s.hbmWord v.2.1.gleaf).testBit 11)

/-- An entry leaves its table. -/
def State.leaveTable (s : State) (d : Nat) (w : WordWaiter) : State :=
  s.modDie d (fun x => { x with words := x.words.filter (fun y => y.ctx != w.ctx) })

/-- Performs the access of an entry as one step and wakes its context (R285). One that finds WB is made again from the start (R399). -/
def State.serveWord (s : State) (d : Nat) (w : WordWaiter) : State :=
  if s.wbWaiter w then (s.leaveTable d w).retryWait w.ctx
  else
  let s := (s.leaveTable d w).drain (fun p => p.die == d && p.at_.overlaps p.size w.at_ 8)
  match w.op with
  | .ldfe =>
    let v := word (s.readAt d w.at_ 8)
    ((s.dirtyWaiter w).setFullAt w.at_ false).completeWait w.ctx [(w.reg, v)]
  | .ldff => s.completeWait w.ctx [(w.reg, word (s.readAt d w.at_ 8))]
  | .stef =>
    let by_ := ((s.thread? w.ctx).getD {}).writer w.ctx
    (((s.dirtyWaiter w).writeBy by_ d w.at_ w.val.toNat 8).setFullAt w.at_ true).completeWait w.ctx []

/-- Serves the word waiters of every die for as long as one can proceed. -/
def State.serveGo (s : State) : Nat → State
  | 0 => s
  | n + 1 =>
    match s.dies.findSome? (fun (d, x) => (s.servable [] x.words).map (fun w => (d, w))) with
    | none => s
    | some (d, w) => (s.serveWord d w).serveGo n

/-- The entries of every die's table, with the die. -/
def State.waiters (s : State) : List (Nat × WordWaiter) := s.dies.flatMap (fun (d, x) => x.words.map (fun w => (d, w)))

/-- Ends the wait of every entry whose word is poisoned (R227). -/
def State.poisonWaiters (s : State) : State :=
  s.waiters.foldl (fun s (d, w) => if s.poisonedAt w.at_ then (s.leaveTable d w).trapWait w.ctx 0x14 w.va else s) s

/-- Ends the waits on poisoned words (R227), then serves every word waiter that a change of full/empty bits lets proceed (R285). -/
def State.serveWords (s : State) : State := s.poisonWaiters.serveGo ((s.dies.map (fun d => d.2.words.length)).sum)

/-- Entries a partition may hold in a die's table (R284, R423). -/
def State.wordRoom (s : State) (d part : Nat) : Bool :=
  (s.die d).words.length < 262144 &&
    match s.part? part with
    | none => true
    | some p => p.whole ||
        (s.dies.map (fun x => (x.2.words.filter (fun w => w.part == part)).length)).sum < 1024 * p.coreCount

/-- The issuing context begins to wait on a word (R226, R284): with an entry and its slot patience, or without one. Writes that its die
has posted to the word come first (R219, R230). -/
def State.waitWord (s : State) (l : Loc) (va : Word) (c : Option (Comp × List Nat)) (op : WordOp) (val : Word) (reg : Nat) : State :=
  let d := l.server
  let s := s.drain (fun p => p.die == s.here && p.at_.overlaps p.size l 8)
  if s.wordRoom d s.cpu.part then
    (s.modDie d (fun x => { x with words := x.words ++ [⟨s.cur, l, va, op, val, reg, s.cpu.part, c.map (fun c => (s.cpu.asid, c))⟩] })).modCpu
      (fun t => { t with wait := .word d (s.now + 2000) })
  else s.modCpu (fun t => { t with wait := .wordRetry })

end Sys2Proof.Machine
end

