-- ==== Sys2Proof/Machine/Memory.lean ====
section
/-! DEFINITION. Rows 8 and 9 (R219 to R227, R287) and the atomics, fences and waits of row A (R228, R233, R241, R242). -/

namespace Sys2Proof.Machine

/-! ### Accesses (R219, R221) -/

/-- What an access does when an element cannot be located (R221, R399): a trap, a wait as a fault waiter or for write-back, or
a wait for its block. A wait keeps uses on the resident blocks already passed (R275). -/
def State.stopAt (s : State) (before : List Found) (bad : Found) (k : Kind) : State :=
  match bad with
  | .trap c v => s.trap c v
  | .fail va f => (s.useBlocks before).faultWait va k f
  | .conflict va => s.conflictTrap va
  | .writeBack l => (s.useBlocks before).modCpu (fun t => { t with wait := .writeBack l })
  | .absent key home _ => s.waitBlock before key home
  | .at_ .. | .device .. => s

/-- Locates every element, then goes on with all of them; composites are cached and uses taken (R221, R274, R397). -/
def State.access (s : State) (vas : List Word) (loc : Word → Found) (k : Kind) (go : State → List Found → State) : State :=
  match locateAll loc vas with
  | (fs, some bad) => s.stopAt fs bad k
  | (fs, none) => go (s.touched fs) fs

/-- The end of an access: the result's pending bits, the outstanding access, and the carried uses (R58, R219, R275). -/
def State.accessDone (s : State) (regs : List (Nat × Nat)) : State :=
  let rlx := s.cpu.pfxr
  ((s.modCpu (fun t => t.answer regs (!rlx) rlx (if rlx then s.tick else 0))).dropCarried).done

/-- Loads: the poison check, the context's own writes to the bytes, then the values (R212, R219). -/
def State.load (s : State) (vas : List Word) (size : Nat) (loc : Word → Found) (go : State → List Nat → State) : State :=
  s.access vas loc .read (fun s fs =>
    match s.firstPoison size fs with
    | some va => s.trap 0x14 va
    | none =>
      let (s, vs) := (s.ownFirst size fs).readFound size fs
      go s vs)

/-- A write of the issuing context at a location: at the single copy, or, for a relaxed write of HBM or a frame, in the die's posted-write
path (R229). -/
def State.storeAt (s : State) (size : Nat) (relaxed : Bool) (l : Loc) (v : Nat) : State :=
  match l, relaxed with
  | .loc .., _ | _, false => s.writeAt s.here l v size
  | _, true =>
    let s := s.noteStore s.writer l v size
    { s with posted := s.posted ++ [⟨s.here, l, size, v % 2 ^ (8 * size), s.cur, s.writer, s.tick⟩] }

/-- D is set in the leaves of a found word (R393). -/
def State.dirtyFound (s : State) (f : Found) : State :=
  match f with
  | .at_ _ _ (some (c, _)) => s.setDirty c
  | _ => s

/-- Writes one located element. -/
def State.storeOne (s : State) (size : Nat) (relaxed : Bool) (f : Found) (v : Nat) : State :=
  match f with
  | .at_ l _ _ => (s.dirtyFound f).storeAt size relaxed l v
  | .device pa va c _ => s.deviceWrite pa size va c v
  | _ => s

/-- Writes located elements in order (R223). -/
def State.storeAll (s : State) (size : Nat) (relaxed : Bool) : List Found → List Nat → State
  | f :: fs, v :: vs => (s.storeOne size relaxed f v).storeAll size relaxed fs vs
  | _, _ => s

/-- Does a store write some poisoned atom whole (R212)? -/
def State.rescues (s : State) (size : Nat) (fs : List Found) : Bool :=
  fs.any (fun f => match f.loc? with
    | some l => (List.range 4).any (fun i => s.poisonedAt (l.atom.plus (8 * i))) && coversAtom size fs l
    | none => false)

/-- Byte `b` of `size` bytes of a value that lie at a location. -/
def Loc.byteOf (l : Loc) (size v : Nat) (b : Loc) : Option Byte :=
  ((List.range size).find? (fun i => l.plus i == b)).map (fun i => BitVec.ofNat 8 (v >>> (8 * i)))

/-- The value that the elements of a store leave in an atom: the last element that covers a byte remains (R223). -/
def atomValue (size : Nat) (es : List (Found × Nat)) (atom : Loc) : Nat :=
  natOfBytes ((List.range 32).map (fun i =>
    (es.reverse.findSome? (fun e => e.1.loc?.bind (fun l => l.byteOf size e.2 (atom.plus i)))).getD 0#8))

/-- The writes that the elements of a vector store make: one of 32 bytes for each atom that the store writes whole, at the last element in
it, else one for each element (R223). -/
def atomWrites (size : Nat) (all : List (Found × Nat)) : List (Found × Nat) → List (Found × Nat × Nat)
  | [] => []
  | (f, v) :: rest =>
    let later := atomWrites size all rest
    match f with
    | .at_ l va c =>
      if !coversAtom size (all.map (·.1)) l then (f, size, v) :: later
      else if rest.any (fun e => e.1.loc?.map Loc.atom == some l.atom) then later
      else (.at_ l.atom va c, 32, atomValue size all l.atom) :: later
    | _ => (f, size, v) :: later

/-- Writes the located elements of a store; an atom written whole is poisoned no longer, at once (R212). A vector store writes a whole atom
at once on the relaxed path too (R223). -/
def State.storeFound (s : State) (vec : Bool) (size : Nat) (fs : List Found) (vs : List Nat) : State :=
  let relaxed := s.cpu.pfxr && !s.rescues size fs
  let s := s.freshen size fs fs
  if vec && relaxed then
    (atomWrites size (fs.zip vs) (fs.zip vs)).foldl (fun s (f, n, v) => s.storeOne n true f v) s
  else s.storeAll size relaxed fs vs

/-- Stores: the poison check, then the writes (R212). -/
def State.store (s : State) (vec : Bool) (vas : List Word) (size : Nat) (loc : Word → Found) (vs : List Nat) (go : State → State) :
    State :=
  s.access vas loc .write (fun s fs =>
    match s.storePoison size fs fs with
    | some va => s.trap 0x14 va
    | none => go (s.storeFound vec size fs vs))

/-- Scalar forms of rows 8 and 9 accept `RLX` but no format (R196, R220). -/
def scalarForm (s : State) (k : State → State) : Res := .next (if s.cpu.pfxf then s.illegal else k s)

/-! ### Scalar loads and stores -/

/-- Bytes of a load size (R86). -/
def ldBytes : LdSize → Nat
  | .d => 8
  | .wz | .ws => 4
  | .hz | .hs => 2
  | .bz | .bs => 1

/-- Bytes of a store size (R86). -/
def stBytes : StSize → Nat
  | .d => 8
  | .w => 4
  | .h => 2
  | .b => 1

/-- One scalar load through `loc` (R222). -/
def State.loadScalar (s : State) (sz : LdSize) (d : Reg) (va : Word) (loc : Word → Found) : State :=
  s.load [va] (ldBytes sz) loc (fun s vs => s.accessDone [(d.toNat, (extend sz (vs.headD 0)).toNat)])

/-- `Locate` for scalar loads. -/
def State.findRead (s : State) (size : Nat) (va : Word) : Found := s.locate va size .read
/-- `Locate` for stores. -/
def State.findWrite (s : State) (size : Nat) (va : Word) : Found := s.locate va size .write
/-- `Locate` for atomics and full/empty accesses (R225, R228). -/
def State.findBoth (s : State) (va : Word) : Found := s.locate va 8 .both

/-- `LD` (R222). -/
def State.doLd (s : State) (sz : LdSize) (d a : Reg) (imm : Word) : State :=
  s.loadScalar sz d (s.ea a imm) (s.findRead (ldBytes sz))

/-- `ST` (R222). -/
def State.doSt (s : State) (sz : StSize) (a b : Reg) (imm : Word) : State :=
  s.store false [s.ea a imm] (stBytes sz) (s.findWrite (stBytes sz)) [(s.rd b).toNat] (fun s => s.accessDone [])

/-- `LD` (R222). -/
def execLd (sz : LdSize) (d a : Reg) (imm : BitVec 16) (s : State) : Res := scalarForm s (fun s => s.doLd sz d a (sx16 imm))
/-- `LD` with a long offset (R222). -/
def execLdT4 (sz : LdSize) (d a : Reg) (imm : BitVec 48) (s : State) : Res := scalarForm s (fun s => s.doLd sz d a (sx48 imm))
/-- `ST` (R222). -/
def execSt (sz : StSize) (a b : Reg) (imm : BitVec 16) (s : State) : Res := scalarForm s (fun s => s.doSt sz a b (sx16 imm))
/-- `ST` with a long offset (R222). -/
def execStT4 (sz : StSize) (a b : Reg) (imm : BitVec 48) (s : State) : Res := scalarForm s (fun s => s.doSt sz a b (sx48 imm))

/-- `LDL` (R222, R223). -/
def execLdl (sz : LdSize) (d a : Reg) (imm : BitVec 16) (s : State) : Res :=
  scalarForm s (fun s => s.loadScalar sz d (s.ea a (sx16 imm)) (fun va => s.locateLocal va (ldBytes sz) .read))
/-- `STL` (R222, R223). -/
def execStl (sz : StSize) (a b : Reg) (imm : BitVec 16) (s : State) : Res :=
  scalarForm s (fun s => s.store false [s.ea a (sx16 imm)] (stBytes sz) (fun va => s.locateLocal va (stBytes sz) .write)
    [(s.rd b).toNat] (fun s => s.accessDone []))

/-- The word addresses of a multiple (R222). -/
def wordsFrom (va : Word) (n : Nat) : List Word := (List.range n).map (fun k => va + word (8 * k))

/-- `LDM` (R222, R223). -/
def State.doLdm (s : State) (n : BitVec 3) (d a : Reg) (imm : Word) : State :=
  s.load (wordsFrom (s.ea a imm) (n.toNat + 1)) 8 (s.findRead 8) (fun s vs =>
    s.accessDone ((regRange d (n.toNat + 1)).zip vs))
/-- `LDM` (R222). -/
def execLdm (n : BitVec 3) (d a : Reg) (imm : BitVec 16) (s : State) : Res := scalarForm s (fun s => s.doLdm n d a (sx16 imm))
/-- `LDM` with a long offset (R222). -/
def execLdmT4 (n : BitVec 3) (d a : Reg) (imm : BitVec 48) (s : State) : Res :=
  scalarForm s (fun s => s.doLdm n d a (sx48 imm))

/-- `STM` (R222, R223). -/
def State.doStm (s : State) (n : BitVec 3) (a b : Reg) (imm : Word) : State :=
  s.store false (wordsFrom (s.ea a imm) (n.toNat + 1)) 8 (s.findWrite 8)
    ((regRange b (n.toNat + 1)).map (fun r => (s.cpu.rdNum r).toNat)) (fun s => s.accessDone [])
/-- `STM` (R222). -/
def execStm (n : BitVec 3) (a b : Reg) (imm : BitVec 16) (s : State) : Res := scalarForm s (fun s => s.doStm n a b (sx16 imm))
/-- `STM` with a long offset (R222). -/
def execStmT4 (n : BitVec 3) (a b : Reg) (imm : BitVec 48) (s : State) : Res :=
  scalarForm s (fun s => s.doStm n a b (sx48 imm))

/-! ### Vector loads and stores -/

/-- The memory format of a vector access (R197): element bytes and, for narrow elements, the format; none where a pending
format is an illegal operand, which is found after the check of undersized stalls (DESIGN CHOICE, log 124). -/
def State.memFormat (s : State) (m : VecM) : Option (Nat × Option PackFmt) :=
  let plainSize := if m.wide then 8 else 4
  if !s.cpu.pfxf then some (plainSize, none)
  else if m.wide then none
  else match Fmt.ofCode (BitVec.ofNat 4 s.cpu.pfxc) with
    | some .f32 | some .i32 => some (plainSize, none)
    | some f => (fmtPack? f).map (fun p => (packSize p, some p))
    | none => none

/-- The active lanes of a vector access (R223). -/
def State.activeLanes (s : State) (m : VecM) : List Nat := (List.range (laneCount m.wide)).filter (s.active m)

/-- A vector load (R222, R223): `addr` gives the address of lane i for an element size; the lanes that are widened raise their flags (R164,
R182). -/
def State.loadVec (s : State) (m : VecM) (d : VReg) (addr : Nat → Nat → Word) (loc : Nat → Word → Found) : State :=
  match s.memFormat m with
  | none => s.illegal
  | some (size, f) =>
    let ls := s.activeLanes m
    s.load (ls.map (addr size)) size (loc size) (fun s vs =>
      let ws := vs.map (fun v => match f with | some p => widen p v | none => (v, 0#5))
      let got := ls.zip (ws.map (·.1))
      let v := s.merge m d ((List.range (laneCount m.wide)).map (fun i => (lookup i got).getD 0))
      (s.modCpu (fun t => t.live.raise (orFlags (ws.map (·.2))))).accessDone [(vNum d, v.toNat)])

/-- A vector store (R222, R223): a narrowing store raises its flags at issue (R197). -/
def State.storeVec (s : State) (m : VecM) (b : VReg) (addr : Nat → Nat → Word) (loc : Nat → Word → Found) : State :=
  match s.memFormat m with
  | none => s.illegal
  | some (size, f) =>
    let ls := s.activeLanes m
    let vals := ls.map (fun i =>
      let x := lane (laneBits m.wide) (s.vrd b) i
      match f with
      | some p => narrow p s.rm x
      | none => (x, 0#5))
    s.store true (ls.map (addr size)) size (loc size) (vals.map (·.1)) (fun s =>
      (s.modCpu (fun t => t.raise (orFlags (vals.map (·.2))))).accessDone [])

/-- Element i at `base` + i × e (R222). -/
def packed (base : Word) (e i : Nat) : Word := base + word (i * e)
/-- Element i at `base` + i × stride (R222). -/
def strided (base stride : Word) (_ i : Nat) : Word := base + word i * stride
/-- Element i at `base` + the sign-extended offset in lane i (R222). -/
def gathered (base : Word) (wide : Bool) (v : VecReg) (_ i : Nat) : Word :=
  base + wordInt (toSigned (laneBits wide) (lane (laneBits wide) v i))

/-- `LDV` (R222). -/
def State.doLdv (s : State) (m : VecM) (d : VReg) (a : Reg) (imm : Word) : State :=
  s.loadVec m d (packed (s.ea a imm)) s.findRead
/-- `LDV` (R222). -/
def execLdv (m : VecM) (d : VReg) (a : Reg) (imm : BitVec 16) (s : State) : Res := .next (s.doLdv m d a (sx16 imm))
/-- `LDV` with a long offset (R222). -/
def execLdvT4 (m : VecM) (d : VReg) (a : Reg) (imm : BitVec 48) (s : State) : Res := .next (s.doLdv m d a (sx48 imm))
/-- `LDVS` (R222). -/
def State.doLdvs (s : State) (m : VecM) (d : VReg) (a b : Reg) (imm : Word) : State :=
  s.loadVec m d (strided (s.ea a imm) (s.rd b)) s.findRead
/-- `LDVS` (R222). -/
def execLdvs (m : VecM) (d : VReg) (a b : Reg) (imm : BitVec 16) (s : State) : Res := .next (s.doLdvs m d a b (sx16 imm))
/-- `LDVS` with a long offset (R222). -/
def execLdvsT4 (m : VecM) (d : VReg) (a b : Reg) (imm : BitVec 48) (s : State) : Res := .next (s.doLdvs m d a b (sx48 imm))
/-- `LDVG` (R222). -/
def State.doLdvg (s : State) (m : VecM) (d : VReg) (a : Reg) (b : VReg) (imm : Word) : State :=
  s.loadVec m d (gathered (s.ea a imm) m.wide (s.vrd b)) s.findRead
/-- `LDVG` (R222). -/
def execLdvg (m : VecM) (d : VReg) (a : Reg) (b : VReg) (imm : BitVec 16) (s : State) : Res := .next (s.doLdvg m d a b (sx16 imm))
/-- `LDVG` with a long offset (R222). -/
def execLdvgT4 (m : VecM) (d : VReg) (a : Reg) (b : VReg) (imm : BitVec 48) (s : State) : Res :=
  .next (s.doLdvg m d a b (sx48 imm))
/-- `LDLV` (R222, R223). -/
def execLdlv (m : VecM) (d : VReg) (a : Reg) (imm : BitVec 16) (s : State) : Res :=
  .next (s.loadVec m d (packed (s.ea a (sx16 imm))) (fun size va => s.locateLocal va size .read))

/-- `STV` (R222). -/
def State.doStv (s : State) (m : VecM) (a : Reg) (b : VReg) (imm : Word) : State :=
  s.storeVec m b (packed (s.ea a imm)) s.findWrite
/-- `STV` (R222). -/
def execStv (m : VecM) (a : Reg) (b : VReg) (imm : BitVec 16) (s : State) : Res := .next (s.doStv m a b (sx16 imm))
/-- `STV` with a long offset (R222). -/
def execStvT4 (m : VecM) (a : Reg) (b : VReg) (imm : BitVec 48) (s : State) : Res := .next (s.doStv m a b (sx48 imm))
/-- `STVS` (R222): the stride is in d. -/
def State.doStvs (s : State) (m : VecM) (d a : Reg) (b : VReg) (imm : Word) : State :=
  s.storeVec m b (strided (s.ea a imm) (s.rd d)) s.findWrite
/-- `STVS` (R222). -/
def execStvs (m : VecM) (d a : Reg) (b : VReg) (imm : BitVec 16) (s : State) : Res := .next (s.doStvs m d a b (sx16 imm))
/-- `STVS` with a long offset (R222). -/
def execStvsT4 (m : VecM) (d a : Reg) (b : VReg) (imm : BitVec 48) (s : State) : Res := .next (s.doStvs m d a b (sx48 imm))
/-- `STVG` (R222): the offsets are in vector d. -/
def State.doStvg (s : State) (m : VecM) (d : VReg) (a : Reg) (b : VReg) (imm : Word) : State :=
  s.storeVec m b (gathered (s.ea a imm) m.wide (s.vrd d)) s.findWrite
/-- `STVG` (R222). -/
def execStvg (m : VecM) (d : VReg) (a : Reg) (b : VReg) (imm : BitVec 16) (s : State) : Res := .next (s.doStvg m d a b (sx16 imm))
/-- `STVG` with a long offset (R222). -/
def execStvgT4 (m : VecM) (d : VReg) (a : Reg) (b : VReg) (imm : BitVec 48) (s : State) : Res :=
  .next (s.doStvg m d a b (sx48 imm))
/-- `STLV` (R222, R223). -/
def execStlv (m : VecM) (a : Reg) (b : VReg) (imm : BitVec 16) (s : State) : Res :=
  .next (s.storeVec m b (packed (s.ea a (sx16 imm))) (fun size va => s.locateLocal va size .write))

/-! ### Other modules of the pod (R224) -/

/-- Sends an access of `size` bytes to another module, or traps for a module that is not in the pod or that no port reaches, for an
address that R203 and R204 do not allow, and for one of the local store (log 20); the strand holds its slot for the answer. -/
def State.remoteAccess (s : State) (mod : Word) (va : Word) (size : Nat) (msg : List Word) (dest : Option (Nat × Nat × Bool)) : State :=
  if !s.pod.contains mod.toNat || 36 ≤ s.linkDown.length then s.trap 0x13 va
  else match addrTrap va size with
  | some (.trap c v) => s.trap c v
  | _ =>
    if bitOf va 56 then s.trap 0x13 va
    else
    let s := s.drain (fun p => p.die == s.here)
    { s with linkOut := s.linkOut ++ [mod :: va :: msg] }.modCpu (fun t => { t with wait := .remote s.now va dest })

/-- Is a load size sign-extended (R86)? -/
def ldSigned : LdSize → Bool
  | .ws | .hs | .bs => true
  | .d | .wz | .hz | .bz => false

/-- `LDX` (R224). -/
def State.doLdx (s : State) (sz : LdSize) (d a b : Reg) (imm : Word) : State :=
  let m := s.rd b
  if 64 ≤ m.toNat then s.illegal
  else if m.toNat = s.modNum then s.doLd sz d a imm
  else s.remoteAccess m (s.ea a imm) (ldBytes sz) [word (ldBytes sz)] (some (d.toNat, ldBytes sz, ldSigned sz))

/-- `STX` (R224): the module is in d. -/
def State.doStx (s : State) (sz : StSize) (d a b : Reg) (imm : Word) : State :=
  let m := s.rd d
  if 64 ≤ m.toNat then s.illegal
  else if m.toNat = s.modNum then s.doSt sz a b imm
  else s.remoteAccess m (s.ea a imm) (stBytes sz) [word (stBytes sz), s.rd b] none

/-- `LDX` (R224). -/
def execLdx (sz : LdSize) (d a b : Reg) (imm : BitVec 16) (s : State) : Res := scalarForm s (fun s => s.doLdx sz d a b (sx16 imm))
/-- `LDX` with a long offset (R224). -/
def execLdxT4 (sz : LdSize) (d a b : Reg) (imm : BitVec 48) (s : State) : Res :=
  scalarForm s (fun s => s.doLdx sz d a b (sx48 imm))
/-- `STX` (R224). -/
def execStx (sz : StSize) (d a b : Reg) (imm : BitVec 16) (s : State) : Res := scalarForm s (fun s => s.doStx sz d a b (sx16 imm))
/-- `STX` with a long offset (R224). -/
def execStxT4 (sz : StSize) (d a b : Reg) (imm : BitVec 48) (s : State) : Res :=
  scalarForm s (fun s => s.doStx sz d a b (sx48 imm))

/-! ### Accesses that never park (R287) -/

/-- The status of an access to an absent block (R287). -/
def State.absentStatus (s : State) (d : Nat) (k : BlockKey) : Nat :=
  match s.block? d k with
  | none => 1
  | some b => if b.faultPending then 3
    else if b.queue.isEmpty && b.mark.isNone && b.frame == .absent then 1 else 2

/-- Is the location an absent block, and with which status? -/
def State.noPark (s : State) (f : Found) : Option Nat :=
  match f with
  | .absent k home _ => some (s.absentStatus home k)
  | _ => none

/-- `LDNP` (R287): the status goes to b. -/
def State.doLdnp (s : State) (sz : LdSize) (d a b : Reg) (imm : Word) : State :=
  let va := s.ea a imm
  match s.noPark (s.findRead (ldBytes sz) va) with
  | some st => ((s.modCpu (fun t => t.answer [(d.toNat, 0), (b.toNat, st)] false false)).dropCarried).done
  | none => s.load [va] (ldBytes sz) (s.findRead (ldBytes sz)) (fun s vs =>
      s.accessDone [(d.toNat, (extend sz (vs.headD 0)).toNat), (b.toNat, 0)])

/-- `STNP` (R287): the status goes to d. -/
def State.doStnp (s : State) (sz : StSize) (d a b : Reg) (imm : Word) : State :=
  let va := s.ea a imm
  match s.noPark (s.findWrite (stBytes sz) va) with
  | some st => ((s.modCpu (fun t => t.answer [(d.toNat, st)] false false)).dropCarried).done
  | none => s.store false [va] (stBytes sz) (s.findWrite (stBytes sz)) [(s.rd b).toNat] (fun s => s.accessDone [(d.toNat, 0)])

/-- `LDNP` (R287). -/
def execLdnp (sz : LdSize) (d a b : Reg) (imm : BitVec 16) (s : State) : Res :=
  scalarForm s (fun s => s.doLdnp sz d a b (sx16 imm))
/-- `LDNP` with a long offset (R287). -/
def execLdnpT4 (sz : LdSize) (d a b : Reg) (imm : BitVec 48) (s : State) : Res :=
  scalarForm s (fun s => s.doLdnp sz d a b (sx48 imm))
/-- `STNP` (R287). -/
def execStnp (sz : StSize) (d a b : Reg) (imm : BitVec 16) (s : State) : Res :=
  scalarForm s (fun s => s.doStnp sz d a b (sx16 imm))
/-- `STNP` with a long offset (R287). -/
def execStnpT4 (sz : StSize) (d a b : Reg) (imm : BitVec 48) (s : State) : Res :=
  scalarForm s (fun s => s.doStnp sz d a b (sx48 imm))

/-! ### Releases (R232, R233) -/

/-- Scopes that reach beyond the issuing die (R25). -/
def wideScope : Scope → Bool
  | .str | .core | .quad | .sect | .die => false
  | .mod | .node | .pod | .part | .lnch | .join | .sys => true

/-- A release or fence at a scope: at a scope wider than the die, every posted write of the issuing die reaches its single
copy (log 14). -/
def State.release (s : State) (sc : Scope) : State :=
  if wideScope sc then s.drain (fun p => p.die == s.here) else s

/-! ### Full/empty accesses (R225, R226) -/

/-- The word of a full/empty access or an atomic, located for reading and writing (R225, R228); poison is consumed
(R212). Only memory has full/empty bits: a device register raises the protection trap. `go` is given the found word too, whose leaves have D
set where the word or its bit is written (R393). -/
def State.word1 (s : State) (va : Word) (go : State → Found → Loc → State) : State :=
  s.access [va] s.findBoth .both (fun s fs =>
    match fs with
    | [.at_ l v c] => if s.anyPoison l 8 then s.trap 0x14 v else go s (.at_ l v c) l
    | _ => s.trap 0x13 va)

/-- Posted writes of the issuing die to a word come before a change of its full/empty bit (R219, R230). -/
def State.drainWord (s : State) (l : Loc) : State := s.drain (fun p => p.die == s.here && p.at_.overlaps p.size l 8)

/-- The end of a full/empty access. -/
def State.feDone (s : State) (regs : List (Nat × Nat)) : State :=
  (((s.modCpu (fun t => t.answer regs true false)).dropCarried).done).serveWords

/-- `LDFE` and `LDFF` (R225). -/
def State.doLoadFull (s : State) (empties : Bool) (d a : Reg) (imm : Word) : State :=
  let va := s.ea a imm
  s.word1 va (fun s f l =>
    if !s.fullAt l then s.waitWord l va f.comp? (if empties then .ldfe else .ldff) 0#64 d.toNat
    else
      let v := s.readAt s.here l 8
      let s := s.drainWord l
      (if empties then (s.dirtyFound f).setFullAt l false else s).feDone [(d.toNat, v)])

/-- `LDFS` (R225). -/
def State.doLdfs (s : State) (d a b : Reg) (imm : Word) : State :=
  s.word1 (s.ea a imm) (fun s _ l =>
    let s := s.drainWord l
    s.feDone [(d.toNat, s.readAt s.here l 8), (b.toNat, boolNat (s.fullAt l))])

/-- `STEF` and `STFF` (R225): a release at `.pod`. -/
def State.doStoreFull (s : State) (waits : Bool) (a b : Reg) (imm : Word) : State :=
  let va := s.ea a imm
  let v := s.rd b
  s.word1 va (fun s f l =>
    let s := s.release .pod
    if waits && s.fullAt l then s.waitWord l va f.comp? .stef v 0
    else (((s.dirtyFound f).writeAt s.here l v.toNat 8).setFullAt l true).feDone [])

/-- `FESET` (R225): `.f` releases. -/
def State.doFeset (s : State) (f : Bool) (a : Reg) (imm : Word) : State :=
  s.word1 (s.ea a imm) (fun s w l => (((if f then s.release .pod else s.drainWord l).dirtyFound w).setFullAt l f).feDone [])

/-- `LDFE` (R225). -/
def execLdfe (d a : Reg) (imm : BitVec 16) (s : State) : Res := plain s (fun s => s.doLoadFull true d a (sx16 imm))
/-- `LDFE` with a long offset (R225). -/
def execLdfeT4 (d a : Reg) (imm : BitVec 48) (s : State) : Res := plain s (fun s => s.doLoadFull true d a (sx48 imm))
/-- `LDFF` (R225). -/
def execLdff (d a : Reg) (imm : BitVec 16) (s : State) : Res := plain s (fun s => s.doLoadFull false d a (sx16 imm))
/-- `LDFF` with a long offset (R225). -/
def execLdffT4 (d a : Reg) (imm : BitVec 48) (s : State) : Res := plain s (fun s => s.doLoadFull false d a (sx48 imm))
/-- `LDFS` (R225). -/
def execLdfs (d a b : Reg) (imm : BitVec 16) (s : State) : Res := plain s (fun s => s.doLdfs d a b (sx16 imm))
/-- `LDFS` with a long offset (R225). -/
def execLdfsT4 (d a b : Reg) (imm : BitVec 48) (s : State) : Res := plain s (fun s => s.doLdfs d a b (sx48 imm))
/-- `STEF` (R225). -/
def execStef (a b : Reg) (imm : BitVec 16) (s : State) : Res := plain s (fun s => s.doStoreFull true a b (sx16 imm))
/-- `STEF` with a long offset (R225). -/
def execStefT4 (a b : Reg) (imm : BitVec 48) (s : State) : Res := plain s (fun s => s.doStoreFull true a b (sx48 imm))
/-- `STFF` (R225). -/
def execStff (a b : Reg) (imm : BitVec 16) (s : State) : Res := plain s (fun s => s.doStoreFull false a b (sx16 imm))
/-- `STFF` with a long offset (R225). -/
def execStffT4 (a b : Reg) (imm : BitVec 48) (s : State) : Res := plain s (fun s => s.doStoreFull false a b (sx48 imm))
/-- `FESET.e` (R225). -/
def execFesetE (a : Reg) (imm : BitVec 16) (s : State) : Res := plain s (fun s => s.doFeset false a (sx16 imm))
/-- `FESET.e` with a long offset (R225). -/
def execFesetET4 (a : Reg) (imm : BitVec 48) (s : State) : Res := plain s (fun s => s.doFeset false a (sx48 imm))
/-- `FESET.f` (R225). -/
def execFesetF (a : Reg) (imm : BitVec 16) (s : State) : Res := plain s (fun s => s.doFeset true a (sx16 imm))
/-- `FESET.f` with a long offset (R225). -/
def execFesetFT4 (a : Reg) (imm : BitVec 48) (s : State) : Res := plain s (fun s => s.doFeset true a (sx48 imm))

/-! ### Atomics (R228) -/

/-- The live join that a handle names, with its die (R26, R366, R367); a DIE of 24 or more names none (DESIGN CHOICE, log 123). -/
def State.liveJoin (s : State) (h : Nat) : Option (Nat × Join) :=
  let d := h / 2 ^ 27 % 32
  if h / 2 ^ 48 ≠ 0 ∨ h / 2 ^ 10 % 2 ^ 17 ≠ 0 ∨ h / 2 ^ 32 = 0 then none
  else ((s.die d).joins.find? (fun j => j.idx == h % 1024 && j.gen == h / 2 ^ 32)).map (fun j => (d, j))

/-- Is a scope usable: `.join` needs a live join in JMEM (R26)? -/
def State.scopeOk (s : State) (sc : Scope) : Bool :=
  sc != .join || (s.liveJoin (field s.cpu.jmem 47 0)).isSome

/-- An atomic (R228): `new` gives the new word from the old one. -/
def State.atomic (s : State) (sc : Scope) (d a : Reg) (imm : Word) (new : Word → Word) : State :=
  if !s.scopeOk sc then s.illegal
  else
    s.word1 (s.ea a imm) (fun s f l =>
      let s := (s.release sc).dirtyFound f
      let old := word (s.readAt s.here l 8)
      ((s.writeAt s.here l (new old).toNat 8).modCpu (fun t => t.answer [(d.toNat, old.toNat)] true false)).dropCarried.done)

/-- The lesser of two signed words. -/
def sMin (x y : Word) : Word := if x.slt y then x else y
/-- The greater of two signed words. -/
def sMax (x y : Word) : Word := if x.slt y then y else x

/-- `AADD` (R228). -/
def execAadd (sc : Scope) (d a b : Reg) (imm : BitVec 16) (s : State) : Res :=
  plain s (fun s => s.atomic sc d a (sx16 imm) (fun o => o + s.rd b))
/-- `AADD` with a long offset (R228). -/
def execAaddT4 (sc : Scope) (d a b : Reg) (imm : BitVec 48) (s : State) : Res :=
  plain s (fun s => s.atomic sc d a (sx48 imm) (fun o => o + s.rd b))
/-- `AMIN` (R228). -/
def execAmin (sc : Scope) (d a b : Reg) (imm : BitVec 16) (s : State) : Res :=
  plain s (fun s => s.atomic sc d a (sx16 imm) (fun o => sMin o (s.rd b)))
/-- `AMIN` with a long offset (R228). -/
def execAminT4 (sc : Scope) (d a b : Reg) (imm : BitVec 48) (s : State) : Res :=
  plain s (fun s => s.atomic sc d a (sx48 imm) (fun o => sMin o (s.rd b)))
/-- `AMAX` (R228). -/
def execAmax (sc : Scope) (d a b : Reg) (imm : BitVec 16) (s : State) : Res :=
  plain s (fun s => s.atomic sc d a (sx16 imm) (fun o => sMax o (s.rd b)))
/-- `AMAX` with a long offset (R228). -/
def execAmaxT4 (sc : Scope) (d a b : Reg) (imm : BitVec 48) (s : State) : Res :=
  plain s (fun s => s.atomic sc d a (sx48 imm) (fun o => sMax o (s.rd b)))
/-- `AAND` (R228). -/
def execAand (sc : Scope) (d a b : Reg) (imm : BitVec 16) (s : State) : Res :=
  plain s (fun s => s.atomic sc d a (sx16 imm) (fun o => o &&& s.rd b))
/-- `AAND` with a long offset (R228). -/
def execAandT4 (sc : Scope) (d a b : Reg) (imm : BitVec 48) (s : State) : Res :=
  plain s (fun s => s.atomic sc d a (sx48 imm) (fun o => o &&& s.rd b))
/-- `AOR` (R228). -/
def execAor (sc : Scope) (d a b : Reg) (imm : BitVec 16) (s : State) : Res :=
  plain s (fun s => s.atomic sc d a (sx16 imm) (fun o => o ||| s.rd b))
/-- `AOR` with a long offset (R228). -/
def execAorT4 (sc : Scope) (d a b : Reg) (imm : BitVec 48) (s : State) : Res :=
  plain s (fun s => s.atomic sc d a (sx48 imm) (fun o => o ||| s.rd b))
/-- `AXOR` (R228). -/
def execAxor (sc : Scope) (d a b : Reg) (imm : BitVec 16) (s : State) : Res :=
  plain s (fun s => s.atomic sc d a (sx16 imm) (fun o => o ^^^ s.rd b))
/-- `AXOR` with a long offset (R228). -/
def execAxorT4 (sc : Scope) (d a b : Reg) (imm : BitVec 48) (s : State) : Res :=
  plain s (fun s => s.atomic sc d a (sx48 imm) (fun o => o ^^^ s.rd b))
/-- `ASWP` (R228). -/
def execAswp (sc : Scope) (d a b : Reg) (imm : BitVec 16) (s : State) : Res :=
  plain s (fun s => s.atomic sc d a (sx16 imm) (fun _ => s.rd b))
/-- `ASWP` with a long offset (R228). -/
def execAswpT4 (sc : Scope) (d a b : Reg) (imm : BitVec 48) (s : State) : Res :=
  plain s (fun s => s.atomic sc d a (sx48 imm) (fun _ => s.rd b))
/-- `ACAS` (R228): d holds the expected value. -/
def execAcas (sc : Scope) (d a b : Reg) (imm : BitVec 16) (s : State) : Res :=
  plain s (fun s => s.atomic sc d a (sx16 imm) (fun o => if o = s.rd d then s.rd b else o))
/-- `ACAS` with a long offset (R228). -/
def execAcasT4 (sc : Scope) (d a b : Reg) (imm : BitVec 48) (s : State) : Res :=
  plain s (fun s => s.atomic sc d a (sx48 imm) (fun o => if o = s.rd d then s.rd b else o))
/-- `AFADD` (R228): FP64, nearest even, no sticky flag. -/
def execAfadd (sc : Scope) (d a b : Reg) (imm : BitVec 16) (s : State) : Res :=
  plain s (fun s => s.atomic sc d a (sx16 imm) (fun o => word (f64.add .rne o.toNat (s.rd b).toNat).1))
/-- `AFADD` with a long offset (R228). -/
def execAfaddT4 (sc : Scope) (d a b : Reg) (imm : BitVec 48) (s : State) : Res :=
  plain s (fun s => s.atomic sc d a (sx48 imm) (fun o => word (f64.add .rne o.toNat (s.rd b).toNat).1))

/-! ### `FENCE` and `WAITA` (R241, R242) -/

/-- Does a scope of one writer include another (R25)? The codes 0 to 7 nest; that `.node` holds no writer outside the module is a
DESIGN CHOICE (log 31). -/
def Writer.includes (me : Writer) (sc : Scope) (w : Writer) : Bool :=
  let own := me.ctx.isSome && w.ctx == me.ctx
  let core := own || (me.core.isSome && w.core == me.core)
  let quad := core || me.quads.any w.quads.contains
  let sect := quad || me.quads.any (fun q => w.quads.any (fun r => r / 4 == q / 4))
  let die := sect || (me.die.isSome && w.die == me.die)
  match sc with
  | .str => own
  | .core => core
  | .quad => quad
  | .sect => sect
  | .die => die
  | .mod | .node => die || w.outside == 0
  | .pod => die || w.outside != 1
  | .sys => die || w.outside != 2
  | .part => w.part == me.part
  | .lnch => me.lid != 0#64 && w.lid == me.lid
  | .join => me.join != 0 && w.join == me.join

/-- Has a writer of a scope stored into a line since its context last saw it? -/
def LineCopy.storedBy (c : LineCopy) (me : Writer) (sc : Scope) : Bool := c.stores.any (fun x => !x.seen && me.includes sc x.by_)

/-- A fence at a scope shows a context the stores of the scope's writers into the lines it holds (R44): it fetches those lines again when
control next enters them, the current one once control has left it. -/
def Thread.refresh (t : Thread) (me : Writer) (sc : Scope) : Thread :=
  { t with
    lines := t.lines.map (fun c => { c with
      stores := c.stores.map (fun x => { x with seen := x.seen || me.includes sc x.by_ })
      stale := c.stale || (some c.key != t.curLine && c.storedBy me sc) })
    staleCur := t.staleCur || t.lines.any (fun c => some c.key == t.curLine && c.storedBy me sc) }

/-- `FENCE` (R233, R241): posted writes within its reach are drained, at `.sys` those of every die (R408), and line copies whose writer it
includes are fetched again when control next enters them (R44). -/
def execFence (sc : Scope) (s : State) : Res :=
  plain s fun s =>
    if !s.scopeOk sc then s.illegal
    else
      let s := if sc == .sys then s.drain (fun _ => true) else s.release sc
      (s.modCpu (fun t => t.quiet.refresh s.writer sc)).done

/-- `WAITA` (R242): every access of the strand is performed at its single copy, and no register is pending. -/
def execWaita (s : State) : Res :=
  plain s fun s =>
    let c := s.cur
    ((s.drain (fun p => p.ctx == c)).modCpu Thread.quiet).done

/-! ### Gang stops that wait for answers (R243) -/

/-- The gang-stop record of a core (R265). -/
def Core.stopRecord (k : Core) (core gen : Nat) : List Word :=
  [word (0x04 + (core % 2 ^ 16) <<< 16 + (gen % 2 ^ 32) <<< 32), k.icnt, k.msent, k.mrecv]

/-- Is some access of a core's user slots to another module unanswered (R224, R243)? A full/empty access that waits in a word-waiter table
is not counted (DESIGN CHOICE, log 127). -/
def State.answersDue (s : State) (core : Nat) : Bool :=
  (s.core core).slots.any (fun x => match (s.thread? (.strand x.2)).map (fun (t : Thread) => t.wait) with
    | some (.remote ..) => true
    | _ => false)

/-- A core that is stopped reports it once the accesses of its strands are performed (R243, R264): its record, and the event. -/
def State.reportStop (s : State) (core : Nat) : State :=
  match (s.core core).stopping, s.owner core with
  | some gen, some p =>
    if s.answersDue core then s
    else
      let s := s.modCore core (fun k => { k with stopping := none })
      (s.faultLog p.num ((s.core core).stopRecord core gen)).queueEvent core { cause := 0x3F, val := word gen }
  | _, _ => s

end Sys2Proof.Machine
end

