-- ==== Sys2Proof/Machine/Blocks.lean ====
section
/-! DEFINITION. `BHINT`, the Pewter arbiter and the events of the memory path (R229, R276 to R290, R32, R134, R224). -/

namespace Sys2Proof.Machine

/-! ### `BHINT` (R288) -/

/-- `TranslateQuiet` (R288): the composite of an address, or none; nothing is posted. -/
def State.quiet (s : State) (va : Word) : Option Comp :=
  if bitOf va 56 then none
  else match s.part? s.cpu.part with
    | none => none
    | some p =>
      match s.lookupComp s.here p s.cpu.asid va.toNat with
      | .ok c _ => some c
      | _ => none

/-- Prefetch marks of a partition on a die. -/
def State.marks (s : State) (d part : Nat) : Nat :=
  ((s.die d).blocks.filter (fun b => b.key.part == part && b.mark.isSome)).length

/-- Pinned blocks of a partition on a die (R283). -/
def State.pinned (s : State) (d part : Nat) : Nat :=
  ((s.die d).blocks.filter (fun b => b.key.part == part && 0 < b.pins)).length

/-- Adds a prefetch mark, once (R277). -/
def Block.addMark (b : Block) (now : Nat) : Block := { b with mark := some (b.mark.getD now) }

/-- A hint's answer (R288): 0 for a resident block, 1 for an absent one. -/
def State.hintDone (s : State) (d : Reg) (h : Nat) (k : BlockKey) : State :=
  (s.sweepBlocks h).answerDone d (if s.resident h k then 0#64 else 1#64)

/-- `BHINT`: the checks, then `act` on the block record. -/
def State.bhint (s : State) (d a : Reg) (imm : Word) (act : State → Nat → BlockKey → Block → Except Word State) : State :=
  let va := s.ea a imm
  if field va 63 57 ≠ 0 then s.trap 0x13 va
  else
    match s.quiet va, s.part? s.cpu.part with
    | some c, some p =>
      if !c.w then s.answerDone d denied
      else
        let k := blockOf p.num s.cpu.asid va
        let h := p.homeDie k.blk
        let b := (s.block? h k).getD { key := k }
        (match act s h k b with
         | .error r => s.answerDone d r
         | .ok s => s.hintDone d h k)
    | _, _ => s.answerDone d denied

/-- `BHINT.pf` (R288). -/
def hintPf (s : State) (h : Nat) (k : BlockKey) (b : Block) : Except Word State :=
  if b.frame == .resident then .ok s
  else if b.queue.isEmpty && b.mark.isNone && b.frame != .fetching && 256 ≤ s.marks h k.part then .error busy
  else .ok (s.setBlock h (b.addMark s.now))

/-- `BHINT.pin` (R283, R288). -/
def hintPin (s : State) (h : Nat) (k : BlockKey) (b : Block) : Except Word State :=
  let quota := match s.part? k.part with
    | some p => (lookup h p.pinq).getD p.pquota
    | none => 0
  if b.pins = 255 || (b.pins = 0 && quota ≤ s.pinned h k.part) then .error busy
  else
    let b := { b with pins := b.pins + 1, evict := false }
    .ok (s.setBlock h (if b.frame == .resident then b else b.addMark s.now))

/-- `BHINT.unpin` (R288, R289). -/
def hintUnpin (s : State) (h : Nat) (_ : BlockKey) (b : Block) : Except Word State :=
  if b.pins = 0 then .error badHandle
  else
    .ok (s.setBlock h { b with pins := b.pins - 1 })

/-- `BHINT.ev` (R288, R289). -/
def hintEv (s : State) (h : Nat) (k : BlockKey) (b : Block) : Except Word State :=
  if 0 < b.pins then .error denied
  else
    let s := if b.frame == .resident then s.setBlock h { b with evict := true } else s
    let s := if s.cpu.use = some k then s.modCpu (fun t => { t with use := none }) else s
    .ok (s.noteIdle k)

/-- `BHINT.pf` (R288). -/
def execBhintPf (d a : Reg) (imm : BitVec 16) (s : State) : Res := plain s (fun s => s.bhint d a (sx16 imm) hintPf)
/-- `BHINT.pf` with a long offset (R288). -/
def execBhintPfT4 (d a : Reg) (imm : BitVec 48) (s : State) : Res := plain s (fun s => s.bhint d a (sx48 imm) hintPf)
/-- `BHINT.pin` (R288). -/
def execBhintPin (d a : Reg) (imm : BitVec 16) (s : State) : Res := plain s (fun s => s.bhint d a (sx16 imm) hintPin)
/-- `BHINT.pin` with a long offset (R288). -/
def execBhintPinT4 (d a : Reg) (imm : BitVec 48) (s : State) : Res := plain s (fun s => s.bhint d a (sx48 imm) hintPin)
/-- `BHINT.unpin` (R288). -/
def execBhintUnpin (d a : Reg) (imm : BitVec 16) (s : State) : Res := plain s (fun s => s.bhint d a (sx16 imm) hintUnpin)
/-- `BHINT.unpin` with a long offset (R288). -/
def execBhintUnpinT4 (d a : Reg) (imm : BitVec 48) (s : State) : Res := plain s (fun s => s.bhint d a (sx48 imm) hintUnpin)
/-- `BHINT.ev` (R288). -/
def execBhintEv (d a : Reg) (imm : BitVec 16) (s : State) : Res := plain s (fun s => s.bhint d a (sx16 imm) hintEv)
/-- `BHINT.ev` with a long offset (R288). -/
def execBhintEvT4 (d a : Reg) (imm : BitVec 48) (s : State) : Res := plain s (fun s => s.bhint d a (sx48 imm) hintEv)

/-! ### The arbiter (R276 to R278) -/

/-- Is a block's queue eligible (R277)? -/
def Block.eligible (b : Block) : Bool :=
  b.frame == .absent && !b.faultPending && (!b.queue.isEmpty || b.mark.isSome)

/-- The oldest stamp of a queue (R277). -/
def Block.oldest (b : Block) : Nat :=
  match b.queue with
  | w :: _ => w.stamp
  | [] => b.mark.getD 0

/-- The score of a queue (R278). -/
def Block.score (b : Block) (now quant : Nat) : Nat :=
  b.queue.length + boolNat b.mark.isSome + (now - b.oldest) / quant

/-- The best of a list by an order. -/
def bestOf (better : Block → Block → Bool) : List Block → Option Block
  | [] => none
  | b :: rest =>
    match bestOf better rest with
    | none => some b
    | some c => if better c b then some c else some b

/-- `Choose` (R278). Queues that are equal in all it names go in the order of the die's list (DESIGN CHOICE, log 132). -/
def choose (now starve quant : Nat) (bs : List Block) : Option Block :=
  let e := bs.filter Block.eligible
  let starved := e.filter (fun b => !b.queue.isEmpty && starve < now - b.oldest)
  let older (a b : Block) : Bool := a.oldest < b.oldest || (a.oldest == b.oldest && a.key.blk < b.key.blk)
  if !starved.isEmpty then bestOf older starved
  else bestOf (fun a b => b.score now quant < a.score now quant || (a.score now quant == b.score now quant && older a b)) e

/-- Is a resident frame an eviction candidate (R281)? -/
def State.candidate (s : State) (b : Block) : Bool := b.frame == .resident && b.pins == 0 && s.useCount b.key == 0

/-- Is a frame of the die free (R281, R282)? -/
def Die.frameFree (x : Die) : Bool := (x.blocks.filter (fun b => b.frame != .absent)).length < 6144

/-- The frame that is evicted for a fetch (R281): that of the candidate idle longest; of several, the first of the die's list (DESIGN CHOICE,
log 136). -/
def State.victim (s : State) (d : Nat) : Option Block :=
  bestOf (fun a b => a.idleSince < b.idleSince) ((s.die d).blocks.filter s.candidate)

/-- Starts the fetch of a block (R278): in a free frame, else in one that is evicted for it, which it has once that is
written back; it counts among the fetches meanwhile (DEDUCED, log 134). -/
def State.startFetch (s : State) (d : Nat) (b : Block) : Option State :=
  if (s.die d).frameFree then some (s.setBlock d { b with frame := .fetching })
  else (s.victim d).map (fun v => (s.setBlock d { b with frame := .fetching, victim := some v.key }).startEvict d v.key)

/-- `FETCH_START` (R278): of the queue that the arbiter chooses, if there is a frame for it. -/
def execFetchStart (s : State) : Res :=
  match s.subject with
  | some (.fetchStart d) =>
    let x := s.die d
    let cfg := x.pewcfg
    if x.down || field cfg 7 0 ≤ (x.blocks.filter (fun b => b.frame == .fetching)).length then .next s
    else .next (((choose s.now (field cfg 51 32) (field cfg 31 16) x.blocks).bind (s.startFetch d)).getD s)
  | _ => .next s

/-- The pages of a block's fetch: what each 4 KiB page translates to at the home die, or why it fails (R279, R280, R398). -/
def State.fetchPages (s : State) (d : Nat) (p : Part) (k : BlockKey) : List (Nat × (Comp × List Nat ⊕ WalkFail)) :=
  (List.range 8).map (fun i =>
    let va := k.blk + 4096 * i
    (va, match s.translate d p k.asid va .read with
      | .ok c ipas => if c.w then .inl (c, ipas) else .inr ⟨false, 4, 0⟩
      | .fail f => .inr f
      | .conflict => .inr ⟨false, 5, 0⟩
      | .writeBack _ => .inr ⟨false, 5, 0⟩))

/-- The cells, empty words or poisoned words of `n` bytes from `a`, moved to `off`. -/
def Bank.part (m : Bank) (a n off : Nat) : Bank :=
  { cells := (m.cells.filter (fun c => a ≤ c.1 && c.1 < a + n)).map (fun c => (c.1 - a + off, c.2))
    empty := (m.empty.filter (fun w => a / 8 ≤ w && w < (a + n) / 8)).map (fun w => w - a / 8 + off / 8)
    poison := (m.poison.filter (fun w => a / 8 ≤ w && w < (a + n) / 8)).map (fun w => w - a / 8 + off / 8) }

/-- Two banks whose contents follow one another. -/
def Bank.join (a b : Bank) : Bank :=
  { cells := a.cells ++ b.cells, empty := a.empty ++ b.empty, poison := a.poison ++ b.poison }

/-- A location in HBM that a resident block now holds. -/
def toFrame (d : Nat) (b : Block) (l : Loc) : Loc :=
  match l with
  | .direct pa =>
    match (List.range 8).find? (fun i => b.outs.getD i 0 ≤ pa && pa < b.outs.getD i 0 + 4096) with
    | some i => .frame d b.key (4096 * i + (pa - b.outs.getD i 0))
    | none => l
  | _ => l

/-- The contents of a block's frame (R279): its pages' atoms with their bits; an atom in a retired region reads as poisoned (R212, R214). -/
def State.frameData (s : State) (b : Block) : Bank :=
  let data := b.outs.zipIdx.foldl (fun m x => m.join (s.hbm.part x.1 4096 (4096 * x.2))) {}
  if s.retired.isEmpty then data
  else { data with poison := (List.range 4096).filter (fun w => risingMem data.poison w || s.inRetired (b.paOf (8 * w))) }

/-- The end of a fetch whose pages all translate (R279): the atoms are read into the frame and every real waiter is released with a use. A
block that none waits for is idle from then on (R281; DESIGN CHOICE, log 136). -/
def State.fetchDone (s : State) (d : Nat) (b : Block) (comps : List (Nat × Comp × List Nat)) : State :=
  let k := b.key
  let s := s.drain (fun w => comps.any (fun c => w.at_.overlaps w.size (.direct c.2.1.pa) 4096))
  let s := comps.foldl (fun s c => s.cacheComp d k.part k.asid c.1 c.2.1 c.2.2) s
  let b' := { b with frame := .resident, dirty := [], outs := comps.map (fun c => c.2.1.pa)
                     walks := comps.map (fun c => (c.2.1.gsize, c.2.2)), queue := [], mark := none, idleSince := s.now }
  let s := s.setBlock d { b' with data := s.frameData b' }
  let s := s.mapDies (fun _ x => { x with words := x.words.map (fun w =>
    if w.part = k.part then { w with at_ := toFrame d b' w.at_ } else w) })
  b.queue.foldl (fun s w => (s.grantUse w.ctx k).releaseWaiter d w) s

/-- The pages of a fetch that translate. -/
def goodPages (pages : List (Nat × (Comp × List Nat ⊕ WalkFail))) : List (Nat × Comp × List Nat) :=
  pages.filterMap (fun x => match x.2 with | .inl c => some (x.1, c) | .inr _ => none)

/-- The pages of a fetch that fail. -/
def badPages (pages : List (Nat × (Comp × List Nat ⊕ WalkFail))) : List (Nat × WalkFail) :=
  pages.filterMap (fun x => match x.2 with | .inr f => some (x.1, f) | .inl _ => none)

/-- `FETCH_DONE` (R279): of a fetch that has its frame. -/
def execFetchDone (s : State) : Res :=
  match s.subject with
  | some (.fetchDone d k) =>
    (match s.block? d k, s.part? k.part with
     | some b, some p =>
       let pages := s.fetchPages d p k
       if b.frame != .fetching || b.victim.isSome || !(badPages pages).isEmpty then .next s else .next (s.fetchDone d b (goodPages pages))
     | _, _ => .next s)
  | _ => .next s

/-- Marks the records of parked waiters with a CAUSE (R140, R280). -/
def State.markParked (s : State) (ws : List Waiter) (cause : Nat) : State :=
  ws.foldl (fun s w => s.modThread w.ctx (fun t => match t.place with
    | .parked old d => if old = 0x09 then t else { t with place := .parked cause d }
    | _ => t)) s

/-- Failing pages of a block are posted with the queue's real waiters, each as an entry of the home die; those that find every entry live
are kept (R280, R402). -/
def State.postPages (s : State) (d : Nat) (b : Block) (bad : List (Nat × WalkFail)) : State :=
  let (s, toks, left) := bad.foldl (fun (acc : State × List Nat × List (Nat × WalkFail)) x =>
    match acc.1.postFault d b.key.part b.key.asid x.1 .read 1 b.queue.length x.2 with
    | (s, some t) => (s, acc.2.1 ++ [t], acc.2.2)
    | (s, none) => (s, acc.2.1, acc.2.2 ++ [x])) (s, [], [])
  s.modDie d (fun x => { x with blocks := x.blocks.map (fun c =>
    if c.key = b.key then { c with faults := c.faults ++ toks, unposted := left } else c) })

/-- A fetch with failing pages gives its frame back; a page that two cached translations disagree on is logged too (R280, R398). -/
def State.fetchFault (s : State) (d : Nat) (p : Part) (b : Block) (bad : List (Nat × WalkFail)) : State :=
  let s := (s.setBlock d { b with frame := .absent, victim := none }).postPages d b bad
  let s := bad.foldl (fun s x =>
    match s.lookupComp d p b.key.asid x.1 with
    | .conflict => s.logConflict d 0xFFFF b.key.part b.key.asid x.1 1
    | _ => s) s
  s.markParked b.queue 0x08

/-- `FETCH_FAULT` (R280): the fetch gives its frame back, an entry is posted for each failing page, and the queue is fault pending. -/
def execFetchFault (s : State) : Res :=
  match s.subject with
  | some (.fetchFault d k) =>
    (match s.block? d k, s.part? k.part with
     | some b, some p =>
       let bad := badPages (s.fetchPages d p k)
       if b.frame != .fetching || bad.isEmpty then .next s else .next (s.fetchFault d p b bad)
     | _, _ => .next s)
  | _ => .next s

/-! ### Write-back (R281) -/

/-- Copies one word of a frame with its bits to HBM, where poison is the atom's (R212, log 19). For a line held from that memory it is a store
of the block's die (R44; DESIGN CHOICE, log 31). -/
def State.backWord (s : State) (b : Block) (off : Nat) : State :=
  let pa := b.paOf off
  let v := b.data.read off 8
  let h := (s.hbm.write pa v 8).setFull pa (b.data.full off)
  let pewter : Writer := { die := (s.part? b.key.part).map (·.homeDie b.key.blk), part := b.key.part }
  { s.noteStore pewter (.direct pa) v 8 with hbm := h.setPoison pa ((List.range 4).any (fun i => b.data.poisoned (off / 32 * 32 + 8 * i))) }

/-- Writes back the dirty atoms of a block to the addresses its fetch found (R281, R396). -/
def State.backAtoms (s : State) (b : Block) : State :=
  b.dirty.foldl (fun s a => (List.range 4).foldl (fun s i => s.backWord b (32 * a + 8 * i)) s) s

/-- A write-back of a block ends (R281). -/
def State.endBack (s : State) (d : Nat) (k : BlockKey) : State :=
  match s.block? d k with
  | some b => if b.frame != .writingBack then s else ((s.backAtoms b).freeFrame d b).poisonWaiters
  | none => s

/-- `WRITE_BACK_DONE` (R281). -/
def execWriteBackDone (s : State) : Res :=
  match s.subject with
  | some (.writeBackDone d k) => .next (s.endBack d k)
  | _ => .next s

/-- A fetch in flight comes to its end, and before it the write-back of the frame it takes (R415). -/
def State.endFetch (s : State) (d : Nat) (k : BlockKey) : State :=
  let s := match (s.block? d k).bind (·.victim) with
    | some v => s.endBack d v
    | none => s
  match s.block? d k, s.part? k.part with
  | some b, some p =>
    if b.frame != .fetching then s
    else
      let pages := s.fetchPages d p k
      if (badPages pages).isEmpty then s.fetchDone d b (goodPages pages) else s.fetchFault d p b (badPages pages)
  | _, _ => s

/-- A forced eviction (R270, R406): the block leaves its frame whatever its pins and uses, its dirty atoms written back; a
pinned block gets a prefetch mark. A fetch in flight completes first (R415). -/
def State.forceEvict (s : State) (d : Nat) (k : BlockKey) : State :=
  let s := (s.endFetch d k).drain (fun p => p.at_.overlaps p.size (.frame d k 0) 32768)
  match s.block? d k with
  | none => s
  | some b =>
    if b.frame == .absent then s
    else
      let s := s.backAtoms b
      let s := (s.freeFrame d (if 0 < b.pins then b.addMark s.now else b)).poisonWaiters
      let drop (t : Thread) : Thread :=
        { t with use := if t.use = some k then none else t.use, passed := t.passed.filter (· != k), carried := t.carried.filter (· != k) }
      { s with outside := s.outside.map (fun (o : Outside) => if o.use = some k then { o with use := none } else o)
               cpu := drop s.cpu
               threads := s.threads.map (fun x => (x.1, drop x.2)), sups := s.sups.map (fun x => (x.1, drop x.2)) }

/-! ### Requests and posted writes -/

/-- The traps that another module may answer an access with (R221, R224). -/
def remoteCauses : List Nat := [0x11, 0x12, 0x13, 0x14, 0x16]

/-- `WORD_REQUEST_ANSWER` (R32, R58, R224): the `i`-th outstanding operation of a context is answered, a relaxed store once its
writes are at their single copy (R219), or another module answers the access it waits for. -/
def execWordRequestAnswer (s : State) : Res :=
  match s.subject with
  | some (.wordRequestAnswer c i) =>
    (match s.thread? c with
     | none => .next s
     | some t =>
       let cause := Config.remoteCause s.tick
       match t.wait with
       | .remote _ va none => .next (if remoteCauses.contains cause then s.trapWait c cause va else s.completeWait c [])
       | .remote _ va (some (r, n, sx)) =>
         if remoteCauses.contains cause then .next (s.trapWait c cause va) else
         let v := (Config.remoteWord s.tick).toNat % 2 ^ (8 * n)
         .next (s.completeWait c [(r, if sx then wordInt (toSigned (8 * n) v) else word v)])
       | _ =>
         let mine (p : Posted) : Bool := p.ctx == c && t.outs[i]?.any (fun r => r.relaxed && r.op == p.op)
         .next ((s.drain mine).modThread c (fun t => { t with outs := t.outs.eraseIdx i })))
  | _ => .next s

/-- `LDX_TIMEOUT` (R224): no answer within 200 µs gives the protection trap. -/
def execLdxTimeout (s : State) : Res :=
  match s.subject with
  | some (.ldxTimeout c) =>
    (match (s.thread? c).map (fun (t : Thread) => t.wait) with
     | some (.remote sent va _) => if sent + 200000 ≤ s.now then .next (s.trapWait c 0x13 va) else .next s
     | _ => .next s)
  | _ => .next s

/-- `POSTED_WRITE_DRAIN` (R229): the oldest write of a die to its bytes, the `i`-th of the path, reaches its single copy. -/
def execPostedWriteDrain (s : State) : Res :=
  match s.subject with
  | some (.postedWriteDrain d i) =>
    (match s.posted[i]? with
     | some w =>
       if w.die ≠ d then .next s
       else if (s.posted.take i).any (fun o => o.die == d && o.at_.overlaps o.size w.at_ w.size) then .next s
       else .next ({ s with posted := s.posted.eraseIdx i }.drainOne w)
     | none => .next s)
  | _ => .next s

/-! ### Spilling in idle cycles (R134) -/

/-- The contexts in the slots of a core, lowest-numbered slot first. -/
def State.slotOrder (s : State) (core : Nat) : List CtxId :=
  (List.range 16).flatMap (fun i =>
    if i = 15 then [.sup core] else ((lookup i (s.core core).slots).map CtxId.strand).toList)

/-- The lowest slot of a core whose context has a marked window: four are resident, or a spill has begun (R134). One whose idle spill has
faulted waits for a forced one (R136). -/
def State.spillTarget (s : State) (core : Nat) : Option CtxId :=
  (s.slotOrder core).find? (fun c =>
    match s.thread? c with
    | some t => (t.res == 4 || (t.spillSec != 0 && !t.older.isEmpty)) && t.place == .slot && !t.flushed && !t.spillOff
    | none => false)

/-- One 32-byte sector of the issuing context's oldest window is written; after the fourth, SSP and RES fall (R134). A spill that faults
is abandoned without effect and left to be forced (R136); one that finds WB goes on when that clears (R399). -/
def State.spillSector (s : State) : State :=
  let s := s.modCpu Thread.commitOldest
  match s.cpu.older.getLast? with
  | none => s
  | some w =>
    let i := s.cpu.spillSec
    let va := s.cpu.ssp - 128#64 + word (32 * i)
    match s.spillWrite va (((w.l.toList ++ w.i.toList).drop (4 * i)).take 4) with
    | .stopped _ =>
      (match s.spillFind va .write with
       | .writeBack _ => s
       | _ => s.modCpu (fun t => { t with spillSec := 0, spillOff := true }))
    | .ok s => if i = 3 then s.modCpu Thread.dropOldest else s.modCpu (fun t => { t with spillSec := i + 1 })

/-- `SPILL_SECTOR` (R134): an idle issue cycle of a core. -/
def execSpillSector (s : State) : Res :=
  match s.subject with
  | some (.spillSector core) =>
    (match s.spillTarget core with
     | none => .next s
     | some c => .next (((s.focus c).spillSector).focus s.cur))
  | _ => .next s

/-! ### Word waits (R284) -/

/-- `SLOT_PATIENCE_EXPIRY` (R284): the waiter parks at the serving die and keeps its entry, unless VLIVE is set. -/
def execSlotPatienceExpiry (s : State) : Res :=
  match s.subject with
  | some (.slotPatienceExpiry c) =>
    (match (s.thread? c).map (fun (t : Thread) => t.wait) with
     | some (.word d t) =>
       if s.now < t then .next s
       else
         let old := s.cur
         let s := s.focus c
         let s := match s.longWait d with
           | .inSlot => s
           | .full =>
             (s.modDie d (fun x => { x with words := x.words.filter (fun w => w.ctx != c) })).parkingFull d
           | .park =>
             match s.atWait with
             | some s => s
             | none =>
               match s.flush with
               | .stopped s => s.modDie d (fun x => { x with words := x.words.filter (fun w => w.ctx != c) })
               | .ok s => s.parkOn 0x02 d
         .next (if (s.thread? old).isSome then s.focus old else s)
     | _ => .next s)
  | _ => .next s

/-- `WORD_WAITER_RETRY` (R284): a waiter without an entry makes its access again. -/
def execWordWaiterRetry (s : State) : Res :=
  match s.subject with
  | some (.wordWaiterRetry c) =>
    (match (s.thread? c).map (fun (t : Thread) => t.wait) with
     | some .wordRetry => .next (s.modThread c (fun t => { t with wait := .none }))
     | _ => .next s)
  | _ => .next s

/-! ### Arrival (R273, R119, R123, R125) -/

/-- An arrived strand whose block's home has moved is sent on with a record there, and departs again (R97, R116, R270); where no record is
free there, it makes its access again from the pool of its current core (DESIGN CHOICE, log 83). -/
def State.sendOn (s : State) (sid : Nat) (t : Thread) (d home : Nat) (bound : Option Nat) (block : Option (BlockKey × Nat)) : State :=
  let s := s.dropVisitor sid
  if !s.recordFree home sid t.part then s.enterPool (dieOf t.core) sid (some t.core)
  else
    let s := (s.takeVisitor home sid t.part).modLaunch t.lid (·.departs d)
    s.modThread (.strand sid) (fun t => { t with place := .transit home bound block })

/-- `STRAND_ARRIVAL`: a tiny context arrives: it joins its block's queue, or is released where the block has come, or enters the
pool of a migration. -/
def execStrandArrival (s : State) : Res :=
  match s.subject with
  | some (.strandArrival sid) =>
    (match s.thread? (.strand sid) with
     | none => .next s
     | some t =>
       match t.place with
       | .transit d bound block =>
         if (s.die d).down then .next s else
         let s := s.modLaunch t.lid (·.arrives d)
         if t.ending then .next (s.retire sid)
         else if t.doomed == some d then .next ((s.loseLaunch t.lid d).retire sid)
         else match block with
           | none => .next (s.enterPool d sid bound)
           | some (k, stamp) =>
             let home := match s.part? k.part with | some p => p.homeDie k.blk | none => d
             if t.killable then .next (s.enterPool (dieOf t.core) sid (some t.core))
             else if home ≠ d then .next (s.sendOn sid t d home bound block)
             else if s.resident d k then
               .next ((s.grantUse (.strand sid) k).releaseWaiter d ⟨.strand sid, stamp, .parked⟩)
             else
               let pending := match s.block? d k with | some b => b.faultPending | none => false
               let s := s.modThread (.strand sid) (fun t => { t with place := .parked (if pending then 0x08 else 0x01) d, parkedAt := s.tick })
               .next (s.joinQueue d k ⟨.strand sid, stamp, .parked⟩)
       | _ => .next s)
  | _ => .next s

end Sys2Proof.Machine
end

