-- ==== Sys2Proof/Machine/Engine.lean ====
section
/-! DEFINITION. Accesses of the agents that are not strands (R209, R212, R271, R306, R307, R399), and the delivery of completions
(R118, R237, R254, R312). -/

namespace Sys2Proof.Machine

/-! ### Accesses of engines -/

/-- An agent that is not a strand: the die it translates at, its partition and ASID, the core whose local store the aperture
names for it (R306), its bit in SRCS (R400), and what scopes ask of it (R25): the launch and the join it acts for, its quad, and whether
it stands outside the module. -/
structure Agent where
  die : Nat
  part : Nat
  asid : Nat
  core : Option Nat := none
  src : Nat
  lid : Word := 0#64
  join : Nat := 0
  quads : List Nat := []
  outside : Nat := 0
  deriving DecidableEq, Repr

/-- The agent that carries out work of an origin. -/
def Origin.agent (o : Origin) (die src : Nat) : Agent := { die, part := o.part, asid := o.asid, src, lid := o.lid }

/-- An agent as a writer; one outside the module is on no die of it (R25). -/
def Agent.writer (a : Agent) : Writer :=
  { die := if a.outside = 0 then some a.die else none
    part := a.part, lid := a.lid, join := a.join, quads := a.quads, outside := a.outside }

/-- An agent at device registers. The engines of one kind of a die, and the agents of one port, are one agent of R414 (DESIGN CHOICE,
log 112). -/
def Agent.dev (a : Agent) : DevAgent := ⟨.sup (2 ^ 22 + 256 * a.die + a.src), a.die, a.core.getD 0xFFFF, a.part⟩

/-- Does some enabled region of a core grant a permission on every byte, whatever its slots (R206, R306, R308)? -/
def Core.grantsAll (k : Core) (perm o n : Nat) : Bool :=
  (List.range n).all (fun i => k.lspa.toList.any (fun r =>
    bitOf r 63 && bitOf r perm && 256 * field r 9 0 ≤ o + i && o + i < 256 * field r 26 16))

/-- The single copy of a walked word for an agent that cannot park (R271): the frame of a resident block, and of a block being
written back while the atom has not been written back, else HBM. -/
def State.walkedCopy (s : State) (p : Part) (asid : Nat) (va : Word) (pa : Nat) : Loc :=
  let k := blockOf p.num asid va
  let h := p.homeDie k.blk
  let off := va.toNat % 32768
  match s.block? h k with
  | some b =>
    if b.frame == .resident || (b.frame == .writingBack && b.dirty.contains (off / 32)) then .frame h k off else .direct pa
  | none => .direct pa

/-- Finds `n` bytes inside one sector for an agent (R203, R271, R306, R399). -/
def State.engineFind (s : State) (a : Agent) (va : Word) (n : Nat) (k : Kind) : Found :=
  if field va 63 57 ≠ 0 then .trap 0x13 va
  else if bitOf va 56 then
    match a.core with
    | none => .trap 0x13 va
    | some c =>
      let o := field va 17 0
      if field va 55 18 = 0 && 2 ^ 18 - n ≥ o && (s.core c).grantsAll (if k.writes then 61 else 62) o n then
        .at_ (.loc c o) va none
      else .trap 0x13 va
  else
    match s.part? a.part with
    | none => .fail va ⟨true, 0, 0⟩
    | some p =>
      match s.translate a.die p a.asid va.toNat k with
      | .fail f => .fail va f
      | .conflict => .conflict va
      | .writeBack l => .writeBack l
      | .ok c ipas =>
        let pa := c.pa + va.toNat % 4096
        if c.w then .at_ (s.walkedCopy p a.asid va pa) va (some (c, ipas))
        else if c.ar || 2 ^ 41 ≤ pa then .device pa va c ipas
        else .at_ (.direct pa) va (some (c, ipas))

/-- Caches the composite an agent used (R397). -/
def State.engineTouch (s : State) (a : Agent) (f : Found) : State :=
  match f with
  | .at_ _ va (some (c, ipas)) => s.cacheComp a.die a.part a.asid va.toNat c ipas
  | .device _ va c ipas => s.cacheComp a.die a.part a.asid va.toNat c ipas
  | _ => s

/-- Writes back the atom of a location at once, where its block is being written back (R271): a write-back never overwrites a
later write. -/
def State.settleAtom (s : State) (l : Loc) : State :=
  match l with
  | .frame d k off =>
    match s.block? d k with
    | some b =>
      if b.frame == .writingBack then
        let s := (List.range 4).foldl (fun s i => s.backWord b (off / 32 * 32 + 8 * i)) s
        (s.setBlock d { b with dirty := risingSet b.dirty (off / 32) false }).poisonWaiters
      else s
    | none => s
  | _ => s

/-- The location an agent's access is performed at, once the atom has been written back (R271). -/
def State.settled (s : State) (c : Option (Comp × List Nat)) (va : Word) (l : Loc) : Loc :=
  match l, c with
  | .frame d k _, some (c, _) =>
    match s.block? d k with
    | some b => if b.frame == .writingBack then .direct (c.pa + va.toNat % 4096) else l
    | none => l
  | _, _ => l

/-- The outcome of a read by an agent: a value, or what stopped it. -/
inductive Got where
  | val (s : State) (v : Nat)
  | stop (f : Found)

/-- The words that an agent reads at device registers, in ascending order: a read-to-act page and the registers of the ports give each word
by itself; a control region serves 8 bytes alone (R414, R427, R432). -/
def State.deviceWords (s : State) (a : Agent) (pa n : Nat) (c : Comp) : State × Nat :=
  if n ≤ 8 || (!c.ar && 0x0C0000000000 ≤ pa) then s.deviceGet a.dev pa n c
  else (List.range ((n + 7) / 8)).foldl (fun (acc : State × Nat) i =>
    let (s, v) := acc.1.deviceGet a.dev (pa + 8 * i) 8 c
    (s, acc.2 + v <<< (64 * i))) (s, 0)

/-- Reads `n` bytes inside one sector (R212, R307): the full/empty bit is ignored; poison stops the read with the atom's
address. -/
def State.engineGet (s : State) (a : Agent) (va : Word) (n : Nat) : Got :=
  match s.engineFind a va n .read with
  | .at_ l v c =>
    if s.anyPoison l n then .stop (.trap 0x14 (word (va.toNat / 32 * 32)))
    else .val (s.engineTouch a (.at_ l v c)) (s.readAt a.die l n)
  | .device pa v c ipas =>
    let (s, w) := (s.engineTouch a (.device pa v c ipas)).deviceWords a pa n c
    .val s (w % 2 ^ (8 * n))
  | f => .stop f

/-- The outcome of a write by an agent. -/
inductive Put where
  | ok (s : State)
  | stop (f : Found)

/-- Writes `n` bytes inside one sector (R209, R235, R307, R414, R427). -/
def State.enginePut (s : State) (a : Agent) (va : Word) (v n : Nat) : Put :=
  match s.engineFind a va n .write with
  | .at_ l va' c =>
    let s := s.engineTouch a (.at_ l va' c)
    let s := match c with
      | some (c, _) => s.setDirty c
      | none => s
    let place := s.settled c va l
    .ok ((s.settleAtom l).engineWrite a.writer place v n)
  | .device pa va' c ipas => .ok ((s.engineTouch a (.device pa va' c ipas)).devicePut a.dev pa n va' c v)
  | f => .stop f

/-- Sectors of `n` bytes from an address: the address and size of each piece, at most 32 bytes, none crossing a sector. -/
def sectors (va : Word) (n : Nat) : List (Word × Nat) :=
  let o := va.toNat % 32
  (List.range (if n = 0 then 0 else (o + n + 31) / 32)).map (fun i =>
    if i = 0 then (va, min n (32 - o)) else (va + word (32 * i - o), min 32 (n + o - 32 * i)))

/-- Reads pieces in order, joined low first. -/
def State.getPieces (s : State) (a : Agent) : List (Word × Nat) → Got
  | [] => .val s 0
  | (va, n) :: rest =>
    match s.engineGet a va n with
    | .stop f => .stop f
    | .val s v =>
      match s.getPieces a rest with
      | .stop f => .stop f
      | .val s w => .val s (v + w <<< (8 * n))

/-- Reads `n` bytes. -/
def State.engineRead (s : State) (a : Agent) (va : Word) (n : Nat) : Got := s.getPieces a (sectors va n)

/-- Writes pieces in ascending order (R235); pieces before one that stops stay written. -/
def State.putPieces (s : State) (a : Agent) (v : Nat) : List (Word × Nat) → State × Option Found
  | [] => (s, none)
  | (va, n) :: rest =>
    match s.enginePut a va (v % 2 ^ (8 * n)) n with
    | .stop f => (s, some f)
    | .ok s => s.putPieces a (v >>> (8 * n)) rest

/-- Reads pieces in order, each by itself, up to one that stops. -/
def State.readPieces (s : State) (a : Agent) : List (Word × Nat) → State × List Nat × Option Found
  | [] => (s, [], none)
  | (va, n) :: rest =>
    match s.engineGet a va n with
    | .stop f => (s, [], some f)
    | .val s v =>
      let (s, vs, f) := s.readPieces a rest
      (s, v :: vs, f)

/-- Writes pieces in order, and answers how many it wrote before one that stopped. -/
def State.writePieces (s : State) (a : Agent) (v : Nat) : List (Word × Nat) → State × Nat × Option Found
  | [] => (s, 0, none)
  | (va, n) :: rest =>
    match s.enginePut a va (v % 2 ^ (8 * n)) n with
    | .stop f => (s, 0, some f)
    | .ok s =>
      let (s, k, f) := s.writePieces a (v >>> (8 * n)) rest
      (s, k + 1, f)

/-- Pieces as one value, low first. -/
def joinPieces : List (Word × Nat) → List Nat → Nat
  | (_, n) :: ps, v :: vs => v + joinPieces ps vs <<< (8 * n)
  | _, _ => 0

/-- Writes `n` bytes; answers what stopped it, if anything did. -/
def State.engineWriteVa (s : State) (a : Agent) (va : Word) (v n : Nat) : State × Option Found :=
  s.putPieces a v (sectors va n)

/-- Would a write of every piece be performed? Nothing is written. -/
def State.probePut (s : State) (a : Agent) (va : Word) (n : Nat) : Option Found :=
  (sectors va n).findSome? (fun (v, n) =>
    match s.engineFind a v n .write with
    | .at_ .. | .device .. => none
    | f => some f)

/-- What becomes of work whose access was stopped (R313, R314, R339, R360, R378): it waits, or it ends with a code and a detail. -/
inductive Stopped where
  | wait (h : Hold)
  | end_ (code : Nat) (detail : Word)

/-- Handles a stopped access of an agent: a failure is posted and waits (R399 to R402), a write that finds WB waits without a
posting, poison ends with code 2, a bad address or a conflict with code 3. -/
def State.engineStop (s : State) (a : Agent) (k : Kind) (f : Found) : State × Stopped :=
  match f with
  | .fail va w =>
    let (s, tok) := s.postFault a.die a.part a.asid va.toNat k a.src 1 w
    (s, .wait (.fault tok va.toNat k w))
  | .trap 0x14 va => (s, .end_ 2 va)
  | .trap _ va => (s, .end_ 3 va)
  | .conflict va => (s.logConflict a.die (a.core.getD 0xFFFF) a.part a.asid va.toNat a.src, .end_ 3 va)
  | _ => (s, .wait .none)

/-! ### Trigger counters (R317 to R320) -/

/-- Is a trigger counter allotted to a partition (R317, R425)? -/
def Part.allotted (p : Part) (cnum : Nat) : Bool :=
  match lookup (cnum / 4096) p.trigBase with
  | some b => b ≤ cnum % 4096 && cnum % 4096 < b + p.trign
  | none => false

/-- The value of a trigger counter (R317). -/
def State.trigger (s : State) (cnum : Nat) : Nat := (lookup (cnum % 4096) (s.die (cnum / 4096)).trig).getD 0

/-- Sets a trigger counter. -/
def State.setTrigger (s : State) (cnum v : Nat) : State :=
  s.modDie (cnum / 4096) (fun (x : Die) => { x with
    trig := if v % 2 ^ 48 = 0 then erase (cnum % 4096) x.trig else insert (cnum % 4096) (v % 2 ^ 48) x.trig })

/-- Requests of a partition that wait in a die's queue for their start (R304). One that has started and is to go on takes no place in it.
DEDUCED (log 115). -/
def Die.waiting (x : Die) (part : Nat) : Nat := (x.requests.filter (fun m => m.from_.part == part && m.qmode.isNone)).length

/-- Moves fired transfers into the request queue, in the order of their arming, while it has room (R304, R320). -/
def enqueueFired : Nat → Die → Die
  | 0, x => x
  | n + 1, x =>
    match x.armed.find? (fun a => a.fired && x.waiting a.move.from_.part < 64) with
    | none => x
    | some a => enqueueFired n { x with armed := x.armed.erase a, requests := x.requests ++ [a.move] }

/-- The firing check (R320) of a counter. -/
def State.firingCheck (s : State) (cnum : Nat) : State :=
  let v := s.trigger cnum
  s.modDie (cnum / 4096) (fun x =>
    let armed := x.armed.map (fun a => if a.cnum = cnum && a.thresh ≤ v then { a with fired := true } else a)
    enqueueFired armed.length { x with armed })

/-- Raises a counter by one (R312 form 3, R317, R320). -/
def State.raiseTrigger (s : State) (cnum : Nat) : State :=
  (s.setTrigger cnum (s.trigger cnum + 1)).firingCheck cnum

/-! ### Completions -/

/-- The header of a message (R292). -/
def msgHeader (len kind ch smod core sid : Nat) : Word :=
  word (len <<< 59 + (kind % 8) <<< 56 + (ch % 4) <<< 54 + (smod % 64) <<< 48 + 1 <<< 47 + (core % 2 ^ 13) <<< 24 + sid % 2 ^ 24)

/-- A completion to be delivered (R118, R312): form, channel and target of its CTL; the message kind; the source bit of the
work; the number that names it; its status word, detail and flags; the value a completion word receives. -/
structure Completion where
  die : Nat
  from_ : Origin
  form : Nat
  chan : Nat
  target : Word
  kind : Nat
  src : Nat
  seq : Word
  status : Word
  detail : Word
  flags : Word
  val : Word
  /-- An error that bit 63 of the status word does not show (R379). -/
  err : Bool := false
  /-- The tiles of a task, locked until the delivery (R337). -/
  tiles : List Nat := []
  /-- The journal entry of the work, freed at the delivery (R431). -/
  entry : Option (Nat × Nat) := none
  deriving DecidableEq, Repr

/-- A report to the supervisor of the core that issued the work, and none where no core did (R254). -/
def State.reportTo (s : State) (o : Origin) (seq status detail : Word) : State :=
  if 6240 ≤ o.core then s else s.report o.core o.part seq status detail

/-- The entry of source 2 of a completion word that could not be written, with its report; it counts as delivered (R312). -/
def State.notWritten (s : State) (die : Nat) (l : LateWord) : State :=
  let o := l.from_
  ((s.faultLog o.part [logWord0 0x02 0 o.core die (field l.status 55 48), l.seq, l.status, l.detail]).reportTo o l.seq l.status
    l.detail).delivered die l.entry

/-- Writes a completion word (R312): as `STFF` does, at its single copy, without parking; a translation that fails makes it
wait. One in a device page is not written (DESIGN CHOICE, log 138). -/
def State.completionWord (s : State) (die : Nat) (l : LateWord) : State :=
  let a := l.from_.agent die l.src
  match s.engineFind a l.va 8 .write with
  | .at_ loc _ _ =>
    if s.anyPoison loc 8 then s.notWritten die l
    else
      (match s.enginePut a l.va l.val.toNat 8 with
       | .ok s => s.serveWords.delivered die l.entry
       | .stop _ => s)
  | .device .. => s.notWritten die l
  | f =>
    match s.engineStop a .write f with
    | (s, .wait h) => s.modDie die (fun x => { x with late := x.late ++ [{ l with hold := h }] })
    | (s, .end_ _ _) => s.notWritten die l

/-- Clove makes writes of a join's record in their order (R368): to the local store of the core that made the join, or each translated when
it is made (R393); from one that is to wait on, they wait together (R399, R411). One that can never be made is left out (DESIGN CHOICE,
log 41). -/
def State.putRecord (s : State) (die : Nat) (r : RecordWait) : List (Nat × Nat × Nat) → State
  | [] => s
  | (off, v, n) :: ps =>
    let a := r.from_.agent die 5
    if bitOf r.at_ 56 then (s.engineWrite a.writer (.loc r.from_.core (field r.at_ 17 0 + off)) v n).putRecord die r ps
    else match s.engineWriteVa a (r.at_ + word off) v n with
    | (s, none) => s.putRecord die r ps
    | (s, some f) =>
      match s.engineStop a .write f with
      | (s, .wait h) => s.modDie die (fun x => { x with records := x.records ++ [{ r with puts := (off, v, n) :: ps, hold := h }] })
      | (s, .end_ _ _) => s.putRecord die r ps

/-- Tries the completion words, the record writes and the rung doorbells of a die again that no entry holds (R312, R399). -/
def State.retryLate (s : State) (die : Nat) : State :=
  let ls := (s.die die).late.filter (fun l => l.hold == .none)
  let rs := (s.die die).records.filter (fun r => r.hold == .none)
  let bs := (s.die die).bells.filter (·.rung)
  let s := s.modDie die (fun x => { x with
    late := x.late.filter (fun l => l.hold != .none), records := x.records.filter (fun r => r.hold != .none)
    bells := x.bells.filter (fun b => !b.rung) })
  let s := ls.foldl (fun s l => s.completionWord die l) s
  let s := rs.foldl (fun s r => s.putRecord die r r.puts) s
  bs.foldl (fun s b => s.writeBell die b) s

/-- Delivers a completion in its form (R118, R237, R312), and the report of an error that R254, R312 and R118 ask for. -/
def State.deliver (s : State) (c : Completion) : State :=
  let err := bitOf c.status 63 || c.err
  let s := match c.form with
    | 1 =>
      { s with wire := s.wire ++ [{
          words := [msgHeader 24 c.kind c.chan s.modNum c.from_.core c.from_.sid, c.status, c.detail, c.flags]
          ch := c.chan, src := c.from_.core, dst := c.target.toNat, lid := if c.kind = 3 then c.from_.lid else 0#64
          part := c.from_.part, run := if c.kind = 6 then some (c.die, c.seq.toNat) else none
          lock := if c.tiles.isEmpty then none else some (c.die, c.tiles)
          entry := c.entry.map (fun e => (c.die, e)) }] }
    | 2 => s.completionWord c.die
        { from_ := c.from_, src := c.src, va := c.target, val := c.val, seq := c.seq, status := c.status, detail := c.detail, hold := .none
          tiles := c.tiles, entry := c.entry }
    | 3 => (s.raiseTrigger (c.target.toNat % 2 ^ 17)).delivered c.die c.entry
    | _ => s.delivered c.die c.entry
  if !err then s
  else if c.kind = 3 then
    (if c.form = 0 || c.form = 3 then
      s.faultLog c.from_.part [logWord0 0x02 0 c.from_.core c.die (field c.status 55 48), c.seq, c.status, 0#64]
    else s)
  else if c.form = 0 || c.form = 3 || c.from_.orphan then s.reportTo c.from_ c.seq c.status c.detail
  else s

/-- KIND of a message (R292). -/
def Msg.kind (m : Msg) : Nat := field (m.words.headD 0#64) 58 56

/-- The messages that have not reached an inbox or an arrival queue (R238, R298). -/
def State.undelivered (s : State) : List Msg := s.wire ++ s.cores.flatMap (fun (_, (k : Core)) => k.netWait)

/-! ### Checks of a submission (R312) -/

/-- The refusal a completion form earns (R302, R309 of its record, R312): none where form and target are right. Form 3 with a number that
names no counter is BADSHAPE, with one not allotted to the partition DENIED, for `LAUNCH` too (DESIGN CHOICE, log 107). -/
def Part.formRefusal (p : Part) (form : Nat) (target : Word) : Option Word :=
  match form with
  | 0 => if target = 0#64 then none else some badShape
  | 1 =>
    if 6144 ≤ target.toNat then some badShape
    else if p.owns target.toNat then none else some denied
  | 2 => if target.toNat % 8 = 0 then none else some badShape
  | _ =>
    if field target 63 17 ≠ 0 || 24 ≤ field target 16 12 then some badShape
    else if p.allotted target.toNat then none else some denied

/-- Who submits: the issuing context. -/
def State.origin (s : State) : Origin :=
  { core := s.cpu.core, sid := s.cpu.sid, lid := s.cpu.lid, part := s.cpu.part, asid := s.cpu.asid }

/-- What reading a record of `n` bytes finds (R113, R319, R343): its words, a page that is walked or a device's, or a stop. -/
inductive Rec where
  | ok (s : State) (ws : List Word)
  | walked
  | stopped (s : State)

/-- Reads a record that must lie in direct memory or in the local store, for the issuing context. -/
def State.readRecord (s : State) (va : Word) (n : Nat) : Rec :=
  match s.locate va n .read with
  | .at_ (.frame ..) _ _ | .absent .. | .device .. => .walked
  | .at_ l v c =>
    if s.anyPoison l n then .stopped (s.trap 0x14 va)
    else .ok ((s.touch (.at_ l v c)).ownFirst n [.at_ l v c]) ((List.range (n / 8)).map (fun i => word (s.readAt s.here (l.plus (8 * i)) 8)))
  | f => .stopped (s.stopAt [] f .read)

/-- Reads `k` records of 32 bytes that follow one another (the three of a task, R328): each may stand in a page of its own. -/
def State.readRecords (s : State) (va : Word) : Nat → Rec
  | 0 => .ok s []
  | k + 1 =>
    match s.readRecord va 32 with
    | .ok s ws =>
      match s.readRecords (va + 32#64) k with
      | .ok s vs => .ok s (ws ++ vs)
      | r => r
    | r => r

/-- The next sequence number of a core (R304). -/
def State.nextSeq (s : State) (core : Nat) : State × Nat :=
  let n := (s.core core).seq + 1
  (s.modCore core (fun k => { k with seq := n }), n)

end Sys2Proof.Machine
end

