-- ==== Sys2Proof/Machine/Messages.lean ====
section
/-! DEFINITION. Messages: `SEND`, `SENDX`, `RECV`, `WAITM` and the events of an inbox (R291 to R300). -/

namespace Sys2Proof.Machine

/-! ### Inboxes -/

/-- The contexts that wait in `WAITM` on a core, with or without a slot (R297). -/
def State.messageWaiters (s : State) (core : Nat) : List CtxId :=
  let here (t : Thread) : Bool :=
    t.core == core && (match t.place with
      | .slot => t.wait == .message
      | .parked c _ => c == 3 || (c == 0x09 && t.wait == .message)
      | _ => false)
  (s.strands.filter (fun x => here x.2)).map (fun x => CtxId.strand x.1)
    ++ (match s.thread? (.sup core) with | some t => if here t then [CtxId.sup core] else [] | none => [])

/-- A message is received for the counts of R116 and R300: kinds 0 and 1 only. -/
def State.countReceived (s : State) (core : Nat) (m : Msg) : State :=
  if m.kind ≤ 1 then
    (s.modCore core (fun k => { k with mrecv := k.mrecv + 1#64 })).modLaunch m.lid (fun l => { l with recv := l.recv + 1 }.on (dieOf core))
  else s

/-- Puts a message into a core's inbox and wakes every `WAITM` of the core (R297). -/
def State.placeMsg (s : State) (core : Nat) (m : Msg) : State :=
  let s := s.modCore core (fun k => { k with inbox := k.inbox ++ [m] })
  (s.messageWaiters core).foldl (fun s c => s.completeWait c []) s

/-- A message enters a core's arrival queue; the first one into an empty queue wakes the supervisor. TVAL is zero, as R246 has it: the number
that the message found in the queue (R298; DEDUCED, log 113). -/
def State.enterQueue (s : State) (core : Nat) (m : Msg) : State :=
  let k := s.core core
  let s := s.setCore core { k with arrivals := k.arrivals ++ [m] }
  if k.arrivals.isEmpty then s.queueEvent core { cause := 0x40, val := word k.arrivals.length } else s

/-- A message reaches a core (R298). -/
def State.reach (s : State) (core : Nat) (m : Msg) : State :=
  let k := s.core core
  if !k.netWait.isEmpty then s.setCore core { k with netWait := k.netWait ++ [m] }
  else if !k.overflow && k.inbox.length < 64 then (s.placeMsg core m).countReceived core m
  else
    let s := s.setCore core { k with overflow := true }
    if k.arrivals.length < 16 then s.enterQueue core m else s.setCore core { k with overflow := true, netWait := [m] }

/-! ### `SEND` and `SENDX` -/

/-- The reserved fields and ranges of a destination word (R294). -/
def destOk (w : Word) (remote : Bool) : Bool :=
  field w 63 32 == 0 && field w 23 21 == 0 && field w 15 13 == 0 && field w 20 16 ≤ 24 && field w 12 0 < 6240
    && (if remote then field w 31 30 == 0 else field w 29 24 == 0)

/-- Loop-back (R299): the message in b to b + 3 goes to the tail of the core's own inbox, or overflow ends. The header's reserved bits read as
zero from then on (R4, R292). -/
def State.loopBack (s : State) (w : Word) (d b : Reg) : State :=
  let core := s.cpu.core
  let k := s.core core
  if bitOf w 30 then
    if !k.overflow then s.answerDone d badHandle
    else if !k.arrivals.isEmpty then s.answerDone d busy
    else (s.modCore core (fun k => { k with overflow := false })).answerDone d 0#64
  else if !k.overflow then s.answerDone d badHandle
  else if 64 ≤ k.inbox.length then s.answerDone d busy
  else
    let ws := (regRange b 4).map s.cpu.rdNum
    let h := ws.headD 0#64
    if !bitOf h 47 then s.illegal
    else (s.placeMsg core { words := setField h 46 37 0 :: ws.drop 1, ch := field h 55 54, src := field h 36 24, dst := core, lid := 0#64, part := s.cpu.part
                            }).answerDone d 0#64

/-- A payload of `n` bytes, zero above (R292). -/
def payload (n : Nat) (ws : List Word) : List Word :=
  let v := packNat 64 (ws.map BitVec.toNat) % 2 ^ (8 * n)
  (List.range 3).map (fun i => word (v >>> (64 * i)))

/-- Posts a message (R295): it is counted, and placed after every access issued before it is performed. -/
def State.post (s : State) (remote : Bool) (w : Word) (ch : Nat) (d b : Reg) : State :=
  let t := s.cpu
  let far := remote && field w 29 24 != s.modNum
  let ws := msgHeader (field w 20 16) (if far then 1 else 0) ch s.modNum t.core t.sid
    :: payload (field w 20 16) ((regRange b 3).map t.rdNum)
  let s := s.release .pod
  let s := if far then { s with linkOut := s.linkOut ++ [w :: ws] }
    else { s with wire := s.wire ++ [{ words := ws, ch, src := t.core, dst := field w 12 0, lid := t.lid, part := t.part }] }
  let s := s.modCore t.core (fun k => { k with msent := k.msent + 1#64 })
  let s := if far then s else s.modLaunch t.lid (·.sends (dieOf t.core))
  s.answerDone d 0#64

/-- `SEND` and `SENDX` (R295). -/
def State.sendMsg (s : State) (remote : Bool) (ch : BitVec 2) (d a b : Reg) : State :=
  let w := s.rd a
  if !destOk w remote || 29 < b.toNat || (bitOf w 31 && (28 < b.toNat || field w 12 0 != 0)) then s.illegal
  else if bitOf w 31 then (if s.cpu.sup then s.loopBack w d b else s.trapHead 0x07)
  else
    let m := field w 29 24
    if remote && m != s.modNum && (!s.pod.contains m || Config.farDenied s.tick) then s.answerDone d denied
    else if !(remote && m != s.modNum) && !(match s.part? s.cpu.part with
        | some p => p.owns (field w 12 0)
        | none => false) then s.answerDone d denied
    else if remote && m != s.modNum && 256 ≤ s.linkOut.length && Config.linkFull s.tick then s.answerDone d busy
    else s.post remote w ch.toNat d b

/-- `SEND` (R295); with LOOP in its destination word, the replay or the end of overflow of R299. -/
def execSend (ch : BitVec 2) (d a b : Reg) (s : State) : Res := plain s (fun s => s.sendMsg false ch d a b)
/-- `SEND` with LOOP and without END (R299): the destination word decides. -/
def execSendLoopback (ch : BitVec 2) (d a b : Reg) (s : State) : Res := plain s (fun s => s.sendMsg false ch d a b)
/-- `SEND` with LOOP and END (R299): the destination word decides. -/
def execSendEndOverflow (ch : BitVec 2) (d a b : Reg) (s : State) : Res := plain s (fun s => s.sendMsg false ch d a b)
/-- `SENDX` (R295). -/
def execSendx (ch : BitVec 2) (d a b : Reg) (s : State) : Res := plain s (fun s => s.sendMsg true ch d a b)

/-! ### `RECV` and `WAITM` -/

/-- `RECV` (R296): `m` is the message taken, none where nothing is accepted; all four registers take pending bits. -/
def State.recvDone (s : State) (d : Reg) (m : Option Msg) : State :=
  let ws := match m with
    | some m => m.words
    | none => []
  (s.modCpu (fun t => t.answer ((List.range 4).map (fun i => (d.toNat + i, (ws.getD i 0#64).toNat))) false false)).done

/-- `RECV` (R296). -/
def State.recvMsg (s : State) (d a : Reg) : State :=
  let w := s.rd a
  let core := s.cpu.core
  let k := s.core core
  if w = 0#64 || field w 63 5 != 0 || 28 < d.toNat || (bitOf w 4 && (!s.isSup || field w 3 0 != 0)) then s.illegal
  else if bitOf w 4 then
    match k.arrivals with
    | [] => s.recvDone d none
    | m :: rest => ((s.setCore core { k with arrivals := rest }).countReceived core m).recvDone d (some m)
  else
    match k.inbox.find? (fun m => bitOf w m.ch) with
    | none => s.recvDone d none
    | some m => (s.setCore core { k with inbox := k.inbox.erase m }).recvDone d (some m)

/-- `RECV` (R296). -/
def execRecv (d a : Reg) (s : State) : Res := plain s (fun s => s.recvMsg d a)
/-- `RECV` with mask 0x10 (R296, R299): the mask decides. -/
def execRecvArrival (d a : Reg) (s : State) : Res := plain s (fun s => s.recvMsg d a)

/-- `WAITM` (R297). -/
def execWaitm (s : State) : Res :=
  plain s fun s =>
    if !(s.core s.cpu.core).inbox.isEmpty then s.done
    else s.waitHere 0x03 .message id

end Sys2Proof.Machine
end

