-- ==== Sys2Proof/Machine/Launch.lean ====
section
/-! DEFINITION. `SPAWN`, `QUIT`, `LAUNCH`, `YIELD`, `MIGRATE` and `KPT`, launches and their end, and the queue ports (R96 to
R125, R261, R430). -/

namespace Sys2Proof.Machine

/-! ### `SPAWN` (R108) -/

/-- The level of a child (R106, R108). -/
def spawnPri (m : SpawnPri) (t : Thread) : Nat :=
  match m with
  | .inherit => t.pri
  | .p0 => 0
  | .p1 => 1
  | .p2 => 2
  | .p3 => 3

/-- STS of a child (R106): CHK, ANUL and RM of the spawner and its level. -/
def childSts (sts : Word) (pri : Nat) : Word := setField (sts &&& 0xD001#64) 10 9 pri

/-- May a start PC be given (R108, R109)? -/
def startOk (pc : Word) : Bool := field pc 63 57 == 0 && field pc 5 0 != 0 && field pc 5 0 ≤ 31

/-- The core a destination binds to (R101). -/
def Placed.bound : Placed → Option Nat
  | .core c => some c
  | .pool _ => none

/-- `SPAWN` from a start PC. -/
def State.spawn (s : State) (m : SpawnPri) (d a : Reg) (start : Word) : State :=
  if !startOk start then s.trap 0x05 start
  else
    match place (s.rd a) s.cpu.core with
    | none => s.illegal
    | some pl =>
      match s.part? s.cpu.part with
      | none => s.answerDone d denied
      | some p =>
        if !p.allows pl then s.answerDone d denied
        else if p.squota ≤ s.quotaUsed p.num || !s.mayCreate pl.die p || s.journalFull pl.die then s.answerDone d busy
        else
          let t := s.cpu
          let (s, n) := (s.release .part).create p pl.die pl.bound t.asid start t.lid (childSts t.sts (ceilPri p (spawnPri m t)))
            (t.oregs.take 4)
          (s.journal pl.die 1 n).answerDone d (word n)

/-- `SPAWN` with the start PC in b (R108). -/
def execSpawn (m : SpawnPri) (d a b : Reg) (s : State) : Res := plain s (fun s => s.spawn m d a (s.rd b))
/-- `SPAWN` with a label (R53, R108). -/
def execSpawnLabel (m : SpawnPri) (d a : Reg) (target : BrImm) (s : State) : Res :=
  plain s (fun s => s.spawn m d a (branchTarget s.cpu.pc target))

/-! ### `QUIT` and `KPT` -/

/-- `QUIT` (R115): in a supervisor context, the illegal-opcode trap. -/
def execQuit (s : State) : Res :=
  plain s fun s =>
    match s.cur with
    | .sup _ => s.trapHead 0x01
    | .strand sid => s.countRetired.retire sid

/-- `KPT` (R261): a pending kill, else a pending slice end; in a step of a gang stop too (DESIGN CHOICE, log 131). -/
def execKpt (s : State) : Res :=
  plain s fun s => if s.cpu.killable then s.killHere else s.safeFinish State.done

/-! ### Launch descriptors (R109, R110) -/

/-- A field of a descriptor. -/
def descField (ws : List Word) (i hi lo : Nat) : Nat := field (ws.getD i 0#64) hi lo
/-- COUNT. -/
def descCount (ws : List Word) : Nat := descField ws 1 31 0
/-- The placement rule. -/
def descRule (ws : List Word) : Nat := descField ws 1 42 40
/-- CKIND, its completion form. -/
def descForm (ws : List Word) : Nat := descField ws 1 49 48
/-- WHERE. -/
def descWhere (ws : List Word) : Word := ws.getD 2 0#64
/-- STRIDE. -/
def descStride (ws : List Word) : Nat := (ws.getD 3 0#64).toNat
/-- CTARGET. -/
def descTarget (ws : List Word) : Word := ws.getD 7 0#64

/-- Where strand j of a launch is placed (R110): by the current core, or the origin die of a queue-port launch (R114), and
the home map as it stood at the launch (R270). -/
def descPlace (p : Part) (hmap : List (Nat × Nat)) (ws : List Word) (origin : Nat) (by_ : Option Nat) (j : Nat) : Option Placed :=
  match descRule ws with
  | 0 => if by_.isNone && field (descWhere ws) 15 13 = 3 then none else place (descWhere ws) (by_.getD (256 * origin))
  | 1 => some (.core (field (descWhere ws) 12 0 + j % descStride ws))
  | 2 => some (.pool (p.dies.getD (j % p.dies.length) 0))
  | _ => some (.pool ({ p with hmap }.homeDie (descWhere ws + word (j * descStride ws)).toNat))

/-- The shape of WHERE and STRIDE (R110). Rule 1 asks for one die over the whole STRIDE span, also where COUNT is less (DESIGN CHOICE,
log 106). -/
def descPlaceOk (ws : List Word) (by_ : Option Nat) : Bool :=
  let w := descWhere ws
  let st := descStride ws
  match descRule ws with
  | 0 => st == 0 && (by_.isSome || field w 15 13 != 3) && (place w (by_.getD 0)).isSome
  | 1 => field w 63 13 == 0 && field w 12 0 < 6144 && 1 ≤ st && st ≤ 256
      && (field w 12 0) / 256 == (field w 12 0 + st - 1) / 256
  | 2 => w == 0#64 && st == 0
  | 3 => st % 8 == 0 && field w 63 57 == 0
  | _ => false

/-- `ShapeOk` of a descriptor (R109, R110), but for its completion form. -/
def descOk (ws : List Word) (by_ : Option Nat) : Bool :=
  startOk (ws.headD 0#64) && descField ws 1 31 24 == 0 && descCount ws != 0 && descField ws 1 39 34 == 0
    && descField ws 1 47 44 == 0 && descField ws 1 63 52 == 0 && descPlaceOk ws by_

/-- Does every strand's placement lie in the partition (R100, R113)? -/
def Part.placesIn (p : Part) (ws : List Word) (origin : Nat) (by_ : Option Nat) : Bool :=
  let ok (j : Nat) : Bool := match descPlace p p.hmap ws origin by_ j with
    | some pl => p.allows pl
    | none => false
  match descRule ws with
  | 0 => ok 0
  | 1 => (List.range (min (descStride ws) (descCount ws))).all ok
  | _ => true

/-- The refusal that a descriptor's shape or places earn (R113, R114). -/
def Part.descRefusal (p : Part) (ws : List Word) (origin : Nat) (by_ : Option Nat) : Option Word :=
  if !descOk ws by_ then some badShape
  else if descForm ws = 1 && (match by_ with | some c => isUtell c | none => true) then some badShape
  else match p.formRefusal (if descForm ws = 1 then 0 else descForm ws) (descTarget ws) with
    | some r => some r
    | none => if p.placesIn ws origin by_ then none else some denied

/-! ### Launch entries (R112) -/

/-- A launch id (R112). -/
def lidOf (die gen idx : Nat) : Word := word (die <<< 27 + gen <<< 12 + idx)

/-- The generation an entry takes when it is next used: 0 at first, then one more each time, modulo 2^15; the one that would give
the launch id zero, which names no launch, is passed over (log 15). -/
def Die.nextGen (x : Die) (d idx : Nat) : Nat :=
  let g := match lookup idx x.launchGens with
    | none => 0
    | some g => (g + 1) % 2 ^ 15
  if lidOf d g idx = 0#64 then 1 else g

/-- A free launch entry: the one of lowest index (DESIGN CHOICE, log 125). -/
def Die.freeLaunch (x : Die) : Option Nat := (List.range 4096).find? (fun i => !x.launches.any (fun l => l.idx == i))

/-- Is there no room for a launch (R98, R113, R431)? -/
def State.launchBusy (s : State) (p : Part) (d : Nat) (ws : List Word) : Bool :=
  p.squota < s.quotaUsed p.num + descCount ws || (s.die d).freeLaunch.isNone || s.journalFull d

/-- Accepts a launch, of a strand or of a queue port (R112, R113, R114, R35): the state and the launch id. -/
def State.acceptLaunch (s : State) (p : Part) (d asid : Nat) (ws : List Word) (by_ port : Option Nat) (sid : Nat) (parent : Word) :
    State × Word :=
  let x := s.die d
  let i := x.freeLaunch.getD 0
  let g := x.nextGen d i
  let l : Launch := { idx := i, gen := g, part := p.num, asid, desc := ws, by_, port, sid, parent, hmap := p.hmap }
  let lid := lidOf d g i
  ((s.setDie d { x with launches := x.launches ++ [l], launchGens := insert i g x.launchGens }).journal d 2 lid.toNat, lid)

/-- `LAUNCH` (R113). -/
def State.doLaunch (s : State) (d a : Reg) : State :=
  let va := s.rd a
  if va.toNat % 64 ≠ 0 then s.trap 0x10 va
  else
    match s.readRecord va 64 with
    | .stopped s => s
    | .walked => s.answerDone d badShape
    | .ok s ws =>
      match s.part? s.cpu.part with
      | none => s.answerDone d denied
      | some p =>
        match p.descRefusal ws s.here (some s.cpu.core) with
        | some r => s.answerDone d r
        | none =>
          if s.launchBusy p s.here ws then s.answerDone d busy
          else
            let (s, lid) := (s.release .part).acceptLaunch p s.here s.cpu.asid ws (some s.cpu.core) none s.cpu.sid s.cpu.lid
            s.answerDone d lid

/-- `LAUNCH` (R113). -/
def execLaunch (d a : Reg) (s : State) : Res := plain s (fun s => s.doLaunch d a)

/-- The next strand of a launch (R111, R113), once a record is free on its die and its margins are not being
re-planned (R39). -/
def State.createNext (s : State) (d : Nat) (l : Launch) (p : Part) : State :=
  match descPlace p l.hmap l.desc d l.by_ l.made with
  | none => s
  | some pl =>
    if !s.mayCreate pl.die p || (s.die pl.die).replan then s
    else
      let lid := lidOf d l.gen l.idx
      let sts := word (ceilPri p (descField l.desc 1 33 32) <<< 9 + descField l.desc 1 43 43)
      let s := s.modLaunch lid (fun l => { l with made := l.made + 1 })
      (s.create p pl.die pl.bound l.asid (l.desc.headD 0#64) lid sts (word l.made :: (l.desc.drop 4).take 3)).1

/-- Has every earlier launch of its queue port started (R34)? -/
def Die.portTurn (x : Die) (l : Launch) : Bool :=
  l.port.isNone ||
    !(x.launches.takeWhile (fun k => k.idx != l.idx)).any (fun k => k.port == l.port && k.made == 0 && !k.ended)

/-- `LAUNCH_STRAND_CREATE` (R34, R111, R113). -/
def execLaunchStrandCreate (s : State) : Res :=
  match s.subject with
  | some (.launchStrandCreate lid) =>
    (match s.launch? (word lid) with
     | none => .next s
     | some l =>
       match s.part? l.part with
       | none => .next s
       | some p => if l.ended || descCount l.desc ≤ l.made || !(s.die (lid / 2 ^ 27)).portTurn l then .next s else .next (s.createNext (lid / 2 ^ 27) l p))
  | _ => .next s

/-! ### The end of a launch (R116 to R119) -/

/-- Is this work that a strand of a launch started (R116)? -/
def Origin.of (o : Origin) (lid : Word) : Bool := o.lid == lid

/-- Outstanding requests of a launch on a die (R116). -/
def Die.outstanding (x : Die) (lid : Word) : Nat :=
  (x.requests.filter (fun m => m.from_.of lid)).length
    + (x.engines.filter (fun (_, (e : Engine)) => e.work.any (fun m => m.from_.of lid))).length
    + (x.armed.filter (fun a => a.move.from_.of lid)).length
    + (x.tasks.filter (fun t => t.from_.of lid)).length + (x.runs.filter (fun r => r.from_.of lid)).length
    + (x.joins.filter (fun j => j.from_.of lid && j.state < 2)).length
    + (x.launches.filter (fun l => l.parent == lid)).length + (x.late.filter (fun l => l.from_.of lid)).length

/-- Outstanding requests of a launch on every die that its sweep looks at, and the launches whose completion is not delivered (R116,
R124). -/
def State.outstanding (s : State) (lid : Word) (lost : List Nat) : Nat :=
  ((s.dies.filter (fun (d, (x : Die)) => !x.down && !lost.contains d)).map (fun (_, (x : Die)) => x.outstanding lid)).sum
    + (s.undelivered.filter (fun m => m.kind == 3 && m.lid == lid)).length

/-- The die on which a strand counts for its launch (R116): where it runs, waits in a pool or is parked, or where it is bound in transit. -/
def Thread.countDie (t : Thread) : Nat :=
  match t.place with
  | .parked _ d | .pool d | .transit d _ _ => d
  | .slot | .utellQueue _ => dieOf t.core

/-- Live strands of a launch on the dies that its sweep looks at (R116, R124). -/
def State.aliveIn (s : State) (lid : Word) (lost : List Nat) : Nat :=
  (s.strands.filter (fun (_, (t : Thread)) => t.lid == lid && !lost.contains t.countDie)).length

/-- Delivers the completion of a launch (R117, R118). Where its word waits at a fault (R312), its bit in SRCS is that of a strand
(DESIGN CHOICE, log 126). -/
def State.launchCompletion (s : State) (die part asid core sid : Nat) (parent : Word) (desc : List Word) (lid status : Word)
    (entry : Option (Nat × Nat)) : State :=
  s.deliver
    { die, from_ := { core, sid, lid := parent, part, asid }, form := descForm desc, chan := descField desc 1 51 50
      target := if descForm desc = 1 then word core else descTarget desc
      kind := 3, src := 0, seq := lid, status, detail := 0#64, flags := 0#64, val := status, entry }

/-- The status word of a launch (R117). -/
def launchStatus (code xdie : Nat) (lid : Word) : Word :=
  word (boolNat (code != 0) <<< 63 + code <<< 48 + xdie <<< 40 + field lid 31 0)

/-- A launch has ended: its entry is freed and its completion delivered (R117, R118). -/
def State.endLaunch (s : State) (d : Nat) (l : Launch) : State :=
  let lid := lidOf d l.gen l.idx
  let s := s.modDie d (fun x => { x with launches := x.launches.filter (fun k => k.idx != l.idx) })
  let s := s.mapDies (fun _ x => { x with bars := x.bars.filter (fun b => !(b.scope == 9 && b.unit == lid.toNat)) })
  s.launchCompletion d l.part l.asid (l.by_.getD 0xFFFF) l.sid l.parent l.desc lid (launchStatus l.code l.xdie lid) (some (2, lid.toNat))

/-- Does a sweep find nothing of a launch (R117, R124)? -/
def State.sweptClean (s : State) (l : Launch) (lid : Word) : Bool :=
  s.aliveIn lid l.lost == 0 && s.outstanding lid l.lost == 0 && (l.ended || descCount l.desc ≤ l.made)
    && (!l.lost.isEmpty || (l.sent == l.recv && l.departed == l.arrived))

/-- `LAUNCH_SWEEP` (R117, R124): at most one every 250 ns; the second of two equal clean sweeps ends the launch. -/
def execLaunchSweep (s : State) : Res :=
  match s.subject with
  | some (.launchSweep lid) =>
    (match s.launch? (word lid) with
     | none => .next s
     | some l =>
       if s.now < l.sweptAt + 250 then .next s
       else if !s.sweptClean l (word lid) then .next (s.modLaunch (word lid) (fun l => { l with swept := none, sweptAt := s.now }))
       else if l.swept = some (l.sent, l.departed) then .next (s.endLaunch (lid / 2 ^ 27) l)
       else .next (s.modLaunch (word lid) (fun l => { l with swept := some (l.sent, l.departed), sweptAt := s.now })))
  | _ => .next s

/-- Ends a launch early (R119) with a code, unless a die reset has given it code 0x01 (R124; DESIGN CHOICE, log 135): strands without a slot are retired where they are, others at their next safe
point; strands in transit on arrival. A strand that one of them then `SPAWN`s is not marked, and runs to its own end (DESIGN CHOICE,
log 108). -/
def State.callOff (s : State) (lid : Word) (code : Nat) : State :=
  let s := s.modLaunch lid (fun l => { l with ended := true, code := if l.code = 0 then code else l.code })
  let mine := (s.strands.filter (fun (_, (t : Thread)) => t.lid == lid)).map (·.1)
  mine.foldl (fun s sid =>
    match s.thread? (.strand sid) with
    | none => s
    | some t =>
      match t.place with
      | .slot | .transit .. => s.modThread (.strand sid) (fun t => { t with ending := true })
      | _ => (s.leaveQueues (.strand sid)).retire sid) s

/-! ### Queue ports (R114, R430) -/

/-- Answers a write at a queue port: 0 success, 1 retry, 2 unsupported. -/
def State.portAnswer (s : State) (port pasid a : Nat) : State := { s with qanswers := s.qanswers ++ [(port, pasid, a)] }

/-- A bad descriptor at a queue port (R114): it is logged, and its error completion is delivered where its form and target allow. -/
def State.badDescriptor (s : State) (p : Part) (d asid port : Nat) (ws : List Word) (r : Word) : State :=
  let s := s.faultLog p.num [logWord0 0x03 0 0xFFFF d 0x06, 0#64, word (field r 7 0), word port]
  let form := descForm ws
  if 2 ≤ form && descField ws 1 55 52 = 0 && p.formRefusal form (descTarget ws) = none then
    s.launchCompletion d p.num asid 0xFFFF 0xFFFFFF 0#64 ws 0#64 (launchStatus 3 0 0#64) none
  else s

/-- An unsupported request at a queue port, with its line in the management log (R430). -/
def State.portUnsupported (s : State) (port pasid : Nat) : State := (s.portAnswer port pasid 2).mgmt 0x430 (word port) (word pasid)

/-- A Deferrable Memory Write reaches a queue port (R430): it waits for the turn of its tag, unless it is unsupported or 64 of that tag
wait. -/
def State.portWrite (s : State) (port pasid offset : Nat) (ws : List Word) : State :=
  match lookup port s.qports with
  | none => s.portUnsupported port pasid
  | some q =>
    if (lookup pasid q.tags).isNone || offset ≠ 0 || ws.length ≠ 16 then s.portUnsupported port pasid
    else if 64 ≤ (q.waiting.filter (fun w => w.1 == pasid)).length then s.portAnswer port pasid 1
    else { s with qports := insert port { q with waiting := q.waiting ++ [(pasid, ws)] } s.qports }

/-- The next write that a queue port serves (R430): of the next tag in the order of its table that has one, and the place of that tag; a
write whose tag has gone comes first. -/
def QPort.next (q : QPort) : Option ((Nat × List Word) × Nat) :=
  match q.waiting.find? (fun w => (lookup w.1 q.tags).isNone) with
  | some w => some (w, q.last)
  | none =>
    ((List.range 64).map (fun i => (q.last + 1 + i) % 64)).findSome? (fun j =>
      (q.tags[j]?).bind (fun t => (q.waiting.find? (fun w => w.1 == t.1)).map (fun w => (w, j))))

/-- A queue port answers a write of one of its tags (R114, R430). -/
def State.portServe (s : State) (port : Nat) (q : QPort) (pasid : Nat) (ws : List Word) : State :=
    match lookup pasid q.tags, s.part? q.part with
    | some asid, some p =>
        let d := p.dies.headD 0
        let k := ws.getD 15 0#64
        if (s.die d).down || s.journalFull d then s.portAnswer port pasid 1
        else if k ≠ 0#64 then
          (s.faultLog p.num [logWord0 0x03 0 0xFFFF d 0x06, 0#64, word (field k 7 0), word port]).portAnswer port pasid 0
        else
          let desc := ws.take 8
          let bad := if ((ws.drop 8).take 7).any (· != 0#64) then some badShape else p.descRefusal desc d none
          match bad with
          | some r => (s.badDescriptor p d asid port desc r).portAnswer port pasid 0
          | none =>
            if s.launchBusy p d desc then s.portAnswer port pasid 1
            else ((s.acceptLaunch p d asid desc none (some port) 0xFFFFFF 0#64).1).portAnswer port pasid 0
    | _, _ => s.portUnsupported port pasid

/-- A queue port takes its next write, if that is of the launch kind or not, as asked (R430). -/
def State.portTurn (s : State) (port : Nat) (launch : Bool) : State :=
  match lookup port s.qports with
  | none => s
  | some q =>
    match q.next with
    | none => s
    | some (w, j) =>
      if (w.2.getD 15 0#64 == 0#64) != launch then s
      else
        let q := { q with waiting := q.waiting.erase w, last := j }
        { s with qports := insert port q s.qports }.portServe port q w.1 w.2

/-- `QUEUE_PORT_LAUNCH` (R114, R430). -/
def execQueuePortLaunch (s : State) : Res :=
  match s.subject with
  | some (.queuePortLaunch port pasid off ws) => .next (s.portWrite port pasid off ws)
  | some (.queuePortServe port) => .next (s.portTurn port true)
  | _ => .next s

/-- `QUEUE_PORT_OTHER_KIND` (R430): accepted, creates nothing and is logged. -/
def execQueuePortOtherKind (s : State) : Res :=
  match s.subject with
  | some (.queuePortOtherKind port pasid off ws) => .next (s.portWrite port pasid off ws)
  | some (.queuePortServeOther port) => .next (s.portTurn port false)
  | _ => .next s

/-- `QUEUE_PORT_ASSIGNMENT` (R430): a partition and a tag table of at most 64 entries, none of which names an ASID of 256 or more (R391);
another one is not taken (DEDUCED, log 111). Writes that wait at the port stay. -/
def execQueuePortAssignment (s : State) : Res :=
  match s.subject with
  | some (.queuePortAssignment port part tags) =>
    if 64 < tags.length || tags.any (fun t => 256 ≤ t.2) then .next s
    else .next { s with qports := insert port { part, tags, waiting := ((lookup port s.qports).map (·.waiting)).getD [] } s.qports }
  | _ => .next s

/-! ### `YIELD` and `MIGRATE` -/

/-- Is there an entry that `YIELD` would give its slot to (R120)? -/
def State.yieldsTo (s : State) : Bool :=
  let c := s.cpu.core
  if isUtell c then (s.die (dieOf c)).pool.any (fun e => e.bound == some c && s.takesFrom c e.part)
  else (s.candidates c).any (fun e => e.level ≤ s.cpu.pri)

/-- `YIELD` (R120). -/
def execYield (s : State) : Res :=
  plain s fun s =>
    if s.isSup then s.done
    else if s.cpu.ending || s.preempts || s.cpu.vlive || !s.yieldsTo then s.safeFinish State.done
    else s.flushAfter State.done (fun s => s.giveFlushed (some s.cpu.core))

/-- Moves the issuing strand (R121, R125): every access is performed and every result in place first (R57); a kill that is pending is
taken then, before the shipping begins; and a move to the strand's own core goes on in place. -/
def State.moveTo (s : State) (d : Reg) (die : Nat) (core : Option Nat) : State :=
  let s := (s.drain (fun p => p.ctx == s.cur)).modCpu (fun t => t.commit.quiet)
  if s.cpu.killable then (s.setPend d 0#64).killHere
  else if core = some s.cpu.core then s.answerDone d 0#64
  else s.flushAfter (fun s => s.answerDone d 0#64)
    (fun s => if die = s.here then s.giveFlushed core else s.ship die core none)

/-- `MIGRATE` to a destination, if it lies in the partition (R100, R121). -/
def State.migrate (s : State) (d : Reg) (pl : Placed) : State :=
  match s.part? s.cpu.part with
  | none => s.answerDone d denied
  | some p => if p.allows pl then s.moveTo d pl.die pl.bound else s.answerDone d denied

/-- `MIGRATE` to a core (R121). -/
def execMigrate (d a : Reg) (s : State) : Res :=
  plain s fun s =>
    if s.isSup then s.answerDone d denied
    else
      match place (s.rd a) s.cpu.core with
      | some (.core c) => s.migrate d (.core c)
      | _ => s.illegal

/-- The die that a device address belongs to (R121, R433, R434). -/
def deviceDie (here pa : Nat) : Nat :=
  if pa < 0x060000000000 then 0 else if pa < 0x0A0000000000 then 5 else if pa < 0x0C0000000000 then 12 else here

/-- `MIGRATE.near` (R121). -/
def execMigrateNear (d a : Reg) (s : State) : Res :=
  plain s fun s =>
    let va := s.rd a
    if s.isSup then s.answerDone d denied
    else if field va 63 57 ≠ 0 || (bitOf va 56 && field va 55 18 ≠ 0) then s.trap 0x13 va
    else if bitOf va 56 then s.migrate d (.pool s.here)
    else
      match s.part? s.cpu.part with
      | none => s.answerDone d denied
      | some p =>
        match s.lookupComp s.here p s.cpu.asid va.toNat with
        | .fail f => s.faultWait va .read f
        | .conflict => s.conflictTrap va
        | .ok c ipas =>
          let s := s.cacheComp s.here p.num s.cpu.asid va.toNat c ipas
          let pa := c.pa + va.toNat % 4096
          s.migrate d (.pool (if c.w then p.homeDie va.toNat else if 2 ^ 41 ≤ pa then deviceDie s.here pa else stackDie pa))

end Sys2Proof.Machine
end

