-- ==== Sys2Proof/Machine/Barriers.lean ====
section
/-! DEFINITION. Barriers (R238 to R240). -/

namespace Sys2Proof.Machine

/-- The code of a scope (R25). -/
def Scope.num (sc : Scope) : Nat :=
  match sc with
  | .str => 0 | .core => 1 | .quad => 2 | .sect => 3 | .die => 4 | .mod => 5 | .node => 6 | .pod => 7 | .part => 8 | .lnch => 9
  | .join => 10 | .sys => 11

/-- The unit of a scope that holds the issuing context, with the die that keeps its instances: the lowest-numbered of the unit
(R239, R240). The strands of a launch or of a join may lie on every die of their partition, whose lowest keeps their instances. DEDUCED
(log 114). -/
def State.barUnit (s : State) (sc : Scope) : Option (Nat × Nat) :=
  let c := s.cpu.core
  let low := match s.part? s.cpu.part with | some p => p.dies.headD 0 | none => 0
  match sc with
  | .str | .core | .sys => none
  | .quad => if isUtell c then none else some (s.here, c / 4)
  | .sect => if isUtell c then none else some (s.here, c / 16)
  | .die => some (s.here, s.here)
  | .mod | .node | .pod => some (0, 0)
  | .part => some (low, s.cpu.part)
  | .lnch => some (low, s.cpu.lid.toNat)
  | .join => (s.liveJoin (field s.cpu.jmem 47 0)).map (fun _ => (low, field s.cpu.jmem 47 0))

/-- The instance of a name on a die, as it is when its unit comes into being where there is none. -/
def Die.bar (x : Die) (part scope unit bid : Nat) : Barrier :=
  (x.bars.find? (fun b => b.part == part && b.scope == scope && b.unit == unit && b.bid == bid)).getD { part, scope, unit, bid }

/-- Sets an instance. -/
def Die.setBar (x : Die) (b : Barrier) : Die :=
  { x with bars := x.bars.filter (fun c => !(c.part == b.part && c.scope == b.scope && c.unit == b.unit && c.bid == b.bid)) ++ [b] }

/-- Does an arrival fit the open episode (R239)? -/
def Barrier.fits (b : Barrier) (n : Nat) (bara : Bool) : Bool := b.arrived == 0 || (b.count == n && b.bara == bara)

/-- An arrival counts (R239, R240). -/
def Barrier.add (b : Barrier) (n : Nat) (bara : Bool) (c : Word) : Barrier :=
  { b with count := n, bara, arrived := b.arrived + 1, sum := (if b.arrived = 0 then 0#64 else b.sum) + c }

/-- What the participants of an episode receive (R240). -/
def Barrier.result (b : Barrier) : Word := if b.bara then b.sum else word b.gen

/-- The last arrival releases every waiter and starts the next episode (R239). -/
def State.releaseBar (s : State) (d : Nat) (b : Barrier) : State :=
  let s := s.modDie d (fun x => x.setBar { b with gen := (b.gen + 1) % 2 ^ 32, arrived := 0, sum := 0#64, waiters := [] })
  b.waiters.foldl (fun s w => s.completeWait w.1 [(w.2, b.result)]) s

/-- Other modules of the pod learn of an arrival at a node or pod instance (R24, R240): partition, scope, number, arrivals, kind and
contribution. -/
def State.tellPod (s : State) (sc : Scope) (bid n : Nat) (bara : Bool) (c : Word) : State :=
  if (sc == .node || sc == .pod) && 1 < s.pod.length then
    { s with linkOut := s.linkOut ++ [[word s.cpu.part, word (Scope.num sc), word bid, word n, word bara.toNat, c]] } else s

/-- `BAR` and `BARA` (R240). -/
def State.barrier (s : State) (bara : Bool) (sc : Scope) (d a : Reg) (c : Word) : State :=
  let desc := s.rd a
  match s.barUnit sc with
  | none => s.illegal
  | some (die, unit) =>
    let n := field desc 23 0
    if field desc 63 28 ≠ 0 || n = 0 then s.illegal
    else
      let b := (s.die die).bar s.cpu.part (Scope.num sc) unit (field desc 27 24)
      if !b.fits n bara then s.trap 0x03 desc
      else
        let s := s.release sc
        let b := b.add n bara c
        if b.arrived = n then (((s.tellPod sc b.bid n bara c).releaseBar die b).answerDone d b.result)
        else s.waitHere 0x04 .barrier (fun s =>
          (s.tellPod sc b.bid n bara c).modDie die (fun x => x.setBar { b with waiters := b.waiters ++ [(s.cur, d.toNat)] }))

/-- `BAR` (R240). -/
def execBar (sc : Scope) (d a : Reg) (s : State) : Res := plain s (fun s => s.barrier false sc d a 0#64)
/-- `BARA` (R240): the contribution is in b. -/
def execBara (sc : Scope) (d a b : Reg) (s : State) : Res := plain s (fun s => s.barrier true sc d a (s.rd b))

/-- `REMOTE_BARRIER_ARRIVAL` (R240): an arrival made on another module of the pod. One that does not fit the open episode has
trapped there and does not count. -/
def execRemoteBarrierArrival (s : State) : Res :=
  match s.subject with
  | some (.remoteBarrierArrival part scope unit bid n bara c) =>
    let b := (s.die 0).bar part scope unit bid
    if n = 0 || !b.fits n bara || !(scope == 6 || scope == 7) then .next s
    else
      let b := b.add n bara c
      if b.arrived = n then .next (s.releaseBar 0 b) else .next (s.modDie 0 (fun x => x.setBar b))
  | _ => .next s

end Sys2Proof.Machine
end

