-- ==== Sys2Proof/Machine/Movement.lean ====
section
/-! DEFINITION. Copy mailboxes, movement engines, leases and trigger counters (R301 to R321). -/

namespace Sys2Proof.Machine

/-! ### Requests and their checks (R302, R306 to R311) -/

/-- Word `i` of a request's record (R302). -/
def Move.w (m : Move) (i : Nat) : Word := m.words.getD i 0#64
/-- SRC. -/
def Move.srcVa (m : Move) : Word := m.w 0
/-- DST. -/
def Move.dstVa (m : Move) : Word := m.w 1
/-- LEN. -/
def Move.len (m : Move) : Nat := (m.w 2).toNat
/-- SSTR. -/
def Move.sstr (m : Move) : Word := m.w 3
/-- DSTR. -/
def Move.dstr (m : Move) : Word := m.w 4
/-- ROWS. -/
def Move.rows (m : Move) : Nat := (m.w 5).toNat
/-- CKIND. -/
def Move.form (m : Move) : Nat := field (m.w 6) 1 0
/-- P. -/
def Move.p (m : Move) : Word := m.w 8

/-- The values that must be multiples, with the multiple, by kind (R306). -/
def moveAligned (kind : Nat) (ws : List Word) : List (Nat × Word) :=
  let w (i : Nat) : Word := ws.getD i 0#64
  match kind with
  | 0 => [(32, w 0), (32, w 1)]
  | 1 => [(32, w 0), (32, w 1), (32, w 3), (32, w 4)]
  | 2 => [(32, w 0), (32, w 1)]
  | 3 => [(32, w 0), (32, w 8), (16, w 1)]
  | 4 => [(32, w 1), (32, w 8), (16, w 0)]
  | 5 => [(32, w 0), (32, w 1), (32, w 3)]
  | 6 => [(32, w 0), (32, w 1), (32, w 4)]
  | _ => []

/-- `CheckAlign` (R305, R306): the first value that is no multiple, in the order of `moveAligned` (DESIGN CHOICE, log 137). -/
def moveMisaligned (kind : Nat) (ws : List Word) : Option Word :=
  ((moveAligned kind ws).find? (fun x => x.2.toNat % x.1 != 0)).map (·.2)

/-- The words of a record that a kind uses, beside CTL, CTARGET and VAL (R306). -/
def moveUses (kind : Nat) : List Nat :=
  match kind with
  | 0 => [0, 1, 2]
  | 1 => [0, 1, 2, 3, 4, 5]
  | 2 | 3 | 4 => [0, 1, 2, 8]
  | 5 => [0, 1, 2, 3, 5, 8]
  | _ => [0, 1, 2, 4, 5]

/-- Fields of `DEAL`'s pattern word (R308): chunk bytes, cores, first core. -/
def dealChunk (p : Word) : Nat := 32 * field p 31 21
/-- The number of cores of a `DEAL`. -/
def dealCores (p : Word) : Nat := field p 20 13 + 1
/-- The first core of a `DEAL`. -/
def dealFirst (p : Word) : Nat := field p 12 0

/-- The shape of a request but for its parameter record and completion target (R302, R306, R308, R310). -/
def moveShape (kind : Nat) (ws : List Word) : Bool :=
  let w (i : Nat) : Word := ws.getD i 0#64
  let len := (w 2).toNat
  let rows := (w 5).toNat
  let p := w 8
  let unused := (List.range 16).all (fun i => [6, 7, 9].contains i || (moveUses kind).contains i || w i == 0#64)
  let val := if field (w 6) 1 0 = 2 then !bitOf (w 9) 63 else w 9 == 0#64
  unused && field (w 6) 63 4 == 0 && val &&
    (match kind with
     | 0 => len % 32 == 0 && 32 ≤ len && len ≤ 2 ^ 32
     | 1 => len % 32 == 0 && 32 ≤ len && len ≤ 2 ^ 20 && 1 ≤ rows && rows ≤ 2 ^ 20
     | 2 => field p 63 32 == 0 && dealChunk p != 0 && len % dealChunk p == 0 && len ≤ 2 ^ 26
        && dealFirst p + dealCores p ≤ 6240 && (List.range (dealCores p)).all (fun i => dieOf (dealFirst p + i) == dieOf (dealFirst p))
     | 3 | 4 => len % 256 == 0 && 256 ≤ len && len ≤ 2 ^ 30
     | 5 => len % 32 == 0 && 32 ≤ len && len ≤ 2 ^ 24 && 1 ≤ rows && rows ≤ 256
        && field p 63 8 == 0 && field p 3 2 == 0 && field p 1 0 ≤ 2 && [0, 1, 9].contains (field p 7 4)
     | 6 => len % 32 == 0 && 32 ≤ len && len ≤ 2 ^ 24 && 1 ≤ rows && rows ≤ 4096
     | _ => false)

/-- Is a tensor parameter record valid (R191)? -/
def tensorOk (ws : List Word) (output : Bool) : Bool :=
  let w (i : Nat) : Word := ws.getD i 0#64
  let fmt := field (w 0) 7 0
  let t := field (w 0) 63 32
  let c := field (w 1) 31 0
  [0, 2, 3, 4, 6].contains fmt && field (w 0) 15 9 == 0 && field (w 0) 23 16 != 0xFF
    && (bitOf (w 0) 8 || field (w 0) 23 16 == 0) && field (w 0) 31 24 == 0
    && 0x00800000 ≤ t && t < 0x7F800000 && 0 < c && c < 0x7F800000 && field (w 1) 63 32 == 0
    && (if fmt = 3 || fmt = 4 then !output || w 2 != 0#64 else w 2 == 0#64) && w 3 == 0#64

/-- FMT of a tensor parameter record. -/
def tensorFmt (ws : List Word) : Nat := field (ws.headD 0#64) 7 0
/-- TSCALE. -/
def tensorScale (ws : List Word) : Nat := field (ws.headD 0#64) 63 32
/-- CLAMP. -/
def tensorClamp (ws : List Word) : Nat := field (ws.getD 1 0#64) 31 0
/-- X0: XFIX where SFIX is set. -/
def tensorX0 (ws : List Word) : Option Nat :=
  if bitOf (ws.headD 0#64) 8 then some (field (ws.headD 0#64) 23 16) else none
/-- SCALES. -/
def tensorScales (ws : List Word) : Word := ws.getD 2 0#64

/-- Do all places of a request lie in the partition (R305, R308)? -/
def Part.movePlaces (p : Part) (kind : Nat) (ws : List Word) : Bool :=
  kind != 2 || (List.range (dealCores (ws.getD 8 0#64))).all (fun i => p.owns (dealFirst (ws.getD 8 0#64) + i))

/-- What a request's checks give: its parameter record, a refusal, or a state where the submission does not go on. -/
inductive MoveCheck where
  | ok (s : State) (prm : List Word)
  | refuse (r : Word)
  | stopped (s : State)

/-- `CheckAlign`, `ShapeOk` and `PlacesInPartition` of a request (R305, R306, R312, R319). -/
def State.checkMove (s : State) (p : Part) (kind : Nat) (ws : List Word) : MoveCheck :=
  match moveMisaligned kind ws with
  | some v => .stopped (s.trap 0x15 v)
  | none =>
    if !moveShape kind ws then .refuse badShape
    else
      let form := p.formRefusal (field (ws.getD 6 0#64) 1 0) (ws.getD 7 0#64)
      let places (s : State) (prm : List Word) : MoveCheck :=
        match form with
        | some r => .refuse r
        | none => if p.movePlaces kind ws then .ok s prm else .refuse denied
      if form = some badShape then .refuse badShape
      else if kind = 3 || kind = 4 then
        match s.readRecord (ws.getD 8 0#64) 32 with
        | .stopped s => .stopped s
        | .walked => .refuse badShape
        | .ok s prm => if tensorOk prm (kind == 3) && tensorFmt prm == 6 then places s prm else .refuse badShape
      else places s []

/-! ### Mailboxes (R301, R303) -/

/-- Mailbox `i` of a core. -/
def Core.box (k : Core) (i : Nat) : Mailbox := k.mail.getD i {}

/-- Sets a mailbox. -/
def State.setBox (s : State) (i : Nat) (m : Mailbox) : State :=
  s.modCore s.cpu.core (fun k => { k with mail := k.mail.set i m })

/-- `MBXST` (R303). -/
def execMbxst (mb : BitVec 2) (d a : Reg) (w : BitVec 4) (s : State) : Res :=
  onBarrel s fun s =>
    let m := (s.core s.cpu.core).box mb.toNat
    match m.owner with
    | none =>
      (s.setBox mb.toNat { owner := some s.cur, words := (List.replicate 16 0#64).set w.toNat (s.rd a) }).answerDone d 0#64
    | some c =>
      if c = s.cur then (s.setBox mb.toNat { m with words := m.words.set w.toNat (s.rd a) }).answerDone d 0#64
      else s.answerDone d busy

/-! ### Submission (R304, R305) -/

/-- The name of a request in the journal: its core and its number (R304, R431). -/
def moveName (core seq : Nat) : Nat := core * 2 ^ 48 + seq

/-- `Submit` (R305). -/
def State.submit (s : State) (kind : Nat) (mb : BitVec 2) (d : Reg) : State :=
  let m := (s.core s.cpu.core).box mb.toNat
  if m.owner ≠ some s.cur then s.answerDone d badHandle
  else
    match s.part? s.cpu.part with
    | none => s.answerDone d denied
    | some p =>
      match s.checkMove p kind m.words with
      | .stopped s => s
      | .refuse r => (s.setBox mb.toNat {}).answerDone d r
      | .ok s prm =>
        if 64 ≤ (s.die s.here).waiting p.num || s.journalFull s.here then (s.setBox mb.toNat {}).answerDone d busy
        else
          let (s, n) := s.nextSeq s.cpu.core
          let s := s.journal s.here 5 (moveName s.cpu.core n)
          let s := s.modDie s.here (fun x => { x with
            requests := x.requests ++ [{ from_ := s.origin, kind, words := m.words, seq := n, prm }] })
          ((s.release .part).setBox mb.toNat {}).answerDone d (word n)

/-- `COPY` (R305, R306). -/
def execCopy (mb : BitVec 2) (d : Reg) (s : State) : Res := onBarrel s (fun s => s.submit 0 mb d)
/-- `COPYS` (R305, R306). -/
def execCopys (mb : BitVec 2) (d : Reg) (s : State) : Res := onBarrel s (fun s => s.submit 1 mb d)
/-- `DEAL` (R305, R308). -/
def execDeal (mb : BitVec 2) (d : Reg) (s : State) : Res := onBarrel s (fun s => s.submit 2 mb d)
/-- `ENCK` (R305, R309). -/
def execEnck (mb : BitVec 2) (d : Reg) (s : State) : Res := onBarrel s (fun s => s.submit 3 mb d)
/-- `DECK` (R305, R309). -/
def execDeck (mb : BitVec 2) (d : Reg) (s : State) : Res := onBarrel s (fun s => s.submit 4 mb d)
/-- `REDC` (R305, R310). -/
def execRedc (mb : BitVec 2) (d : Reg) (s : State) : Res := onBarrel s (fun s => s.submit 5 mb d)
/-- `BCAST` (R305, R311). -/
def execBcast (mb : BitVec 2) (d : Reg) (s : State) : Res := onBarrel s (fun s => s.submit 6 mb d)

/-! ### Carrying a request out (R307 to R311) -/

/-- Units of a request: frames of `ENCK` and `DECK`, sectors written of the others. -/
def Move.units (m : Move) : Nat :=
  match m.kind with
  | 1 | 6 => m.len / 32 * m.rows
  | 3 | 4 => m.len / 256
  | _ => m.len / 32

/-- Units of a segment: at most 64 KiB written (R307). -/
def Move.segUnits (m : Move) : Nat :=
  match m.kind with
  | 3 => 273
  | 4 => 64
  | _ => 2048

/-- The agent that carries out a request (R306). -/
def Move.agent (m : Move) (die : Nat) : Agent := { m.from_.agent die 3 with core := some m.from_.core }

/-- The outcome of a unit: done, or stopped at an access with what was written before it. -/
inductive UnitRes where
  | ok (s : State) (m : Move)
  | stop (s : State) (m : Move) (k : Kind) (f : Found)

/-- Writes a value and goes on. -/
def State.unitPut (s : State) (a : Agent) (m : Move) (dst : Word) (v n : Nat) : UnitRes :=
  match s.engineWriteVa a dst v n with
  | (s, none) => .ok s m
  | (s, some f) => .stop s m .write f

/-- Copies one sector. -/
def State.unitCopy (s : State) (a : Agent) (m : Move) (src dst : Word) : UnitRes :=
  match s.engineRead a src 32 with
  | .stop f => .stop s m .read f
  | .val s v => s.unitPut a m dst v 32

/-- One level of the tree of R310. -/
def treeLevel (op : Nat → Nat → Nat × FFlags) : List Nat → List Nat × FFlags
  | x :: y :: rest =>
    let (zs, f) := treeLevel op rest
    ((op x y).1 :: zs, (op x y).2 ||| f)
  | l => (l, 0#5)

/-- The tree of R310. -/
def treeReduce (op : Nat → Nat → Nat × FFlags) : Nat → List Nat → Nat × FFlags
  | 0, l => (l.headD 0, 0#5)
  | n + 1, l =>
    let (l, f) := treeLevel op l
    let (v, g) := treeReduce op n l
    (v, f ||| g)

/-- The operation of a `REDC` on patterns of its element format (R310). -/
def redcOp (p : Word) (x y : Nat) : Nat × FFlags :=
  let fp (f : FFmt) : Nat × FFlags := match field p 1 0 with
    | 0 => f.add .rne x y
    | 1 => f.minmax false x y
    | _ => f.minmax true x y
  match field p 7 4 with
  | 0 => fp f32
  | 1 => fp f64
  | _ =>
    let lt := toSigned 32 x < toSigned 32 y
    match field p 1 0 with
    | 0 => ((x + y) % 2 ^ 32, 0#5)
    | 1 => (if lt then x else y, 0#5)
    | _ => (if lt then y else x, 0#5)

/-- The bits of an element of a `REDC`. -/
def redcBits (p : Word) : Nat := if field p 7 4 = 1 then 64 else 32

/-- A result of a `REDC` with a NaN made canonical (R310). -/
def redcNan (p : Word) (x : Nat) : Nat :=
  match field p 7 4 with
  | 0 => if (f32.num x).isNan then f32.qnan else x
  | 1 => if (f64.num x).isNan then f64.qnan else x
  | _ => x

/-- Reduces sectors element by element. -/
def redcSector (p : Word) (cs : List Nat) : Nat × FFlags :=
  let w := redcBits p
  let rs := (List.range (256 / w)).map (fun e => treeReduce (redcOp p) 9 (cs.map (fun c => (c >>> (w * e)) % 2 ^ w)))
  (packNat w (rs.map (fun r => redcNan p r.1)), orFlags (rs.map (·.2)))

/-- Reads one sector of each contribution. -/
def State.readContribs (s : State) (a : Agent) (m : Move) (i : Nat) : Nat → State × Except Found (List Nat)
  | 0 => (s, .ok [])
  | n + 1 =>
    match s.readContribs a m i n with
    | (s, .error f) => (s, .error f)
    | (s, .ok vs) =>
      match s.engineRead a (m.srcVa + word n * m.sstr + word (32 * i)) 32 with
      | .stop f => (s, .error f)
      | .val s v => (s, .ok (vs ++ [v]))

/-- Where the sectors end that are whole once frame `f`, of `dn` bytes, is made: the rest of its last sector waits for the next frame, if
there is one (R235). -/
def Move.frameEnd (m : Move) (dn f : Nat) : Nat :=
  let e := m.dstVa.toNat + dn * (f + 1)
  if f + 1 = m.units then e else e / 32 * 32

/-- Where the first sector lies that frame `f` completes. -/
def Move.frameStart (m : Move) (dn f : Nat) : Nat := if f = 0 then m.dstVa.toNat else m.frameEnd dn (f - 1)

/-- Frame `f`: its source is read sector by sector, `work` makes of it what is written, sector by sector; a stop keeps what was read and
counts what was written, so that the frame goes on at that sector (R314). A sector that two frames share is written once (R235). -/
def State.unitFrame (s : State) (a : Agent) (m : Move) (src : Word) (sn : Nat) (f dn : Nat) (work : Nat → Nat × Move) : UnitRes :=
  let ps := sectors src sn
  let start := m.frameStart dn f
  let n := m.frameEnd dn f - start
  let (s, got, stop) := s.readPieces a (ps.drop m.buf.length)
  let buf := m.buf ++ got
  match stop with
  | some f => .stop s { m with buf } .read f
  | none =>
    let (v, m') := work (joinPieces ps buf)
    let v := m.tail + v <<< (8 * (m.dstVa.toNat + dn * f - start))
    let qs := sectors (word start) n
    let before := ((qs.take m.sec).map (·.2)).sum
    match s.writePieces a (v >>> (8 * before)) (qs.drop m.sec) with
    | (s, k, some f) => .stop s { m' with buf, sec := m.sec + k } .write f
    | (s, _, none) => .ok s { m' with buf := [], sec := 0, tail := v >>> (8 * n) }

/-- Frame f of `ENCK` (R309). -/
def State.unitEnck (s : State) (a : Agent) (m : Move) (f : Nat) : UnitRes :=
  s.unitFrame a m (m.srcVa + word (1024 * f)) 1024 f 240 (fun v =>
    let qs := (List.range 256).map (fun i => f32.div .rne ((v >>> (32 * i)) % 2 ^ 32) (tensorScale m.prm))
    let (bytes, fl) := encodeFrame (m.qmode.getD 0) (tensorClamp m.prm) (tensorX0 m.prm) (qs.map (·.1))
    (natOfBytes bytes, { m with flags := m.flags ||| (orFlags (qs.map (·.2)) ||| fl).toNat }))

/-- Frame f of `DECK` (R309). -/
def State.unitDeck (s : State) (a : Agent) (m : Move) (f : Nat) : UnitRes :=
  s.unitFrame a m (m.srcVa + word (240 * f)) 240 f 1024 (fun v =>
    let (vs, bad) := decodeFrame (bytesOf v 240)
    let rs := vs.map (fun x => rne32 (x.mul (f32.num (tensorScale m.prm))))
    (packNat 32 (rs.map (·.1)),
      { m with flags := m.flags ||| (orFlags (rs.map (·.2))).toNat, bad := if bad && m.bad.isNone then some f else m.bad }))

/-- Does one enabled region of a core with WR hold `n` bytes (R308)? -/
def Core.holdsChunk (k : Core) (o n : Nat) : Bool :=
  k.lspa.toList.any (fun r => bitOf r 63 && bitOf r 61 && 256 * field r 9 0 ≤ o && o + n ≤ 256 * field r 26 16)

/-- Sector u of `DEAL` (R308): a core's local store, where the whole chunk lies within a region with WR. -/
def State.unitDeal (s : State) (a : Agent) (m : Move) (u : Nat) : UnitRes :=
  let per := dealChunk m.p / 32
  let i := u / per
  let core := dealFirst m.p + i % dealCores m.p
  let chunk := m.dstVa.toNat + i / dealCores m.p * dealChunk m.p
  let off := chunk + 32 * (u % per)
  match s.engineRead a (m.srcVa + word (32 * u)) 32 with
  | .stop f => .stop s m .read f
  | .val s v =>
    if !isUtell core && (s.core core).holdsChunk chunk (dealChunk m.p) then .ok (s.engineWrite a.writer (.loc core off) v 32) m
    else .stop s m .write (.trap 0x13 (word off))

/-- Sector u of `BCAST` (R311): the source is read once. -/
def State.unitBcast (s : State) (a : Agent) (m : Move) (u : Nat) : UnitRes :=
  let n := m.len / 32
  let dst := m.dstVa + word (u / n) * m.dstr + word (32 * (u % n))
  match m.buf[u % n]? with
  | some v => s.unitPut a m dst v 32
  | none =>
    match s.engineRead a (m.srcVa + word (32 * u)) 32 with
    | .stop f => .stop s m .read f
    | .val s v => s.unitPut a { m with buf := m.buf ++ [v] } dst v 32

/-- Unit u of a request. -/
def State.moveUnit (s : State) (a : Agent) (m : Move) (u : Nat) : UnitRes :=
  match m.kind with
  | 0 => s.unitCopy a m (m.srcVa + word (32 * u)) (m.dstVa + word (32 * u))
  | 1 =>
    let n := m.len / 32
    s.unitCopy a m (m.srcVa + word (u / n) * m.sstr + word (32 * (u % n))) (m.dstVa + word (u / n) * m.dstr + word (32 * (u % n)))
  | 2 => s.unitDeal a m u
  | 3 => s.unitEnck a m u
  | 4 => s.unitDeck a m u
  | 5 =>
    (match s.readContribs a m u m.rows with
     | (s, .error f) => .stop s m .read f
     | (s, .ok cs) =>
       let (v, f) := redcSector m.p cs
       s.unitPut a { m with flags := m.flags ||| f.toNat } (m.dstVa + word (32 * u)) v 32)
  | _ => s.unitBcast a m u

/-- Carries out units up to `n` of them or the end of the request. -/
def State.moveGo (s : State) (a : Agent) (m : Move) : Nat → UnitRes
  | 0 => .ok s m
  | n + 1 =>
    if m.units ≤ m.pos then .ok s m
    else match s.moveUnit a m m.pos with
      | .ok s m =>
        let pos := m.pos + 1
        s.moveGo a { m with pos, segTail := if pos % m.segUnits = 0 then m.tail else m.segTail } n
      | r => r

/-- Is there nothing more to carry out? -/
def Move.over (m : Move) : Bool :=
  m.units ≤ m.pos || m.err.isSome || (match m.hold with | .gaveUp _ => true | _ => false)

/-- What is left of a segment (R307). -/
def Move.segLeft (m : Move) : Nat := m.segUnits - m.pos % m.segUnits

/-! ### Engines and leases (R314 to R316) -/

/-- An engine of a die. -/
def Die.engine (x : Die) (e : Nat) : Engine := (lookup e x.engines).getD {}

/-- Sets an engine. -/
def Die.setEngine (x : Die) (e : Nat) (v : Engine) : Die := { x with engines := insert e v x.engines }

/-- Engines of a die that a partition holds (R315). -/
def Die.held (x : Die) (part : Nat) : List Nat := (List.range 16).filter (fun e => (x.engine e).part == some part)

/-- Frees an engine; it passes to the oldest standing request (R315). -/
def Die.freeEngine (x : Die) (now e : Nat) : Die :=
  match x.standing with
  | [] => x.setEngine e { failed := (x.engine e).failed }
  | (p, n, per) :: rest =>
    { x.setEngine e { part := some p, period := per, until_ := now + per } with
      standing := if n ≤ 1 then rest else (p, n - 1, per) :: rest }

/-- An engine has done with its request: it is idle, or it is given back (R315). -/
def Die.idleEngine (x : Die) (now e : Nat) : Die :=
  if (x.engine e).giveBack then x.freeEngine now e else x.setEngine e { x.engine e with work := none }

/-- The rest of a request stays at the head of its partition's queue, and its engine has done with it (R314, R315). -/
def Die.giveBack (x : Die) (now e : Nat) (m : Move) : Die := { x.idleEngine now e with requests := m :: x.requests }

/-- May an engine take a request: one that does not wait at an entry (R314)? -/
def Move.free (m : Move) : Bool := match m.hold with | .fault .. => false | _ => true

/-- A request is run again from the start of its unfinished segment (R314). -/
def Move.rerun (m : Move) : Move :=
  if m.over then m
  else { m with
    pos := m.pos / m.segUnits * m.segUnits, hold := .none, buf := if m.kind = 6 then m.buf else [], sec := 0, tail := m.segTail }

/-- `MOVEMENT_DISPATCH` (R304, R315): an idle engine that the partition leases takes its oldest request; QMODE is sampled
(R183). While margins are re-planned no engine takes one (R39). -/
def execMovementDispatch (s : State) : Res :=
  match s.subject with
  | some (.movementDispatch d part) =>
    let x := s.die d
    (match x.requests.find? (fun m => m.from_.part == part && m.free),
       (x.held part).find? (fun e => (x.engine e).work.isNone && !x.down && !x.replan) with
     | some m, some e =>
       let m' := { m with qmode := some (m.qmode.getD (field s.msr 1 0)) }
       .next (s.setDie d ({ x with requests := x.requests.erase m }.setEngine e { x.engine e with work := some m' }))
     | _, _ => .next s)
  | _ => .next s

/-- After a segment (R315): an engine that is to be given back leaves the rest of the request to the partition. -/
def State.afterSegment (s : State) (d e : Nat) (m : Move) : State :=
  let x := s.die d
  if (x.engine e).giveBack && !m.over then s.setDie d (x.giveBack s.now e m)
  else s.setDie d (x.setEngine e { x.engine e with work := some m })

/-- `MOVEMENT_SEGMENT_END` (R307, R313): the rest of a segment is carried out. Where an access is to wait, that is
`MOVEMENT_FAULT`. -/
def execMovementSegmentEnd (s : State) : Res :=
  match s.subject with
  | some (.movementSegmentEnd d e) =>
    (match ((s.die d).engine e).work with
     | none => .next s
     | some m =>
       if m.over || m.hold != .none then .next s
       else match s.moveGo (m.agent d) m m.segLeft with
         | .ok s m => .next (s.afterSegment d e m).serveWords
         | .stop s' m k f =>
           match s'.engineStop (m.agent d) k f with
           | (s', .end_ code detail) => .next (s'.afterSegment d e { m with err := some (code, detail) }).serveWords
           | (_, .wait _) => .next s)
  | _ => .next s

/-- `MOVEMENT_FAULT` (R314, R399): the request is carried out up to the sector whose access waits. At a fault entry it waits with its
partition, so that the engine takes other requests; at a write-back it keeps its engine. -/
def execMovementFault (s : State) : Res :=
  match s.subject with
  | some (.movementFault d e) =>
    (match ((s.die d).engine e).work with
     | none => .next s
     | some m =>
       if m.over || m.hold != .none then .next s
       else match s.moveGo (m.agent d) m m.segLeft with
         | .ok _ _ => .next s
         | .stop s' m k f =>
           match s'.engineStop (m.agent d) k f with
           | (_, .end_ _ _) => .next s
           | (s', .wait h) =>
             .next (s'.modDie d (fun x => if h = .none then x.setEngine e { x.engine e with work := some m }
               else x.giveBack s.now e { m with hold := h })).serveWords)
  | _ => .next s

/-- The error a request ends with: code and detail (R313). One after a malformed frame takes its place (DESIGN CHOICE, log 139). -/
def Move.error (m : Move) : Option (Nat × Word) :=
  match m.hold, m.err, m.bad with
  | .gaveUp va, _, _ => some (1, word (va / 4096 * 4096))
  | _, some e, _ => some e
  | _, none, some f => some (4, word f)
  | _, none, none => none

/-- `MOVEMENT_COMPLETE` (R312, R313): the completion is delivered and the engine is idle. -/
def execMovementComplete (s : State) : Res :=
  match s.subject with
  | some (.movementComplete d e) =>
    let x := s.die d
    (match (x.engine e).work with
     | none => .next s
     | some m =>
       if !m.over then .next s
       else
         let s := s.setDie d (x.idleEngine s.now e)
         let (code, detail) := m.error.getD (0, 0#64)
         let status := word (boolNat (code != 0) <<< 63 + code <<< 48 + m.seq)
         .next (s.deliver
           { die := d, from_ := m.from_, form := m.form, chan := field (m.w 6) 3 2, target := m.w 7, kind := 2, src := 3
             seq := word m.seq, status, detail, flags := word m.flags, val := if code = 0 then m.w 9 else status
             entry := some (5, moveName m.from_.core m.seq) }))
  | _ => .next s

/-- `LEASE_PERIOD_END` (R315). -/
def execLeasePeriodEnd (s : State) : Res :=
  match s.subject with
  | some (.leasePeriodEnd d e) =>
    let x := s.die d
    let g := x.engine e
    if g.part.isNone || s.now < g.until_ then .next s
    else if x.standing.any (fun r => some r.1 != g.part) then
      .next (s.setDie d (match g.work with
        | none => x.freeEngine s.now e
        | some _ => x.setEngine e { g with giveBack := true }))
    else .next (s.setDie d (x.setEngine e { g with until_ := s.now + g.period }))
  | _ => .next s

/-- `MOVEMENT_ENGINE_FAILURE` (R314): the request is re-run on another engine from the start of its unfinished segment. -/
def execMovementEngineFailure (s : State) : Res :=
  match s.subject with
  | some (.movementEngineFailure d e) =>
    let x := s.die d
    let lost := (x.engine e).work.toList.map Move.rerun
    .next (s.setDie d { x.setEngine e { failed := true } with requests := lost ++ x.requests })
  | _ => .next s

/-- Is a lease word well formed (R316)? -/
def leaseOk (w : Word) (unlease : Bool) : Bool :=
  let per := field w 47 32
  field w 63 48 == 0 && field w 31 13 == 0 && field w 7 5 == 0 && field w 4 0 < 24 && 1 ≤ field w 12 8 && field w 12 8 ≤ 16
    && (per == 0 || (!unlease && 10 ≤ per && per ≤ 10000))

/-- Grants up to `n` free engines (R316). -/
def Die.grant (x : Die) (part now period : Nat) : Nat → Die × Nat
  | 0 => (x, 0)
  | n + 1 =>
    match (List.range 16).find? (fun e => (x.engine e).part.isNone && !(x.engine e).failed) with
    | none => (x, 0)
    | some e =>
      let (x, g) := (x.setEngine e { part := some part, period, until_ := now + period }).grant part now period n
      (x, g + 1)

/-- `LEASE` (R316). -/
def execLease (d a : Reg) (s : State) : Res :=
  needSupBarrel s fun s =>
    let w := s.rd a
    if !leaseOk w false then s.illegal
    else
      let die := field w 4 0
      let x := s.die die
      match s.part? s.cpu.part with
      | none => s.answerDone d denied
      | some p =>
        if !p.dies.contains die || p.mquota < (x.held p.num).length + field w 12 8 then s.answerDone d denied
        else
          let per := 1000 * (if field w 47 32 = 0 then 100 else field w 47 32)
          let (x, g) := x.grant p.num s.now per (field w 12 8)
          let rest := x.standing.filter (fun r => r.1 != p.num)
          let x := { x with standing := if g < field w 12 8 then rest ++ [(p.num, field w 12 8 - g, per)] else rest }
          (s.setDie die x).answerDone d (word g)

/-- Releases up to `n` engines of a partition: an engine that works finishes its segment (R316). Idle ones go first, and those that are being
given back already do not count (DESIGN CHOICE, log 140). -/
def Die.unlease (x : Die) (part now : Nat) : Nat → Die × Nat
  | 0 => (x, 0)
  | n + 1 =>
    let mine := (x.held part).filter (fun e => !(x.engine e).giveBack)
    match mine.find? (fun e => (x.engine e).work.isNone), mine with
    | some e, _ =>
      let (x, g) := (x.freeEngine now e).unlease part now n
      (x, g + 1)
    | none, e :: _ =>
      let (x, g) := (x.setEngine e { x.engine e with giveBack := true }).unlease part now n
      (x, g + 1)
    | none, [] => (x, 0)

/-- `UNLEASE` (R316). -/
def execUnlease (d a : Reg) (s : State) : Res :=
  needSupBarrel s fun s =>
    let w := s.rd a
    if !leaseOk w true then s.illegal
    else
      let die := field w 4 0
      match s.part? s.cpu.part with
      | none => s.answerDone d denied
      | some p =>
        if !p.dies.contains die then s.answerDone d denied
        else
          let x := s.die die
          let (x, g) := { x with standing := x.standing.filter (fun r => r.1 != p.num) }.unlease p.num s.now (field w 12 8)
          (s.setDie die x).answerDone d (word g)

/-! ### Trigger counters (R317 to R320) -/

/-- `TRIGSET` (R11, R318). -/
def execTrigset (d a b : Reg) (s : State) : Res :=
  onBarrel s fun s =>
    let n := s.rd a
    if field n 63 17 ≠ 0 || 24 ≤ field n 16 12 || field (s.rd b) 63 48 ≠ 0 then s.illegal
    else
      match s.part? s.cpu.part with
      | none => s.answerDone d denied
      | some p =>
        if !p.allotted n.toNat then s.answerDone d denied
        else
          let old := s.trigger n.toNat
          (((s.release .part).setTrigger n.toNat (s.rd b).toNat).firingCheck n.toNat).answerDone d (word old)

/-- `TRIGRD` (R11, R318). -/
def execTrigrd (d a : Reg) (s : State) : Res :=
  onBarrel s fun s =>
    let n := s.rd a
    if field n 63 17 ≠ 0 || 24 ≤ field n 16 12 then s.illegal
    else
      match s.part? s.cpu.part with
      | none => s.answerDone d denied
      | some p => s.answerDone d (if p.allotted n.toNat then word (s.trigger n.toNat) else denied)

/-- Arms a transfer whose checks have passed (R319, R320). -/
def State.arm (s : State) (d : Reg) (w : Word) (ws prm : List Word) : State :=
  let cnum := field w 16 0
  let die := cnum / 4096
  if 2048 ≤ (s.die die).armed.length || s.journalFull die then s.answerDone d busy
  else
    let (s, n) := s.nextSeq s.cpu.core
    let s := s.journal die 5 (moveName s.cpu.core n)
    let s := s.modDie die (fun x => { x with armed := x.armed ++ [{
      cnum, thresh := field w 63 24, move := { from_ := s.origin, kind := field w 19 17, words := ws, seq := n, prm } }] })
    ((s.release .part).firingCheck cnum).answerDone d (word n)

/-- `TRIGARM` (R319). A counter number that names no die (R11) traps after the check of the record's address, and the order of the other
checks is as log 116 has it (DEDUCED). -/
def execTrigarm (d a b : Reg) (s : State) : Res :=
  plain s fun s =>
    let va := s.rd a
    let w := s.rd b
    if va.toNat % 128 ≠ 0 then s.trap 0x10 va
    else if 24 ≤ field w 16 12 then s.illegal
    else
      match s.readRecord va 128 with
      | .stopped s => s
      | .walked => s.answerDone d badShape
      | .ok s ws =>
        match s.part? s.cpu.part with
        | none => s.answerDone d denied
        | some p =>
          match s.checkMove p (field w 19 17) ws with
          | .stopped s => s
          | .refuse r =>
            s.answerDone d (if field w 63 24 = 0 || field w 23 20 ≠ 0 then badShape else r)
          | .ok s prm =>
            if field w 63 24 = 0 || field w 23 20 ≠ 0 then s.answerDone d badShape
            else if !p.allotted (field w 16 0) then s.answerDone d denied
            else s.arm d w ws prm

/-- `TRIGGERED_ENQUEUE` (R320): a fired transfer enters the request queue once it has room. -/
def execTriggeredEnqueue (s : State) : Res :=
  match s.subject with
  | some (.triggeredEnqueue d part) =>
    let x := s.die d
    (match x.armed.find? (fun a => a.fired && a.move.from_.part == part) with
     | some a =>
       if 64 ≤ x.waiting part then .next s
       else .next (s.setDie d { x with armed := x.armed.erase a, requests := x.requests ++ [a.move] })
     | none => .next s)
  | _ => .next s

end Sys2Proof.Machine
end

