-- ==== Sys2Proof/Machine/Matrix.lean ====
section
/-! DEFINITION. Accumulator sets and tiles (R322 to R327), and the records, dependences and engines of tile tasks and of
state-space runs (R328 to R333, R350 to R353). -/

namespace Sys2Proof.Machine

/-! ### Elements of a bank -/

/-- Reads `n` elements of 4 bytes from `a` on, walking the cells once. -/
def elems4 : Nat → Nat → List Host.Cell → List Nat
  | 0, _, _ => []
  | n + 1, a, l =>
    ((l.takeWhile (fun c => c.1 < a + 4)).map (fun c => c.2.toNat <<< (8 * (c.1 - a)))).sum
      :: elems4 n (a + 4) (l.dropWhile (fun c => c.1 < a + 4))

/-- The cells of 4-byte elements from `a` on: the bytes that are not zero. -/
def elemCells : Nat → List Nat → List Host.Cell
  | _, [] => []
  | a, v :: vs =>
    ((List.range 4).map (fun i => (a + i, BitVec.ofNat 8 (v >>> (8 * i))))).filter (fun c => c.2 != 0#8) ++ elemCells (a + 4) vs

/-- Reads `n` elements of 4 bytes. -/
def Bank.elems (m : Bank) (a n : Nat) : List Nat := elems4 n a (m.cells.dropWhile (fun c => c.1 < a))

/-- Replaces the 4-byte elements from `a` on; the words they fill are no longer poisoned (R212). -/
def Bank.setElems (m : Bank) (a : Nat) (vs : List Nat) : Bank :=
  { m with
    cells := m.cells.takeWhile (fun c => c.1 < a) ++ elemCells a vs ++ m.cells.dropWhile (fun c => c.1 < a + 4 * vs.length)
    poison := m.poison.filter (fun p => p < a / 8 || (a + 4 * vs.length) / 8 ≤ p) }

/-- Is some word of `n` elements of 4 bytes from `a` on poisoned (R211)? -/
def Bank.elemsPoisoned (m : Bank) (a n : Nat) : Bool := m.poison.any (fun p => a / 8 ≤ p && p < (a + 4 * n + 7) / 8)

/-! ### Handles of accumulator sets (R323) -/

/-- The fields of a handle. -/
structure AccSet where
  gen : Nat
  die : Nat
  q0 : Nat
  nq : Nat
  t0 : Nat
  nt : Nat
  deriving DecidableEq, Repr

/-- Reads a handle. -/
def accSet (h : Word) : AccSet :=
  { gen := field h 55 40, die := field h 39 35, q0 := field h 34 29, nq := field h 28 24 + 1, t0 := field h 23 20
    nt := field h 19 16 + 1 }

/-- Forms a handle. -/
def AccSet.handle (a : AccSet) : Word :=
  word (a.gen <<< 40 + a.die <<< 35 + a.q0 <<< 29 + (a.nq - 1) <<< 24 + a.t0 <<< 20 + (a.nt - 1) <<< 16)

/-- The tiles of a set, as 16 × quad + tile, tile by tile within quad by quad. -/
def AccSet.tiles (a : AccSet) : List Nat :=
  (List.range a.nq).flatMap (fun q => (List.range a.nt).map (fun t => 16 * (a.q0 + q) + a.t0 + t))

/-- Is a handle live (R323)? One whose DIE is 24 or more names no live set (DESIGN CHOICE, log 123). -/
def State.accLive (s : State) (h : Word) : Bool :=
  let a := accSet h
  field h 63 56 == 0 && field h 15 0 == 0 && a.gen != 0 && a.die < 24 && a.q0 + a.nq ≤ 64 && a.t0 + a.nt ≤ 16
    && a.tiles.all (fun t => lookup t (s.die a.die).tiles == some a.gen)

/-- Where the elements of a tile begin in a die's bank. -/
def tileBase (tile : Nat) : Nat := 2 ^ 16 * tile

/-! ### Records of tasks (R328, R329) -/

/-- Word `i` of a task's record. -/
def Task.w (t : Task) (i : Nat) : Word := t.words.getD i 0#64
/-- MDIM. -/
def Task.m (t : Task) : Nat := field (t.w 4) 15 0
/-- NDIM. -/
def Task.n (t : Task) : Nat := field (t.w 4) 31 16
/-- KDIM. -/
def Task.k (t : Task) : Nat := field (t.w 4) 63 32
/-- K / 32. -/
def Task.nkb (t : Task) : Nat := t.k / 32
/-- ACC. -/
def Task.acc (t : Task) : AccSet := accSet (t.w 5)
/-- EADDR. -/
def Task.eaddr (t : Task) : Word := t.w 6
/-- ESTR. -/
def Task.estr (t : Task) : Nat := field (t.w 7) 31 0
/-- CTL.PRI. -/
def Task.pri (t : Task) : Nat := field (t.w 7) 33 32
/-- CTL.ZINIT. -/
def Task.zinit (t : Task) : Bool := bitOf (t.w 7) 40
/-- CTL.JB. -/
def Task.jb (t : Task) : Bool := bitOf (t.w 7) 41
/-- CTL.NDEP. -/
def Task.ndep (t : Task) : Nat := field (t.w 7) 44 42
/-- The join handle of JBIND. -/
def Task.join (t : Task) : Nat := field (t.w 9) 47 0
/-- The member index of JBIND. -/
def Task.memb (t : Task) : Nat := field (t.w 9) 63 56
/-- The tensor parameter record of A, B or the output (R328). -/
def Task.tensor (t : Task) (o : Nat) : List Word := (t.prm.drop (4 * o)).take 4

/-- Result tiles of a task (R333). -/
def Task.ntile (t : Task) : Nat := (t.m / 128) * (t.n / 128)
/-- The tile that holds result tile `i`, as 16 × quad + tile (R333). -/
def Task.tile (t : Task) (i : Nat) : Nat := 16 * (t.acc.q0 + i / t.acc.nt) + t.acc.t0 + i % t.acc.nt
/-- The quads that take part (R333). -/
def Task.quads (t : Task) : List Nat := (List.range ((t.ntile - 1) / t.acc.nt + 1)).map (t.acc.q0 + ·)
/-- Is it a span task (R333)? -/
def Task.span (t : Task) : Bool := 1 < t.quads.length
/-- The agent that carries out a task on a die (R334), for scopes the engines of its quads, and the join it is bound to
(R25; DESIGN CHOICE, log 31). -/
def Task.agent (t : Task) (d : Nat) : Agent :=
  { t.from_.agent d 2 with join := if t.jb then t.join else 0, quads := (List.range t.acc.nq).map (fun i => 64 * d + t.acc.q0 + i) }

/-! ### Control blocks of runs (R350, R351) -/

/-- Word `i` of a run's control block. -/
def Run.w (r : Run) (i : Nat) : Word := r.words.getD i 0#64
/-- LEN. -/
def Run.len (r : Run) : Nat := field (r.w 12) 63 32
/-- CLEN. -/
def Run.clen (r : Run) : Nat := field (r.w 13) 15 0
/-- FT: FTHR, or 64 where it is zero (R353). -/
def Run.ft (r : Run) : Nat := if field (r.w 13) 31 16 = 0 then 64 else field (r.w 13) 31 16
/-- NDIM. -/
def Run.n (r : Run) : Nat := field (r.w 13) 47 32
/-- PDIM. -/
def Run.p (r : Run) : Nat := field (r.w 13) 63 48
/-- HEADS. -/
def Run.heads (r : Run) : Nat := field (r.w 14) 15 0
/-- FMT. -/
def Run.fmt (r : Run) : Nat := field (r.w 14) 23 16
/-- The size of an element of x, B and C. -/
def Run.e (r : Run) : Nat := if r.fmt = 0 then 4 else 2
/-- QUAD0. -/
def Run.q0 (r : Run) : Nat := field (r.w 14) 31 24
/-- NQM + 1. -/
def Run.nq (r : Run) : Nat := field (r.w 14) 39 32 + 1
/-- CTL.PRI. -/
def Run.pri (r : Run) : Nat := field (r.w 14) 55 54
/-- CTL.DEPV. -/
def Run.depv (r : Run) : Bool := bitOf (r.w 14) 53
/-- CTL.INIT. -/
def Run.init (r : Run) : Bool := bitOf (r.w 14) 52
/-- Chunks per head (R353). -/
def Run.nch (r : Run) : Nat := (r.len + r.clen - 1) / r.clen
/-- Heads that run on the `i`-th quad of the run (R359). -/
def Run.headsOn (r : Run) (i : Nat) : Nat := (r.heads + r.nq - 1 - i) / r.nq
/-- Units of the `i`-th quad (R359). -/
def Run.unitsOn (r : Run) (i : Nat) : Nat := r.nch * r.headsOn i
/-- Units done on the `i`-th quad. -/
def Run.doneOn (r : Run) (i : Nat) : Nat := r.done.getD i 0
/-- Units of the whole run. -/
def Run.units (r : Run) : Nat := r.nch * r.heads

/-! ### Engines (R338, R342, R359) -/

/-- The engine that works for a quad: its own, or, where that has failed, the next quad's (R342). -/
def Die.engineOf (x : Die) (q : Nat) : Nat :=
  (((List.range 64).map (fun i => (q + i) % 64)).find? (fun e => !x.engFail.contains e)).getD q

/-- The engines of a task. -/
def Die.taskEngines (x : Die) (t : Task) : List Nat := t.quads.map x.engineOf

/-- The engines that run units of a run. -/
def Die.runEngines (x : Die) (r : Run) : List Nat := r.active.map (fun u => x.engineOf (r.q0 + u.quad))

/-- Is an engine free? -/
def Die.engineFree (x : Die) (e : Nat) : Bool :=
  !x.tasks.any (fun t => t.running && (x.taskEngines t).contains e) && !x.runs.any (fun r => (x.runEngines r).contains e)

/-- Does a tile's lock stand at its die: its task runs, or its completion word waits (R337)? -/
def Die.locked (x : Die) (tile : Nat) : Bool :=
  x.tasks.any (fun t => t.running && t.acc.tiles.contains tile) || x.late.any (fun l => l.tiles.contains tile)

/-- Is a tile locked (R337)? The lock also stands until the completion message of its task is delivered. -/
def State.tileLocked (s : State) (d tile : Nat) : Bool :=
  (s.die d).locked tile
    || s.undelivered.any (fun m => match m.lock with | some (e, ts) => e == d && ts.contains tile | none => false)

/-! ### Dependences (R330) -/

/-- The chain of a partition in a list of chains; one that was never used gives 1 next. -/
def chainOf (cs : List Chain) (part : Nat) : Chain := (cs.find? (fun c => c.part == part)).getD { part }

/-- Sets a chain. -/
def setChain (cs : List Chain) (c : Chain) : List Chain := c :: cs.filter (fun x => x.part != c.part)

/-- Is a sequence number older than the history (R330, R335)? -/
def Chain.old (c : Chain) (seq : Nat) : Bool := seq + 65536 < c.next

/-- The outcome of a completed number: code and progress. -/
def Chain.outcome (c : Chain) (seq : Nat) : Option (Nat × Nat) := (c.hist.find? (fun h => h.1 == seq)).map (·.2)

/-- Records an outcome, keeping the 65,536 most recent numbers (R335). -/
def Chain.record (c : Chain) (seq code progress : Nat) : Chain :=
  { c with hist := (seq, code, progress) :: c.hist.filter (fun h => !c.old h.1) }

/-- Is a dependence word met or failed (R330)? `decided` holds the join dependences that are decided; none where it is open. -/
def State.depState (s : State) (part : Nat) (decided : List (Nat × Bool)) (i : Nat) (w : Word) : Option Bool :=
  if bitOf w 63 then lookup i decided
  else
    let c := chainOf (s.die (field w 52 48)).chains part
    let seq := field w 47 0
    if seq = 0 || c.old seq then some true else (c.outcome seq).map (fun o => o.1 == 0)

/-- The dependences of a task. -/
def State.taskDeps (s : State) (t : Task) : List (Option Bool) :=
  (List.range t.ndep).map (fun i => s.depState t.part t.deps i (t.w (12 + i)))

/-- The dependence of a run. -/
def State.runDeps (s : State) (r : Run) : List (Option Bool) :=
  if r.depv then [s.depState r.part r.deps 0 (r.w 9)] else []

/-- What a check of a dependence word at acceptance finds (R331, R352): BADSHAPE, BADHANDLE or DENIED. -/
def State.depRefusal (s : State) (p : Part) (w : Word) : Option Word :=
  if bitOf w 63 then
    match s.liveJoin (field w 62 0) with
    | none => some badHandle
    | some (_, j) => if j.from_.part = p.num then none else some denied
  else if field w 62 53 ≠ 0 || 24 ≤ field w 52 48 then some badShape
  else if !p.dies.contains (field w 52 48) then some denied
  else if (chainOf (s.die (field w 52 48)).chains p.num).next ≤ field w 47 0 then some badShape else none

/-- Join dependences that are decided at acceptance (R330). -/
def State.decidedDeps (s : State) (ws : List Word) : List (Nat × Bool) :=
  ws.zipIdx.filterMap (fun (w, i) =>
    if bitOf w 63 then
      match s.liveJoin (field w 62 0) with
      | some (_, j) => if 2 ≤ j.state then some (i, j.state == 2) else none
      | none => none
    else none)

/-- The first refusal of a list in the order BADSHAPE, BADHANDLE, DENIED (R331, R343). -/
def firstRefusal (l : List (Option Word)) : Option Word :=
  let rs := l.filterMap id
  [badShape, badHandle, denied].find? rs.contains

/-- Does the partition hold a quad of a die (R324)? -/
def Part.hasQuad (p : Part) (d q : Nat) : Bool := p.hasIdx d (4 * q)

/-- Tasks and runs of a partition on a die (R336, R363). -/
def Die.entriesOf (x : Die) (part : Nat) : Nat :=
  (x.tasks.filter (fun t => t.part == part)).length + (x.runs.filter (fun r => r.part == part)).length

/-- Is there no room for a task or a run (R336, R343, R363, R431)? -/
def State.chainBusy (s : State) (d : Nat) (p : Part) : Bool :=
  p.tquota ≤ (s.die d).entriesOf p.num || 4096 ≤ (s.die d).tasks.length + (s.die d).runs.length || s.journalFull d

/-! ### `ACCAL` and `ACCFR` (R325) -/

/-- The least first tile with all tiles free in every quad. -/
def Die.fit (x : Die) (q0 nq nt : Nat) : Option Nat :=
  (List.range (17 - nt)).find? (fun t0 =>
    (AccSet.tiles { gen := 0, die := 0, q0, nq, t0, nt }).all (fun t => (lookup t x.tiles).isNone))

/-- `ACCAL` for a partition. -/
def State.accAlloc (s : State) (p : Part) (w : Word) : State × Word :=
  let core := field w 12 0
  let nq := field w 20 16 + 1
  let nt := field w 27 24 + 1
  let die := core / 256
  let q0 := core % 256 / 4
  if field w 63 28 ≠ 0 || field w 23 21 ≠ 0 || field w 15 13 ≠ 0 || 6144 ≤ core || 64 < q0 + nq then (s, badShape)
  else if !(List.range nq).all (fun i => p.hasQuad die (q0 + i)) then (s, denied)
  else
    let x := s.die die
    match x.fit q0 nq nt with
    | none => (s, busy)
    | some t0 =>
      let gen := x.accGen % 65535 + 1
      let a : AccSet := { gen, die, q0, nq, t0, nt }
      (s.setDie die { x with accGen := gen, tiles := a.tiles.foldl (fun ts t => insert t gen ts) x.tiles }, a.handle)

/-- `ACCAL` (R325). -/
def execAccal (d a : Reg) (s : State) : Res :=
  onBarrel s fun s =>
    match s.part? s.cpu.part with
    | none => s.answerDone d denied
    | some p =>
      let (s', r) := s.accAlloc p (s.rd a)
      s'.answerDone d r

/-- Frees a live set: its tiles are zeroed (R325). -/
def State.accFree (s : State) (a : AccSet) : State :=
  s.modDie a.die (fun x => { x with
    acc := a.tiles.foldl (fun m t => m.setElems (tileBase t) (List.replicate 16384 0)) x.acc
    tiles := a.tiles.foldl (fun ts t => erase t ts) x.tiles })

/-- `ACCFR` (R325). -/
def execAccfr (d a : Reg) (s : State) : Res :=
  onBarrel s fun s =>
    let h := s.rd a
    if !s.accLive h then s.answerDone d badHandle
    else
      let x := s.die (accSet h).die
      if x.tasks.any (fun t => t.w 5 == h) || (accSet h).tiles.any (s.tileLocked (accSet h).die) then s.answerDone d busy
      else (s.accFree (accSet h)).answerDone d 0#64

/-! ### `ACCLD`, `ACCST` and `ACCZ` (R326, R327) -/

/-- What R327's checks give: the tile, or the state in which the instruction traps, or waits in its slot for the tile (R28). -/
def State.reachTile (s : State) (h i : Word) (go : Nat → State) : State :=
  let a := accSet h
  if !s.accLive h || a.die ≠ s.here then s.trap 0x13 h
  else if field i 63 19 ≠ 0 || a.nq ≤ field i 18 14 || a.nt ≤ field i 13 10 then s.trap 0x13 i
  else
    let tile := 16 * (a.q0 + field i 18 14) + a.t0 + field i 13 10
    if s.tileLocked s.here tile then s.modCpu (fun t => { t with wait := .tile s.here [tile] }) else go tile

/-- Where the segment of an index begins. -/
def segBase (tile : Nat) (i : Word) : Nat := tileBase tile + 4 * (128 * field i 9 3 + 16 * field i 2 0)

/-- `ACCLD` (R326). A poisoned word of the segment is consumed (R211, R212): the accumulator store has no address, and TVAL holds the
index. DEDUCED (log 118). -/
def execAccld (d : VReg) (a b : Reg) (imm : BitVec 16) (s : State) : Res :=
  onBarrel s fun s =>
    let i := s.rd b + sx16 imm
    s.reachTile (s.rd a) i (fun tile =>
      if (s.die s.here).acc.elemsPoisoned (segBase tile i) 16 then s.trap 0x14 i else
      let v := packNat 32 ((s.die s.here).acc.elems (segBase tile i) 16)
      (s.modCpu (fun t => (t.answer [(vNum d, v)] false false).live)).done)

/-- `ACCST` (R326). -/
def execAccst (d a : Reg) (b : VReg) (imm : BitVec 16) (s : State) : Res :=
  onBarrel s fun s =>
    let i := s.rd d + sx16 imm
    s.reachTile (s.rd a) i (fun tile =>
      (s.modDie s.here (fun x => { x with acc := x.acc.setElems (segBase tile i) (lanes 32 16 (s.vrd b)) })).done)

/-- `ACCZ` (R326): a short wait of 64 cycles. -/
def execAccz (a b : Reg) (s : State) : Res :=
  onBarrel s fun s =>
    s.reachTile (s.rd a) (s.rd b) (fun tile =>
      (s.modDie s.here (fun x => { x with acc := x.acc.setElems (tileBase tile) (List.replicate 16384 0) })).doneHold 64)

end Sys2Proof.Machine
end

