-- ==== Sys2Proof/Machine/Issue.lean ====
section
/-! DEFINITION. What comes before and after the issue of one instruction: the checks of R60, the scoreboard (R58, R59, R219), readiness
and rotation (R16, R102), core cycles (R54), and the end of a step (R267). -/

namespace Sys2Proof.Machine

/-! ### The checks of R60 -/

/-- Opcodes that need STS.SUP (R93). -/
def opNeedsSup (op : Nat) : Bool :=
  (op / 16 == 15 && op != 0xF0 && op != 0xF2) || op == 0xE7 || op == 0xE8 || op == 0xDB

/-- Opcodes that a Utell core lacks (R92). -/
def opBarrelOnly (op : Nat) : Bool := (5 ≤ op / 16 && op / 16 ≤ 7) || 12 ≤ op / 16 && op / 16 ≤ 14

/-- Opcodes that accept a pending format (R196): the vector forms of rows 8 and 9. -/
def opTakesFormat (op : Nat) : Bool := [0x72, 0x81, 0x82, 0x83, 0x85, 0x91, 0x92, 0x93, 0x95].contains op

/-- Opcodes that accept the relaxed prefix (R220). -/
def opTakesRelaxed (op : Nat) : Bool :=
  (op / 16 == 8 || op / 16 == 9) && !([0x86, 0x87, 0x88, 0x96, 0x97, 0x98].contains op)

/-- Is a pending prefix one that the opcode accepts (R196, R220)? `FMT` and `RLX` add to what is pending, and `MOVS` and `MOVT`
leave it pending (R131; DEDUCED, log 18). -/
def Thread.prefixFits (t : Thread) (op : Nat) : Bool :=
  op == 0x70 || op == 0x71 || op == 0x35 || op == 0x36 || ((!t.pfxf || opTakesFormat op) && (!t.pfxr || opTakesRelaxed op))

/-- The first source register whose youngest producer has an unmet latency, with the shortfall (R59). That TVAL names the first in the order
of `Thread.sources`, where several have one, is a DESIGN CHOICE (log 105). -/
def Thread.undersized (t : Thread) : List Nat → Option (Nat × Nat)
  | [] => none
  | r :: rest =>
    match (t.fly.filter (fun f => f.reg == r && f.up == 0 && r != 0)).getLast? with
    | some f => some (r, f.left)
    | none => t.undersized rest

/-- Rows 8, 9 and A but `FENCE`, `WAITA` and `BHINT`: accesses (R219). -/
def opAccess (op : Nat) : Bool := op / 16 == 8 || op / 16 == 9 || (op / 16 == 10 && op % 16 ≤ 8)

/-- Must the instruction wait (R58, R219)? A register it touches is pending, or it is an access and an earlier ordinary
access is not performed or eight relaxed ones are outstanding; `WAITA` and `VDROP` wait for what R242 and R155 name. -/
def Thread.mustWait (t : Thread) (isSup : Bool) (op : Nat) (i : Instr) : Bool :=
  t.pendingAny ((t.sources isSup i ++ Thread.targets isSup i).filter (· != 0))
    || (opAccess op && (t.outs.any (·.ordinary) || 8 ≤ (t.outs.filter (·.relaxed)).length))
    || (op == 0xAA && !t.outs.isEmpty)

/-- What the checks of R60 and the scoreboard say of an instruction. -/
inductive Verdict where
  | trap (cause : Nat) (val : Word)
  | wait
  | issue (i : Instr)
  deriving DecidableEq, Repr

/-- Does a Utell core refuse the scope of a barrier (R82, R240)? -/
def badScope (core : Nat) : Instr → Bool
  | .bar sc _ _ | .bara sc _ _ _ => isUtell core && (sc == .quad || sc == .sect)
  | _ => false

/-- The checks of R60 in their order, and the scoreboard (R58, R219), for the instruction in the issue latch. A pending prefix that the
opcode does not accept (R196, R220) is an illegal operand in R60's place for it, before the undersized stall (DESIGN CHOICE, log 124). -/
def State.verdict (s : State) : Verdict :=
  let op := (headOp s.cpu.head).toNat
  let head := s.cpu.head.setWidth 64
  let illegal := op == 0 || opReserved (headOp s.cpu.head)
  if !illegal && opNeedsSup op && !s.cpu.sup then .trap 0x07 head
  else if !illegal && opBarrelOnly op && isUtell s.cpu.core then .trap 0x18 head
  else match decodeInstr s.cpu.head s.cpu.tail with
    | .bad .format => .trap 0x04 head
    | .bad .operand => .trap 0x03 s.cpu.operandVal
    | .ok i =>
      if illegal then .issue i
      else if badScope s.cpu.core i || !s.cpu.prefixFits op then .trap 0x03 s.cpu.operandVal
      else
        match (if s.cpu.chk then s.cpu.undersized (s.cpu.sources s.isSup i) else none) with
        | some (r, short) => .trap 0x06 (word (r + short <<< 8))
        | none => if s.cpu.mustWait s.isSup op i then .wait else .issue i

/-- The instruction in issue, or the state in which it does not issue: it traps, or waits in its slot. -/
def State.checked (s : State) : Instr ⊕ State :=
  match s.verdict with
  | .trap c v => .inr (s.trap c v)
  | .wait => .inr s
  | .issue i => .inl i

/-! ### Readiness -/

/-- May the context issue as far as its own wait goes? A write that waited for write-back tries again once WB is clear
(R399), and an accumulator access once its tiles are unlocked (R28). -/
def State.waitOver (s : State) (t : Thread) : Bool :=
  match t.wait with
  | .none => true
  | .writeBack leaf => !(s.hbmWord leaf).testBit 11
  | .tile d tiles => !tiles.any (s.tileLocked d)
  | _ => false

/-- Does the issuing context wait in its slot for an answer that its next instruction needs (R28, R58)? A slot in such a wait is skipped in
rotation. -/
def State.stalls (s : State) : Bool :=
  let la := lineAddr s.cpu.pc
  !s.cpu.outs.isEmpty && s.cpu.trapDue.isNone && !s.cpu.fresh &&
    match (s.leaveLine la).lineOf la with
    | .ok _ is =>
      match instAt is s.cpu.pc with
      | some sl => (s.modCpu (fun t => { t with head := sl.head, tail := sl.tail, lineN := is.length })).verdict == .wait
      | none => false
    | _ => false

/-- Is a failed access to be made again during a gang stop: one that was replayed, or a write that waited for write-back (R399, R415)? -/
def Thread.resumes (t : Thread) : Bool := t.again || t.refetch || (match t.wait with | .writeBack _ => true | _ => false)

/-- Is a context ready to issue (R16, R247, R248, R264)? During a gang stop only a stepped strand (R267) and one whose failed access was
replayed (R415) are, and no strand is while its die's margins are re-planned (R39). -/
def State.ready (s : State) (c : CtxId) : Bool :=
  match s.thread? c with
  | none => false
  | some t =>
    let k := s.core t.core
    t.place == .slot && t.hold == 0 && s.waitOver t && !(s.die (dieOf t.core)).down && (t.outs.isEmpty || !(s.focus c).stalls) &&
      (match c with
       | .sup _ => k.supMode == .running
       | .strand sid => k.supMode != .stopped && !(s.die (dieOf t.core)).replan &&
          (!s.gangStopped t.core || t.resumes || (k.stepping == some (t.slot, sid) && !k.stepped)))

/-- The contexts of a core's slots in the order of rotation after the last slot that issued (R16). -/
def State.rotation (s : State) (core : Nat) : List CtxId :=
  let k := s.core core
  let at_ (i : Nat) : List CtxId :=
    if i = 15 then [.sup core] else ((lookup i k.slots).map CtxId.strand).toList
  (List.range 16).flatMap (fun j => at_ ((k.rr + 1 + j) % 16))

/-- The context that issues next on a core. -/
def State.nextOn (s : State) (core : Nat) : Option CtxId := (s.rotation core).find? s.ready

/-! ### Cycles -/

/-- A cycle of a core passes (R128); the holds of the contexts in its slots run down (R54). -/
def State.cycle (s : State) (core : Nat) : State :=
  let s := s.modCore core (fun k => { k with cyc := k.cyc + 1#64 })
  let down (t : Thread) : Thread := if t.core = core && t.place == .slot then { t with hold := t.hold - 1 } else t
  { s with
    cpu := down s.cpu
    threads := s.threads.map (fun (i, t) => (i, down t))
    sups := s.sups.map (fun (i, t) => (i, down t)) }

/-! ### One issue -/

/-- A trap that came with the end of a wait is taken (R227, R280, R399). -/
def State.takeDue (s : State) : Option State :=
  s.cpu.trapDue.map (fun (cause, val) => (s.modCpu (fun t => { t with trapDue := none })).trap cause val)

/-- Is a trap that is due the given-up fault of the refill itself (R137, R419)? -/
def Thread.refillDue (t : Thread) : Bool :=
  t.flushed && t.trapDue.any (fun x => x.2 == t.ssp || x.2 == t.ssp + 64#64 || x.2 == t.ssp + 192#64)

/-- A supervisor context that starts meets a failed fetch of its entry line as a supervisor fault, and waits at no entry (R247, R248); its
cause is that of a fault given up (DEDUCED, log 121). -/
def State.startFault (s : State) : Option State :=
  let la := lineAddr s.cpu.pc
  match s.lineOf la with
  | .fail f => some (s.trapAt (if f.hyp then 0x12 else 0x11) s.cpu.pc la)
  | _ => none

/-- What a context does before its instruction (R123, R125, R137, R280, R289, R419): it is retired, fetches its registers again, takes a
kill, with its use dropped, or takes a trap that came with the end of its wait. A strand that is stepped in a gang stop takes its kill
so too (DESIGN CHOICE, log 131). -/
def State.beforeIssue (s : State) : Option State :=
  let t := s.cpu
  match s.cur with
  | .sup _ => if t.fresh then s.startFault else s.takeDue
  | .strand sid =>
    if t.fresh && t.doomed == some (dieOf t.core) then some ((s.loseLaunch t.lid (dieOf t.core)).retire sid)
    else if t.refillDue then s.takeDue
    else if t.flushed then
      (match s.refillRegs with
       | .ok s => some s
       | .stopped s => some s)
    else if t.fresh && t.killable then some s.dropUse.deliverKill
    else s.takeDue

/-- Does a replayed line fetch of the issuing strand come in a gang stop, so that it is made and nothing issues before `GRES` (R264, R415)? -/
def State.onlyFetch (s : State) : Bool :=
  s.cpu.refetch && s.gangStopped s.cpu.core && !s.isSup && (s.core s.cpu.core).stepping != some (s.cpu.slot, s.cpu.sid)

/-- Brings the instruction of a ready context into issue (R16, R43, R60): the instruction and the state it issues in, or the
state where it does not issue. -/
def State.prepare (s : State) (c : CtxId) : (Instr × State) ⊕ State :=
  if !s.ready c then .inr { s with turn := none }
  else
    let s := { s with turn := none }.focus c
    let s := s.cycle s.cpu.core
    let s := s.modCore s.cpu.core (fun k => { k with rr := s.cpu.slot })
    let only := s.onlyFetch
    let s := s.modCpu (fun t => { t with wait := .none, again := false, refetch := false })
    match s.beforeIssue with
    | some s => .inr s
    | none =>
      let s := s.modCpu (fun t => { t with fresh := false })
      match s.enterLine with
      | .stopped s => .inr s
      | .ok s =>
        if only then .inr s else
        match s.checked with
        | .inr s => .inr s
        | .inl i => .inl (i, s.modCpu (fun t => { t with issued := some (dieOf t.core) }))

/-- A stepped strand's instruction has issued (R267). -/
def State.noteStep (s : State) (c : CtxId) (core : Nat) : State :=
  match c, (s.core core).stepping with
  | .strand sid, some (_, x) => if x = sid then s.modCore core (fun k => { k with stepped := true }) else s
  | _, _ => s

/-- A stepped strand that has trapped before its instruction issued, or was retired, has had its step (R267). -/
def State.noteTrap (s : State) (c : CtxId) (core : Nat) : State :=
  match (s.thread? c).map (fun (t : Thread) => t.wait) with
  | none | some .suspended => s.noteStep c core
  | _ => s

/-! ### The end of a step -/

/-- Has the strand that is being stepped left its slot (R267)? -/
def State.stepLeft (s : State) (core : Nat) : Bool :=
  match (s.core core).stepping with
  | none => false
  | some (sl, sid) =>
    match s.thread? (.strand sid) with
    | none => true
    | some t => t.place != .slot || t.core != core || t.slot != sl

/-- Is a context to make its instruction again once its wait ends, or to take a trap? -/
def Thread.unfinished (t : Thread) : Bool :=
  match t.wait with
  | .none => t.again || t.refetch || t.trapDue.isSome
  | .block _ | .tile .. | .fault .. | .clove .. | .writeBack _ | .wordRetry => true
  | _ => false

/-- A step of a gang-stopped strand ends (R267): when its trap is queued, when it has given up its slot, or when its instruction is
complete; one whose instruction is to be made again goes on with its step. -/
def State.endStepOn (s : State) (core : Nat) : State :=
  let k := s.core core
  match k.stepping with
  | none => s
  | some (_, sid) =>
    let stop := s.setCore core { k with stepping := none, stepped := false }
    let told (pc : Word) : State :=
      stop.queueEvent core { cause := 0x3F, pc, val := word (((s.owner core).map (·.gangGen)).getD 0) }
    match s.thread? (.strand sid) with
    | none => told 0#64
    | some t =>
      if s.stepLeft core then told t.pc
      else if !k.stepped then s
      else if t.unfinished then s.setCore core { k with stepped := false }
      else match t.wait with
        | .suspended => stop
        | .none => told t.pc
        | _ => s

/-- The end of a step: stops and step ends, time, and slice balances (R152, R243, R258, R267). -/
def State.finish (s : State) : State :=
  let s := (s.cores.filter (fun c => c.2.stopping.isSome)).foldl (fun s c => s.reportStop c.1) s
  let s := (s.cores.filter (fun c => c.2.stepping.isSome)).foldl (fun s c => s.endStepOn c.1) s
  let e := Config.elapsed s.tick
  let cores := s.cores.map (fun (n, (k : Core)) =>
    (n, if k.slicing && !s.gangStopped n then { k with slb := k.slb - word e } else k))
  { s with tick := s.tick + 1, now := s.now + e, cores, subject := none }

end Sys2Proof.Machine
end

