-- ==== Sys2Proof/Machine/Schedule.lean ====
section
/-! DEFINITION. The end of tile tasks and of state-space runs, kills, and the scheduler of a die (R330, R337 to R341, R348, R359 to
R362). -/

namespace Sys2Proof.Machine

/-! ### Fault entries that a waiter leaves (R401) -/

/-- A waiter leaves the entry that a hold names. -/
def State.leaveHold (s : State) (d : Nat) (h : Hold) : State :=
  match h with
  | .fault (some tok) _ _ _ => s.countFaults d [tok] (· - 1)
  | _ => s

/-! ### Joins that tasks are bound to (R374) -/

/-- Changes a live join. -/
def State.modJoin (s : State) (h : Nat) (f : Join → Join) : State :=
  s.modDie (h / 2 ^ 27 % 32) (fun x => { x with
    joins := x.joins.map (fun j => if j.idx = h % 1024 && j.gen = h / 2 ^ 32 % 2 ^ 16 then f j else j) })

/-- Changes a member of a join. -/
def Join.modMember (j : Join) (m : Nat) (f : Member → Member) : Join := { j with members := j.members.modify m f }

/-- A bound task has ended (R374): its member's arrival waits for it no longer, and an error other than 0x07 makes the member a
straggler as soon as the arrival is looked at. -/
def State.noteTask (s : State) (d : Nat) (t : Task) (code : Nat) : State :=
  if !t.jb then s
  else s.modJoin t.join (fun j => j.modMember t.memb (fun m =>
    { m with waits := m.waits.filter (· != (d, t.seq)), failed := m.failed || (code != 0 && code != 7) }))

/-! ### The end of a task (R340, R341) -/

/-- The name of a task or run in the journal. -/
def chainName (part seq : Nat) : Nat := part * 2 ^ 48 + seq

/-- A task is complete: its entry is returned, its outcome kept, its completion delivered (R336, R341), with which its locks go (R337); one
that split has given them up. -/
def State.finishTask (s : State) (d : Nat) (t : Task) (code : Nat) (detail : Word) (cw : Bool) : State :=
  let s := s.modDie d (fun x => { x with
    tasks := x.tasks.filter (fun y => !(y.part == t.part && y.seq == t.seq))
    chains := setChain x.chains ((chainOf x.chains t.part).record t.seq code t.kb) })
  let s := s.noteTask d t code
  let status := word (boolNat (code != 0) <<< 63 + boolNat cw <<< 56 + code <<< 48 + t.seq)
  s.deliver
    { die := d, from_ := t.from_, form := field (t.w 7) 37 36, chan := field (t.w 7) 39 38, target := t.w 8, kind := 4, src := 2
      seq := word t.seq, status, detail, flags := word t.flags, val := status, tiles := if t.running then t.acc.tiles else []
      entry := some (3, chainName t.part t.seq) }

/-- The continuation record of a task (R340). -/
def Task.contRecord (t : Task) (code : Nat) : List Word :=
  let w7 := setField (setField (setField (t.w 7) 45 45 1) 44 42 0) 40 40 0
  let w11 := word (t.kb % 2 ^ 32 + code <<< 32)
  ((t.words.take 16).set 7 w7).set 11 w11 |>.take 12 |>.append (List.replicate 4 0#64)

/-- Writes a continuation record (R340): to a direct page, without a wait; none where CADDR is zero or the write fails. -/
def State.writeCont (s : State) (d : Nat) (t : Task) (code : Nat) : State × Bool :=
  let va := t.w 10
  if va = 0#64 || bitOf va 56 then (s, false)
  else
    let a := t.agent d
    match s.engineFind a va 32 .write with
    | .at_ (.direct pa) _ (some (c, _)) =>
      if c.w || (List.range 16).any (fun i => s.poisonedAt (.direct (pa + 8 * i))) then (s, false)
      else
        let v := packNat 64 ((t.contRecord code).map BitVec.toNat)
        match s.engineWriteVa a va v 128 with
        | (s, none) => (s, true)
        | (s, some _) => (s, false)
    | _ => (s, false)

/-- A task ends with an error (R340, R330): it leaves the fault entry it waits at, a split writes its record, a failed dependence
writes none. -/
def State.endTask (s : State) (d : Nat) (t : Task) (code : Nat) (detail : Word) : State :=
  let s := s.leaveHold d t.hold
  let (s, cw) := if code = 6 || code = 8 then (s, false) else s.writeCont d t code
  s.finishTask d { t with running := false } code detail cw

/-- Changes a task of a die. -/
def State.modTask (s : State) (d part seq : Nat) (f : Task → Task) : State :=
  s.modDie d (fun (x : Die) => { x with tasks := x.tasks.map (fun t => if t.part = part && t.seq = seq then f t else t) })

/-- A task of a die. -/
def State.task? (s : State) (d part seq : Nat) : Option Task :=
  (s.die d).tasks.find? (fun t => t.part == part && t.seq == seq)

/-- Does a task wait at a translation fault, outside its output stage (R340)? -/
def Task.atFault (t : Task) : Bool := t.hold != .none && t.kb < t.nkb

/-- A kill of a task (R340): one that does not run ends at once, so does one that waits at a fault; another splits at its next
k-block boundary. -/
def State.killTask (s : State) (d : Nat) (t : Task) (detail : Word) : State :=
  if !t.running || t.atFault then s.endTask d t 7 detail
  else if t.killed.isSome then s
  else s.modTask d t.part t.seq (fun t => { t with killed := some detail })

/-- A drain of a task that waits at a fault (R340): it splits at once and is eligible again. -/
def Task.drained (t : Task) : Task := { t with running := false, hold := .none, loaded := [], since := none }

/-! ### The end of a run (R360, R362) -/

/-- The REPORT of a run (R362). -/
def Run.report (r : Run) : Word :=
  let last := r.len - (r.nch - 1) * r.clen
  word (r.flags + boolNat (decide (r.ft ≤ r.clen)) <<< 8 + boolNat (decide (r.ft ≤ last)) <<< 9 + r.nch <<< 16)

/-- A run is complete (R360, R362): its running units stop, its entry is returned and its completion delivered. -/
def State.finishRun (s : State) (d : Nat) (r : Run) (code : Nat) (detail : Word) : State :=
  let s := r.active.foldl (fun s u => s.leaveHold d u.hold) s
  let s := s.modDie d (fun x => { x with
    runs := x.runs.filter (fun y => !(y.part == r.part && y.seq == r.seq))
    runChains := setChain x.runChains ((chainOf x.runChains r.part).record r.seq code r.done.sum) })
  let status := word (boolNat (code != 0) <<< 63 + code <<< 48 + r.seq)
  s.deliver
    { die := d, from_ := r.from_, form := field (r.w 14) 49 48, chan := field (r.w 14) 51 50, target := r.w 8, kind := 6, src := 4
      seq := word r.seq, status, detail, flags := r.report, val := status, entry := some (4, chainName r.part r.seq) }

/-- Changes a run of a die. -/
def State.modRun (s : State) (d part seq : Nat) (f : Run → Run) : State :=
  s.modDie d (fun (x : Die) => { x with runs := x.runs.map (fun r => if r.part = part && r.seq = seq then f r else r) })

/-- A run of a die. -/
def State.run? (s : State) (d part seq : Nat) : Option Run :=
  (s.die d).runs.find? (fun r => r.part == part && r.seq == seq)

/-! ### Dependences that fail (R330) -/

/-- A task or run that has not run and has a failed dependence: ended with code 0x06. -/
def State.failDep (s : State) : Option State :=
  s.dies.findSome? (fun (d, (x : Die)) =>
    match x.tasks.find? (fun t => !t.running && !t.ran && (s.taskDeps t).contains (some false)) with
    | some t => some (s.endTask d t 6 0#64)
    | none => (x.runs.find? (fun r => !r.started && (s.runDeps r).contains (some false))).map (fun r => s.finishRun d r 6 0#64))

/-- Ends what has a failed dependence, in turn. -/
def State.failDeps (s : State) : Nat → State
  | 0 => s
  | n + 1 =>
    match s.failDep with
    | none => s
    | some s => s.failDeps n

/-! ### The scheduler (R338, R359) -/

/-- A task or a run in the order of R338. -/
inductive Job where
  | task (t : Task)
  | run (r : Run)
  deriving DecidableEq, Repr

/-- Its place: PRI first, then acceptance order. -/
def Job.key : Job → Nat × Nat
  | .task t => (t.pri, t.order)
  | .run r => (r.pri, r.order)

/-- Does one place come before another? -/
def keyBefore (a b : Nat × Nat) : Bool := a.1 < b.1 || (a.1 == b.1 && a.2 < b.2)

/-- Inserts a job in order. -/
def insertJob (j : Job) : List Job → List Job
  | [] => [j]
  | k :: rest => if keyBefore j.key k.key then j :: k :: rest else k :: insertJob j rest

/-- The jobs of a die in order. -/
def Die.jobs (x : Die) : List Job := (x.tasks.map Job.task ++ x.runs.map Job.run).foldr insertJob []

/-- Is a task eligible (R336)? -/
def State.taskEligible (s : State) (t : Task) : Bool := !t.running && (s.taskDeps t).all (· == some true)

/-- Do two lists share a number? -/
def meets (a b : List Nat) : Bool := a.any b.contains

/-- Is an engine reserved for a task other than this one? -/
def Die.reservedFor (x : Die) (e : Nat) (but : Nat) : Bool :=
  x.tasks.any (fun t => t.reserved && t.order != but && (x.taskEngines t).contains e)

/-- Reserves the engines of a span task that has been eligible for 20 µs, where no earlier task holds a reservation on any of
them; a later task's reservation on one of them is given up (R338). -/
def Die.reserve (x : Die) (now : Nat) (t : Task) : Die :=
  let es := x.taskEngines t
  match t.since with
  | none => x
  | some since =>
    if !t.span || t.reserved || now < since + 20000 then x
    else if x.tasks.any (fun y => y.reserved && keyBefore (Job.task y).key (Job.task t).key && meets (x.taskEngines y) es) then x
    else { x with tasks := x.tasks.map (fun y =>
      if y.order = t.order then { y with reserved := true }
      else if y.reserved && meets (x.taskEngines y) es then { y with reserved := false } else y) }

/-- Starts a task (R337, R338): its tiles are locked and, under ZINIT and before its first k-block, zeroed. -/
def Die.startTask (x : Die) (t : Task) : Die :=
  { x with
    acc := if t.zinit && !t.ran then
        t.acc.tiles.foldl (fun m i => m.setElems (tileBase i) (List.replicate 16384 0)) x.acc else x.acc
    tasks := x.tasks.map (fun y => if y.order = t.order then { y with running := true, ran := true, reserved := false, since := none } else y) }

/-- May a task start (R338)? -/
def State.mayStart (s : State) (d : Nat) (t : Task) : Bool :=
  ((s.die d).taskEngines t).all (fun e => (s.die d).engineFree e && !(s.die d).reservedFor e t.order)
    && !t.acc.tiles.any (s.tileLocked d)

/-- Starts the units of a run whose quads are free (R359). -/
def Die.startUnits (x : Die) (r : Run) : Nat → Die
  | 0 => x
  | n + 1 =>
    let x := x.startUnits r n
    match x.runs.find? (fun y => y.order == r.order) with
    | none => x
    | some y =>
      let e := x.engineOf (y.q0 + n)
      if y.active.any (fun u => u.quad == n) || y.unitsOn n ≤ y.doneOn n || !x.engineFree e || x.reservedFor e y.order then x
      else { x with runs := x.runs.map (fun z =>
        if z.order = y.order then { z with started := true, active := z.active ++ [{ quad := n }] } else z) }

/-- Starts what of a job may start. -/
def State.startJob (s : State) (d : Nat) : Job → State
  | .task t => if s.taskEligible t && s.mayStart d t then s.modDie d (fun x => x.startTask t) else s
  | .run r => if (s.runDeps r).all (· == some true) then s.modDie d (fun x => x.startUnits r r.nq) else s

/-- Drains the tasks that wait at a fault on an engine reserved for another (R340). -/
def State.drainHeld (s : State) (d : Nat) : State :=
  let x := s.die d
  (x.tasks.filter (fun t => t.running && t.atFault && (x.taskEngines t).any (fun e => x.reservedFor e t.order))).foldl
    (fun s t => (s.leaveHold d t.hold).modTask d t.part t.seq Task.drained) s

/-- Schedule (R338). Nothing starts on a die whose margins are being re-planned (R39). -/
def State.schedule (s : State) (d : Nat) : State :=
  if (s.die d).down || (s.die d).replan then s
  else
    let s := s.modDie d (fun x => { x with tasks := x.tasks.map (fun t =>
      { t with since := if s.taskEligible t then some (t.since.getD s.now) else none }) })
    let s := s.modDie d (fun x => x.jobs.foldl (fun x j => match j with
      | .task t => x.reserve s.now t
      | .run _ => x) x)
    let s := s.drainHeld d
    (s.die d).jobs.foldl (fun s j => s.startJob d j) s

/-- What follows an engine that frees, an acceptance or a dependence that is decided: failed dependences end their tasks, and every
die's scheduler runs. -/
def State.reschedule (s : State) : State :=
  let s := s.failDeps ((s.dies.map (fun (_, (x : Die)) => x.tasks.length + x.runs.length)).sum)
  (s.dies.map (·.1)).foldl State.schedule s

/-! ### Messages that reach a core (R298, R337) -/

/-- A message has left the network: a completion is then delivered and its journal entry freed (R431), and where it is a task's, its locks
go, and the scheduler runs. -/
def State.unlocked (s : State) (m : Msg) : State :=
  if s.undelivered.contains m then s
  else
    let s := match m.entry with
      | some (d, e) => s.delivered d (some e)
      | none => s
    if m.lock.isSome then s.reschedule else s

/-- `MESSAGE_ARRIVAL` (R238, R298): the `i`-th message in transit reaches its core, unless one of the same source, destination
and channel is before it. -/
def execMessageArrival (s : State) : Res :=
  match s.subject with
  | some (.messageArrival i) =>
    (match s.wire[i]? with
     | none => .next s
     | some m =>
       if (s.die (dieOf m.dst)).down || (s.wire.take i).any (fun o => o.src == m.src && o.dst == m.dst && o.ch == m.ch) then .next s
       else .next (({ s with wire := s.wire.eraseIdx i }.reach m.dst m).unlocked m))
  | some (.remoteMessage words src ch dst) =>
    .next { s with wire := s.wire ++ [{ words, ch, src, dst, lid := 0#64, part := ((s.owner dst).map (·.num)).getD 0 }] }
  | _ => .next s

/-- `ARRIVAL_QUEUE_ADMIT` (R298): the first message that waits in the network at a core enters its arrival queue, or its inbox
once overflow has ended. -/
def execArrivalQueueAdmit (s : State) : Res :=
  match s.subject with
  | some (.arrivalQueueAdmit core) =>
    let k := s.core core
    (match k.netWait with
     | [] => .next s
     | m :: rest =>
       if 16 ≤ k.arrivals.length || (s.die (dieOf core)).down then .next s
       else
         let s := s.setCore core { k with netWait := rest }
         if !k.overflow && k.inbox.length < 64 then .next (((s.placeMsg core m).countReceived core m).unlocked m)
         else .next (((s.modCore core (fun k => { k with overflow := true })).enterQueue core m).unlocked m))
  | _ => .next s

end Sys2Proof.Machine
end

