-- ==== Sys2Proof/Machine/Tasks.lean ====
section
/-! DEFINITION. Tile tasks: submission, status and kills, k-blocks and the output stage (R192 to R194, R331 to R348). -/

namespace Sys2Proof.Machine

/-! ### Checks of a record (R331) -/

/-- The shape of a record but for its target, its dependences, its parameter records and its binding. -/
def taskShape (die : Nat) (t : Task) : Bool :=
  t.m % 128 == 0 && 128 ≤ t.m && t.m ≤ 4096 && t.n % 128 == 0 && 128 ≤ t.n && t.n ≤ 4096
    && t.k % 32 == 0 && 32 ≤ t.k && t.k ≤ 2 ^ 24
    && (t.w 0).toNat % 32 == 0 && (t.w 1).toNat % 32 == 0 && t.eaddr.toNat % 32 == 0 && (t.w 2).toNat % 32 == 0
    && field (t.w 3) 31 0 % 16 == 0 && field (t.w 3) 63 32 % 16 == 0 && t.estr % 16 == 0
    && (t.eaddr != 0#64 || t.estr == 0)
    && field (t.w 7) 63 46 == 0 && field (t.w 7) 35 34 == 0 && t.ndep ≤ 4
    && (field (t.w 7) 37 36 == 1 || field (t.w 7) 39 38 == 0)
    && (List.range 4).all (fun i => i < t.ndep || t.w (12 + i) == 0#64)
    && (if t.jb then field (t.w 9) 55 48 == 0 else t.w 9 == 0#64)
    && (t.w 10).toNat % 128 == 0
    && (bitOf (t.w 7) 45 || t.w 11 == 0#64)
    && !(t.zinit && field (t.w 11) 31 0 != 0) && field (t.w 11) 31 0 ≤ t.nkb
    && t.acc.die == die && t.ntile ≤ t.acc.nq * t.acc.nt

/-- The shape of the three parameter records with the dimensions (R191, R328, R331). -/
def tensorsOk (t : Task) : Bool :=
  tensorOk (t.tensor 0) false && tensorOk (t.tensor 1) false && tensorOk (t.tensor 2) true
    && (t.k % 256 == 0 || (tensorFmt (t.tensor 0) != 6 && tensorFmt (t.tensor 1) != 6))
    && (t.n % 256 == 0 || tensorFmt (t.tensor 2) != 6)

/-- The refusal of a record whose shape is right so far: binding, target, dependences, set (R331). -/
def State.taskRefusal (s : State) (p : Part) (t : Task) : Option Word :=
  let form := field (t.w 7) 37 36
  let bind := if !t.jb then none else match s.liveJoin t.join with
    | none => some badHandle
    | some (_, j) => if j.members.length ≤ t.memb then some badShape else if j.from_.part = p.num then none else some denied
  firstRefusal ([p.formRefusal form (t.w 8), bind,
      if s.accLive (t.w 5) then none else some badHandle,
      if (List.range t.acc.nq).all (fun i => p.hasQuad t.acc.die (t.acc.q0 + i)) then none else some denied]
    ++ (List.range t.ndep).map (fun i => s.depRefusal p (t.w (12 + i))))

/-- Does a bound task name a straggler, or a join that has released (R377)? -/
def State.lateBind (s : State) (t : Task) : Bool :=
  t.jb && (match s.liveJoin t.join with
    | none => true
    | some (_, j) => j.state != 0 || ((j.members[t.memb]?).map (fun m => m.state == .killed || m.failed)).getD true)

/-- Accepts a task (R336, R343, R377). -/
def State.acceptTask (s : State) (die : Nat) (d : Reg) (t : Task) : State :=
  let c := chainOf (s.die die).chains t.part
  let t := { t with seq := c.next, order := (s.die die).orders, deps := s.decidedDeps ((t.words.drop 12).take t.ndep) }
  let s := s.modDie die (fun x => { x with orders := x.orders + 1, tasks := x.tasks ++ [t]
                                           chains := setChain x.chains { c with next := (c.next + 1) % 2 ^ 48 } })
  let s := (s.journal die 3 (chainName t.part t.seq)).release .part
  let s := if s.lateBind t then s.endTask die { t with kb := 0 } 7 (word t.join) else s
  s.reschedule.answerDone d (word t.seq)

/-- Push (R343). -/
def State.push (s : State) (cont : Bool) (d a b : Reg) : State :=
  let p := s.rd a
  let die := s.rd b
  if p.toNat % 128 ≠ 0 then s.trap 0x10 p
  else if 24 ≤ die.toNat then s.trap 0x03 die
  else
    match s.readRecord p 128 with
    | .stopped s => s
    | .walked => s.answerDone d badShape
    | .ok s ws =>
      let t : Task := { part := s.cpu.part, seq := 0, order := 0, from_ := s.origin, words := ws, prm := []
                        kb := field (ws.getD 11 0#64) 31 0 }
      match s.part? s.cpu.part with
      | none => s.answerDone d denied
      | some q =>
        if bitOf (t.w 7) 45 != cont || !taskShape die.toNat t || s.taskRefusal q t = some badShape then s.answerDone d badShape
        else
          match s.readRecords (t.w 2) 3 with
          | .stopped s => s
          | .walked => s.answerDone d badShape
          | .ok s prm =>
            let t := { t with prm }
            if !tensorsOk t then s.answerDone d badShape
            else match s.taskRefusal q t with
              | some r => s.answerDone d r
              | none => if s.chainBusy die.toNat q then s.answerDone d busy else s.acceptTask die.toNat d t

/-- `TQPUSH` (R343). -/
def execTqpush (d a b : Reg) (s : State) : Res := onBarrel s (fun s => s.push false d a b)
/-- `TCONT` (R343). -/
def execTcont (d a b : Reg) (s : State) : Res := onBarrel s (fun s => s.push true d a b)

/-! ### `TQSTAT`, `TKILL` and `TSEQ` (R344) -/

/-- The checks of a sequence dependence word in a register (R344, R364), then `go` with die and number; `chains` picks the chains of
a die. -/
def State.withSeq (s : State) (d a : Reg) (chains : Die → List Chain) (go : Nat → Nat → Chain → State) : State :=
  let w := s.rd a
  if field w 63 53 ≠ 0 || 24 ≤ field w 52 48 then s.illegal
  else
    match s.part? s.cpu.part with
    | none => s.answerDone d denied
    | some p =>
      if !p.dies.contains (field w 52 48) then s.answerDone d denied
      else
        let c := chainOf (chains (s.die (field w 52 48))) p.num
        if c.next ≤ field w 47 0 then s.answerDone d badHandle else go (field w 52 48) (field w 47 0) c

/-- A status word (R344, R364). -/
def chainStatus (state code progress : Nat) : Word :=
  word (state <<< 60 + code <<< 48 + (min progress (2 ^ 20 - 1)) <<< 28)

/-- The status of a number that is complete or older than the history, as number 0 is taken to be (DESIGN CHOICE, log 142). -/
def Chain.status (c : Chain) (seq : Nat) : Word :=
  match c.outcome seq with
  | some (code, n) => if c.old seq then chainStatus 6 0 0 else chainStatus (if code = 0 then 4 else 5) code n
  | none => chainStatus 6 0 0

/-- `TQSTAT` (R344). A task that is still on the chain has its own state, however old its number (DESIGN CHOICE, log 142). -/
def execTqstat (d a : Reg) (s : State) : Res :=
  onBarrel s fun s => s.withSeq d a Die.chains (fun die seq c =>
    s.answerDone d (match s.task? die s.cpu.part seq with
      | none => c.status seq
      | some t =>
        chainStatus (if t.running then (if t.hold == .none then 2 else 3) else if s.taskEligible t then 1 else 0) 0 t.kb))

/-- `TKILL` (R344): a task that is complete, or older than the history, has no handle. -/
def execTkill (d a : Reg) (s : State) : Res :=
  onBarrel s fun s => s.withSeq d a Die.chains (fun die seq c =>
    match (s.task? die s.cpu.part seq).filter (fun _ => !c.old seq) with
    | none => s.answerDone d badHandle
    | some t => (s.killTask die t 0#64).reschedule.answerDone d 0#64)

/-- The greatest number up to which every task is complete (R344): one below the least that is not, or the last. -/
def doneUpTo (next : Nat) (open_ : List Nat) : Nat := open_.foldl (fun m q => min m (q - 1)) (next - 1)

/-- `TSEQ` (R344). -/
def execTseq (d a : Reg) (s : State) : Res :=
  onBarrel s fun s =>
    let die := s.rd a
    if 24 ≤ die.toNat then s.illegal
    else
      match s.part? s.cpu.part with
      | none => s.answerDone d denied
      | some p =>
        if !p.dies.contains die.toNat then s.answerDone d denied
        else
          let x := s.die die.toNat
          s.answerDone d (word (doneUpTo (chainOf x.chains p.num).next ((x.tasks.filter (fun t => t.part == p.num)).map (·.seq))))

/-! ### Operands (R332, R334) -/

/-- What work of an engine comes to. -/
inductive EngRes where
  | ok (s : State) (t : Task)
  | stop (s : State) (t : Task) (k : Kind) (f : Found)
  | bad (s : State) (t : Task) (code : Nat) (detail : Word)

/-- The start of row `i` of A, or of column `i` of B (R332). -/
def Task.rowStart (t : Task) (o i : Nat) : Word :=
  if o = 0 then t.w 0 + word (i * field (t.w 3) 31 0) else t.w 1 + word (i * field (t.w 3) 63 32)

/-- The bytes of a k-block in a row: where they start and how many there are (R332). -/
def Task.segment (t : Task) (o i : Nat) : Word × Nat :=
  let st := t.rowStart o i
  match tensorFmt (t.tensor o) with
  | 0 => (st + word (128 * t.kb), 128)
  | 2 => (st + word (64 * t.kb), 64)
  | 6 => (st + word (240 * (t.kb / 8)), 240)
  | _ => (st + word (32 * t.kb), 32)

/-- Loads the k-block of one row or column, once (R334, R339). -/
def State.loadRow (s : State) (a : Agent) (t : Task) (o i : Nat) : EngRes :=
  if t.loaded.any (fun x => x.1 == o && x.2.1 == i) then .ok s t
  else if (t.rowStart o i).toNat % 32 ≠ 0 then .bad s t 5 (t.rowStart o i)
  else
    match s.engineRead a (t.segment o i).1 (t.segment o i).2 with
    | .stop f => .stop s t .read f
    | .val s v =>
      let fmt := tensorFmt (t.tensor o)
      if (fmt = 3 || fmt = 4) && tensorScales (t.tensor o) != 0#64 then
        match s.engineRead a (tensorScales (t.tensor o) + word (i * t.nkb + t.kb)) 1 with
        | .stop f => .stop s t .read f
        | .val s x => .ok s { t with loaded := (o, i, v, x) :: t.loaded }
      else .ok s { t with loaded := (o, i, v, 127) :: t.loaded }

/-- Loads rows in order. -/
def State.loadRows (s : State) (a : Agent) (t : Task) : List (Nat × Nat) → EngRes
  | [] => .ok s t
  | (o, i) :: rest =>
    match s.loadRow a t o i with
    | .ok s t => s.loadRows a t rest
    | r => r

/-- The rows and columns that a k-block of result tile `i` needs, in the order its engine uses them (R333). -/
def Task.tileRows (t : Task) (i : Nat) : List (Nat × Nat) :=
  (List.range 128).map (fun r => (0, 128 * (i / (t.n / 128)) + r)) ++ (List.range 128).map (fun c => (1, 128 * (i % (t.n / 128)) + c))

/-- The 32 elements of a loaded row, with their scale, and whether their frame is malformed (R192, R194). -/
def Task.elements (t : Task) (o i : Nat) : List FNum × Bool :=
  match t.loaded.find? (fun x => x.1 == o && x.2.1 == i) with
  | none => ([], false)
  | some (_, _, v, x) =>
    match tensorFmt (t.tensor o) with
    | 0 => ((List.range 32).map (fun k => f32.num ((v >>> (32 * k)) % 2 ^ 32)), false)
    | 2 => ((List.range 32).map (fun k => bf16.num ((v >>> (16 * k)) % 2 ^ 16)), false)
    | 3 => ((List.range 32).map (fun k => scaledNum .e4m3 x ((v >>> (8 * k)) % 256)), false)
    | 4 => ((List.range 32).map (fun k => scaledNum .e5m2 x ((v >>> (8 * k)) % 256)), false)
    | _ =>
      let (vs, bad) := decodeFrame (bytesOf v 240)
      ((vs.drop (32 * (t.kb % 8))).take 32, bad)

/-! ### K-blocks (R192, R194) -/

/-- The exact sum of products (R192), with NV where a product or the sum has no value or an operand is signalling (R194). -/
def dotExact : List FNum → List FNum → FNum × FFlags
  | x :: xs, y :: ys =>
    let (r, f) := dotExact xs ys
    let p := FNum.mul x y
    let r' := FNum.add false p r
    (r', f ||| snanFlag [x, y] ||| invalidFlag p [x, y] ||| invalidFlag r' [p, r])
  | _, _ => (.fin true 0 0, 0#5)

/-- An accumulator element after a k-block (R192): one rounding to nearest even. -/
def accumulate (acc : Nat) (s : FNum) : Nat × FFlags :=
  let a := f32.num acc
  let r := FNum.add false a s
  let (v, f) := rne32 r
  (v, f ||| snanFlag [a] ||| invalidFlag r [a, s])

/-- A tile after a k-block: 128 rows, 128 columns, the old elements by rows. -/
def tileBlock (rows cols : List (List FNum)) (old : List Nat) : List Nat × FFlags :=
  let rs := ((rows.flatMap (fun r => cols.map (fun c => (r, c)))).zip old).map (fun ((r, c), a) =>
    let (d, f) := dotExact r c
    let (v, g) := accumulate a d
    (v, f ||| g))
  (rs.map (·.1), orFlags (rs.map (·.2)))

/-- Adds a k-block to result tile `i`. -/
def State.blockTile (s : State) (d : Nat) (t : Task) (i : Nat) : State × Task :=
  let rows := (List.range 128).map (fun r => t.elements 0 (128 * (i / (t.n / 128)) + r))
  let cols := (List.range 128).map (fun c => t.elements 1 (128 * (i % (t.n / 128)) + c))
  let base := tileBase (t.tile i)
  let (vs, f) := tileBlock (rows.map (·.1)) (cols.map (·.1)) ((s.die d).acc.elems base 16384)
  (s.modDie d (fun x => { x with acc := x.acc.setElems base vs }),
    { t with flags := t.flags ||| f.toNat, malformed := t.malformed || rows.any (·.2) || cols.any (·.2) })

/-- Does result tile `i` hold a poisoned word (R211)? -/
def State.tilePoisoned (s : State) (d : Nat) (t : Task) (i : Nat) : Bool :=
  (s.die d).acc.elemsPoisoned (tileBase (t.tile i)) 16384

/-- The reads of a k-block, tile by tile, so that the first error is the one of the lower quad offset (R333, R348): the rows of the tile,
then the tile. An engine that reads a poisoned word of a tile ends the task with code 0x02 as R334 has it; the store has no address, and
DETAIL is the set's handle. DEDUCED (log 118). -/
def State.loadTiles (s : State) (d : Nat) (t : Task) : List Nat → EngRes
  | [] => .ok s t
  | i :: rest =>
    match s.loadRows (t.agent d) t (t.tileRows i) with
    | .ok s t => if s.tilePoisoned d t i then .bad s t 2 (t.w 5) else s.loadTiles d t rest
    | r => r

/-- A whole k-block of a task (R192, R333): every row is loaded before any tile changes. -/
def State.kblock (s : State) (d : Nat) (t : Task) : EngRes :=
  match s.loadTiles d t (List.range t.ntile) with
  | .ok s t =>
    let (s, t) := (List.range t.ntile).foldl (fun (acc : State × Task) i => acc.1.blockTile d acc.2 i) (s, t)
    .ok s { t with kb := t.kb + 1, loaded := [] }
  | r => r

/-! ### The output stage (R193, R332, R335) -/

/-- The accumulator elements of output row `i`. -/
def State.accRow (s : State) (d : Nat) (t : Task) (i : Nat) : List Nat :=
  (List.range (t.n / 128)).flatMap (fun j =>
    (s.die d).acc.elems (tileBase (t.tile (i / 128 * (t.n / 128) + j)) + 512 * (i % 128)) 128)

/-- An output row in its format (R193): its bytes, its block scales, the flags. -/
def outRow (q : Nat) (o : List Word) (out : List Nat) : List Byte × List Byte × FFlags :=
  let quot := out.map (fun v => f32.div .rne v (tensorScale o))
  let qf := orFlags (quot.map (·.2))
  let vs := quot.map (·.1)
  let blocks (f : Fp8) : List Byte × List Byte × FFlags :=
    let bs := (pieces 32 (vs.length / 32) vs).map (quantise32 f q (tensorClamp o) (tensorX0 o))
    (bs.flatMap (fun b => b.2.1.map (BitVec.ofNat 8)), bs.map (fun b => BitVec.ofNat 8 b.1), qf ||| orFlags (bs.map (·.2.2)))
  match tensorFmt o with
  | 0 => (out.flatMap (fun v => bytesOf v 4), [], 0#5)
  | 2 =>
    let rs : List (Nat × FFlags) := out.map (fun v => convert f32 bf16 .rne v)
    (rs.flatMap (fun r => bytesOf r.1 2), [], orFlags (rs.map (·.2)))
  | 3 => blocks .e4m3
  | 4 => blocks .e5m2
  | _ =>
    let fs := (pieces 256 (vs.length / 256) vs).map (encodeFrame q (tensorClamp o) (tensorX0 o))
    (fs.flatMap (·.1), [], qf ||| orFlags (fs.map (·.2)))

/-- The pieces of a write of bytes: address, number of bytes and value. -/
def bytePieces (va : Word) (bs : List Byte) : List (Word × Nat × Nat) :=
  (sectors va bs.length).map (fun (w, n) => (w, n, natOfBytes ((bs.drop (w - va).toNat).take n)))

/-- Performs writes in order; answers what is left where one stops. -/
def State.putAll (s : State) (a : Agent) : List (Word × Nat × Nat) → State × List (Word × Nat × Nat) × Option Found
  | [] => (s, [], none)
  | (va, n, v) :: rest =>
    match s.enginePut a va v n with
    | .stop f => (s, (va, n, v) :: rest, some f)
    | .ok s => s.putAll a rest

/-- The start of output row `i` (R332). -/
def Task.outStart (t : Task) (i : Nat) : Word := t.eaddr + word (i * t.estr)

/-- Output row `i` (R193, R335): its bytes, its block scales, the flags. -/
def State.outputRow (s : State) (d : Nat) (t : Task) (i : Nat) : List Byte × List Byte × FFlags :=
  let (ts, f1) := f32.mul .rne (tensorScale (t.tensor 0)) (tensorScale (t.tensor 1))
  let outs := (s.accRow d t i).map (fun v => f32.mul .rne v ts)
  let (data, scales, f2) := outRow (t.qmode.getD 0) (t.tensor 2) (outs.map (·.1))
  (data, scales, orFlags [f1, orFlags (outs.map (·.2)), f2])

/-- Inserts a piece, with its row, before those that begin no lower. -/
def insertPiece (p : Nat × Word × Nat × Nat) : List (Nat × Word × Nat × Nat) → List (Nat × Word × Nat × Nat)
  | [] => [p]
  | q :: rest => if q.2.1.toNat < p.2.1.toNat then q :: insertPiece p rest else p :: q :: rest

/-- The sectors of output rows and of their block scales, each with the last row in it, in ascending address (R235, R335), where rows overlap
too (DESIGN CHOICE, log 141). -/
def Task.outPieces (t : Task) (rows : List (List Byte × List Byte × FFlags)) : List (Nat × Word × Nat × Nat) :=
  let data := rows.zipIdx.flatMap (fun (r, i) => (bytePieces (t.outStart i) r.1).map (fun p => (i, p)))
  let sc := tensorScales (t.tensor 2)
  let scales := (bytePieces sc (rows.flatMap (·.2.1))).map (fun p => (((p.1 - sc).toNat + p.2.1 - 1) / (t.n / 32), p))
  (data ++ scales).foldr insertPiece []

/-- The error that ends an output stage, if nothing that is written before it does (R334, R348): the number of rows before it, and the code
and detail of a poisoned tile or of a row that starts at no multiple of 32, those of the lower quad offset. -/
def State.outputError (s : State) (d : Nat) (t : Task) : Option (Nat × Nat × Word) :=
  let across := t.n / 128
  let tile := (List.range t.ntile).find? (s.tilePoisoned d t)
  let row := (List.range t.m).find? (fun i => (t.outStart i).toNat % 32 != 0)
  let ofTile (p : Nat) : Nat × Nat × Word := (128 * (p / across), 2, t.w 5)
  let ofRow (i : Nat) : Nat × Nat × Word := (i, 5, t.outStart i)
  match tile, row with
  | some p, some i => some (if p / t.acc.nt ≤ i / 128 * across / t.acc.nt then ofTile p else ofRow i)
  | some p, none => some (ofTile p)
  | none, some i => some (ofRow i)
  | none, none => none

/-- Writes the output rows, as one operation, going on behind the sectors that are written (R235, R335). The flags of the rows reached are
raised. -/
def State.putRows (s : State) (d : Nat) (a : Agent) (t : Task) : EngRes :=
  let bad := s.outputError d t
  let rows := (List.range ((bad.map (·.1)).getD t.m)).map (s.outputRow d t)
  let ps := t.outPieces rows
  let raise (t : Task) (n : Nat) : Task := { t with flags := t.flags ||| (orFlags ((rows.take n).map (·.2.2))).toNat }
  match s.putAll a ((ps.drop t.sec).map (·.2)) with
  | (s, left, some f) =>
    let k := ps.length - left.length
    .stop s { raise t (((ps.take (k + 1)).map (·.1)).foldl max 0 + 1) with sec := k } .write f
  | (s, _, none) =>
    match bad with
    | some (_, code, detail) => .bad s (raise t rows.length) code detail
    | none => .ok s { raise t rows.length with rows := t.m, sec := 0 }

/-- The output stage; QMODE is sampled at its start (R183). -/
def State.outputStage (s : State) (d : Nat) (t : Task) : EngRes :=
  let t := { t with qmode := some (t.qmode.getD (field s.msr 1 0)) }
  if t.eaddr = 0#64 then .ok s t
  else if t.rows = t.m then .ok s t
  else s.putRows d (t.agent d) t

/-! ### Events -/

/-- What the engines of a running task do next: a k-block, or the output stage. -/
def State.engineWork (s : State) (d : Nat) (t : Task) : EngRes :=
  match t.hold with
  | .gaveUp va => .bad s t 1 (word va)
  | _ => if t.kb < t.nkb then s.kblock d t else s.outputStage d t

/-- After a k-block (R340): a kill splits the task, a drain makes it eligible again. -/
def State.afterBlock (s : State) (d : Nat) (t : Task) : State :=
  let s := (s.modTask d t.part t.seq (fun _ => t)).schedule d
  match s.task? d t.part t.seq with
  | none => s
  | some t =>
    let x := s.die d
    match t.killed with
    | some h => s.endTask d t 7 h
    | none =>
      if (x.taskEngines t).any (fun e => x.reservedFor e t.order) then s.modTask d t.part t.seq Task.drained else s

/-- `TASK_KBLOCK_END` (R333, R340): a k-block is done, or an error in it splits the task at the boundary before. Where an access is
to wait, that is `TASK_FAULT`. -/
def execTaskKblockEnd (s : State) : Res :=
  match s.subject with
  | some (.taskKblockEnd d part seq) =>
    (match s.task? d part seq with
     | none => .next s
     | some t =>
       if !t.running || t.nkb ≤ t.kb || (match t.hold with | .fault .. => true | _ => false) then .next s
       else match s.engineWork d t with
         | .ok s t => .next (s.afterBlock d t).reschedule
         | .bad s t code detail => .next (s.endTask d { t with loaded := [] } code detail).reschedule
         | .stop s' t' k f =>
           match s'.engineStop (t.agent d) k f with
           | (s', .end_ code detail) => .next (s'.endTask d { t' with loaded := [] } code detail).reschedule
           | (_, .wait _) => .next s)
  | _ => .next s

/-- `TASK_FAULT` (R339): the failure is posted, and the task keeps its engines, its locks and the rows it has loaded; a kill that is
posted then splits it at once (R340). -/
def execTaskFault (s : State) : Res :=
  match s.subject with
  | some (.taskFault d part seq) =>
    (match s.task? d part seq with
     | none => .next s
     | some t =>
       if !t.running || t.hold != .none then .next s
       else match s.engineWork d t with
         | .stop s' t' k f =>
           (match s'.engineStop (t.agent d) k f with
            | (_, .end_ _ _) => .next s
            | (s', .wait h) =>
              let t' := { t' with hold := h }
              let s' := s'.modTask d part seq (fun _ => t')
              match t'.killed with
              | some w => if t'.atFault then .next (s'.endTask d t' 7 w).reschedule else .next s'
              | none => .next (s'.schedule d))
         | _ => .next s)
  | _ => .next s

/-- `TASK_COMPLETE` (R337, R341, R348): the output stage ends, the locks are released and the completion is delivered; an error in
the stage ends the task with its progress at K / 32. -/
def execTaskComplete (s : State) : Res :=
  match s.subject with
  | some (.taskComplete d part seq) =>
    (match s.task? d part seq with
     | none => .next s
     | some t =>
       if !t.running || t.kb < t.nkb || (match t.hold with | .fault .. => true | _ => false) then .next s
       else match s.engineWork d t with
         | .ok s t =>
           .next ((s.finishTask d t (if t.malformed then 4 else 0)
             (if t.malformed then Config.malformedDetail s.tick else 0#64) false).reschedule).serveWords
         | .bad s t code detail => .next (s.endTask d t code detail).reschedule
         | .stop s' t' k f =>
           match s'.engineStop (t.agent d) k f with
           | (s', .end_ code detail) => .next (s'.endTask d t' code detail).reschedule
           | (_, .wait _) => .next s)
  | _ => .next s

/-- Does a running unit lose its engine: one that has not finished its y writes (R361)? -/
def Die.unitFails (x : Die) (r : Run) (quad : Nat) (u : SsmUnit) : Bool :=
  x.engineOf (r.q0 + u.quad) == quad && (match u.ops with | none => true | some o => !o.ys.isEmpty)

/-- `ENGINE_FAILURE` (R342, R361): the next quad lends its engine; a unit of a run starts its chunk again, with its start state from the
state area, and writes its y again. -/
def execEngineFailure (s : State) : Res :=
  match s.subject with
  | some (.engineFailure d quad) =>
    let fails := (s.die d).unitFails
    let s := (s.die d).runs.foldl (fun s r => r.active.foldl (fun s u => if fails r quad u then s.leaveHold d u.hold else s) s) s
    .next (s.modDie d (fun x => { x with
      engFail := if x.engFail.contains quad then x.engFail else x.engFail ++ [quad]
      runs := x.runs.map (fun r => { r with active := r.active.map (fun u =>
        if fails r quad u then { quad := u.quad, back := true } else u) }) }))
  | _ => .next s

end Sys2Proof.Machine
end

