-- ==== Sys2Proof/Machine/Runs.lean ====
section
/-! DEFINITION. State-space runs: submission, status, the two forms, and units (R349 to R365, R439). -/

namespace Sys2Proof.Machine

/-! ### Submission (R352, R363) -/

/-- The shape of a control block but for its target and its dependence (R350 to R352). -/
def runShape (r : Run) : Bool :=
  let m (v : Word) (k : Nat) : Bool := v.toNat % k == 0
  let e := r.e
  (r.fmt == 0 || r.fmt == 2) && 1 ≤ r.len && r.len ≤ 2 ^ 20 && 1 ≤ r.clen && r.clen ≤ 256 && field (r.w 13) 31 16 ≤ 257
    && 1 ≤ r.n && r.n ≤ 128 && 1 ≤ r.p && r.p ≤ 128 && 1 ≤ r.heads && r.heads ≤ 256 && r.q0 + r.nq ≤ 64
    && field (r.w 14) 47 40 == 0 && field (r.w 14) 63 56 == 0 && (r.words.drop 15).all (· == 0#64)
    && m (r.w 0) e && m (r.w 1) e && m (r.w 2) e
    && field (r.w 10) 31 0 % e == 0 && field (r.w 10) 63 32 % e == 0 && field (r.w 11) 31 0 % e == 0
    && m (r.w 3) 4 && m (r.w 4) 4 && m (r.w 5) 4 && m (r.w 6) 4 && m (r.w 7) 4
    && field (r.w 11) 63 32 % 4 == 0 && field (r.w 12) 31 0 % 4 == 0
    && r.w 6 != 0#64 && r.w 7 != 0#64 && r.heads * r.p * 4 ≤ field (r.w 12) 31 0
    && (r.depv || r.w 9 == 0#64)

/-- The refusal of a block whose shape is right so far (R352). -/
def State.runRefusal (s : State) (p : Part) (die : Nat) (r : Run) : Option Word :=
  firstRefusal [p.formRefusal (field (r.w 14) 49 48) (r.w 8),
    if r.depv then s.depRefusal p (r.w 9) else none,
    if (List.range r.nq).all (fun i => p.hasQuad die (r.q0 + i)) then none else some denied]

/-- Accepts a run (R363). -/
def State.acceptRun (s : State) (die : Nat) (d : Reg) (r : Run) : State :=
  let c := chainOf (s.die die).runChains r.part
  let r := { r with seq := c.next, order := (s.die die).orders, deps := if r.depv then s.decidedDeps [r.w 9] else [] }
  let s := s.modDie die (fun x => { x with orders := x.orders + 1, runs := x.runs ++ [r]
                                           runChains := setChain x.runChains { c with next := (c.next + 1) % 2 ^ 48 } })
  ((s.journal die 4 (chainName r.part r.seq)).release .part).reschedule.answerDone d (word r.seq)

/-- Ssmrun (R363). -/
def State.ssmrun (s : State) (d a b : Reg) : State :=
  let p := s.rd a
  let die := s.rd b
  if p.toNat % 256 ≠ 0 then s.trap 0x10 p
  else if 24 ≤ die.toNat then s.trap 0x03 die
  else
    match s.readRecord p 256 with
    | .stopped s => s
    | .walked => s.answerDone d badShape
    | .ok s ws =>
      let r : Run := { part := s.cpu.part, seq := 0, order := 0, from_ := s.origin, words := ws, done := [] }
      let r := { r with done := List.replicate r.nq 0 }
      match s.part? s.cpu.part with
      | none => s.answerDone d denied
      | some q =>
        if !runShape r then s.answerDone d badShape
        else match s.runRefusal q die.toNat r with
          | some x => s.answerDone d x
          | none => if s.chainBusy die.toNat q then s.answerDone d busy else s.acceptRun die.toNat d r

/-- `SSMRUN` (R363). -/
def execSsmrun (d a b : Reg) (s : State) : Res := onBarrel s (fun s => s.ssmrun d a b)

/-- Has a run of the issuing partition ended with its completion still to be delivered (R364)? -/
def State.runUndelivered (s : State) (die seq : Nat) : Bool :=
  s.undelivered.any (fun m => m.run == some (die, seq) && m.part == s.cpu.part)
    || (s.die die).late.any (fun l => l.src == 4 && l.from_.part == s.cpu.part && l.seq == word seq)

/-- `SSMSTAT` (R364): a run whose completion is not delivered still reads as running. -/
def execSsmstat (d a : Reg) (s : State) : Res :=
  onBarrel s fun s => s.withSeq d a Die.runChains (fun die seq c =>
    s.answerDone d (match s.run? die s.cpu.part seq with
      | none => if s.runUndelivered die seq then chainStatus 2 0 (((c.outcome seq).map (·.2)).getD 0) else c.status seq
      | some r =>
        let waits (u : SsmUnit) : Bool := match u.hold with | .none => false | _ => true
        chainStatus (if r.active.any waits then 3 else if r.started then 2
          else if (s.runDeps r).all (· == some true) then 1 else 0) 0 r.done.sum))

/-! ### The two forms (R353 to R358) -/

/-- The inputs of a unit, per step: x, B, C, a and dt as FP32 patterns; D; and the head's state by rows. -/
structure UnitIn where
  xs : List (List Nat)
  bs : List (List Nat)
  cs : List (List Nat)
  as : List Nat
  dts : List Nat
  d : Nat
  st : List Nat
  deriving DecidableEq, Repr

/-- The exact product of FP32 patterns, each multiplied in its turn (R356, R358). -/
def prodExact (l : List Nat) : FNum × FFlags :=
  (l.map f32.num).foldl (fun (v, f) x =>
    let r := FNum.mul v x
    (r, f ||| snanFlag [x] ||| invalidFlag r [v, x])) (.fin false 1 0, 0#5)

/-- The exact sum of terms, each added in its turn (R356, R358). -/
def sumExact (l : List (FNum × FFlags)) : FNum × FFlags :=
  l.foldl (fun (v, f) (x, g) =>
    let r := FNum.add false v x
    (r, f ||| g ||| invalidFlag r [v, x])) (.fin true 0 0, 0#5)

/-- W48 (R355): a 48-bit significand with the exponent range of FP64. -/
def w48 : FFmt := ⟨11, 47, 1023⟩

/-- Decay products from a step on (R355): entry j is the product of the next j decays, each partial product rounded. -/
def decays (q : Nat) : List Nat → List Nat × FFlags
  | [] => ([q], 0#5)
  | a :: rest =>
    let (q', f) := f32.mul .rne q a
    let (l, g) := decays q' rest
    (q :: l, f ||| g)

/-- 1.0 in FP32. -/
def one32 : Nat := 0x3F800000

/-- Element `i` of a list of patterns. -/
def at32 (l : List Nat) (i : Nat) : Nat := l.getD i 0
/-- Row `i` of a list of rows. -/
def rowOf (l : List (List Nat)) (i : Nat) : List Nat := l.getD i []

/-- The chunked matrix form (R356): y by steps, the new state, the flags. -/
def matrixChunk (n p : Nat) (u : UnitIn) : List (List Nat) × List Nat × FFlags :=
  let c := u.as.length
  let g0 := decays one32 u.as
  let gs := (List.range c).map (fun s => decays one32 (u.as.drop (s + 1)))
  let g (t s : Nat) : Nat := at32 (gs.getD s ([], 0#5)).1 (t - s)
  let ys := (List.range c).map (fun t => (List.range p).map (fun k =>
    let v := sumExact (prodExact [u.d, at32 (rowOf u.xs t) k] ::
      (List.range n).flatMap (fun i =>
        prodExact [at32 (rowOf u.cs t) i, at32 g0.1 (t + 1), at32 u.st (i * p + k)] ::
          (List.range (t + 1)).map (fun s =>
            prodExact [at32 (rowOf u.cs t) i, at32 (rowOf u.bs s) i, g t s, at32 u.dts s, at32 (rowOf u.xs s) k])))
    let r := rne32 v.1
    (r.1, v.2 ||| r.2)))
  let st := (List.range n).flatMap (fun i => (List.range p).map (fun k =>
    let w := sumExact (prodExact [at32 g0.1 c, at32 u.st (i * p + k)] ::
      (List.range c).map (fun s => prodExact [g (c - 1) s, at32 u.dts s, at32 (rowOf u.bs s) i, at32 (rowOf u.xs s) k]))
    let r := w48.round .rne w.1 false
    let q := rne32 (w48.num r.1)
    (q.1, w.2 ||| r.2 ||| q.2)))
  (ys.map (fun (l : List (Nat × FFlags)) => l.map (·.1)), st.map (·.1),
    orFlags (g0.2 :: gs.map (·.2) ++ ys.flatMap (fun (l : List (Nat × FFlags)) => l.map (·.2)) ++ st.map (·.2)))

/-- One step of the recurrent form (R357): y, the new state, the flags. -/
def recurrentStep (n p : Nat) (b c x : List Nat) (a dt d : Nat) (st : List Nat) : List Nat × List Nat × FFlags :=
  let us := (List.range p).map (fun k => f32.mul .rne dt (at32 x k))
  let ns := (List.range n).flatMap (fun i => (List.range p).map (fun k =>
    let m := f32.mul .rne a (at32 st (i * p + k))
    let r := f32.fma .rne (at32 b i) (at32 (us.map (·.1)) k) m.1
    (r.1, m.2 ||| r.2)))
  let st' := ns.map (·.1)
  let ys := (List.range p).map (fun k =>
    (List.range n).foldl (fun (acc : Nat × FFlags) i =>
      let r := f32.fma .rne (at32 c i) (at32 st' (i * p + k)) acc.1
      (r.1, acc.2 ||| r.2)) (f32.mul .rne d (at32 x k)))
  (ys.map (·.1), st', orFlags (us.map (·.2) ++ ns.map (·.2) ++ ys.map (·.2)))

/-- The stepwise recurrent form (R357) for `c` steps. -/
def recurrentChunk (n p : Nat) (u : UnitIn) : Nat → List (List Nat) × List Nat × FFlags
  | 0 => ([], u.st, 0#5)
  | c + 1 =>
    let (ys, st, f) := recurrentChunk n p u c
    let (y, st, g) := recurrentStep n p (rowOf u.bs c) (rowOf u.cs c) (rowOf u.xs c) (at32 u.as c) (at32 u.dts c) u.d st
    (ys ++ [y], st, f ||| g)

/-! ### Units (R359, R360) -/

/-- The agent that carries out a run. -/
def Run.agent (r : Run) (d : Nat) : Agent := r.from_.agent d 4

/-- `n` elements of `e` bytes as FP32 patterns (R349): BF16 is widened exactly. -/
def unitElems (v n e : Nat) : List Nat :=
  (List.range n).map (fun i =>
    let x := (v >>> (8 * e * i)) % 2 ^ (8 * e)
    if e = 4 then x else x <<< 16)

/-- Where a head's state begins (R350). -/
def Run.stateAt (r : Run) (h : Nat) : Word := r.w 7 + word (4 * (h * r.n * r.p))

/-- Does a unit read its start state from the state area: the initial state under INIT, or that of a later chunk run again (R351, R360,
R361)? -/
def Run.readsState (r : Run) (chunk : Nat) (back : Bool) : Bool := if chunk = 0 then r.init else back

/-- What a unit reads, in order: D, its start state, and the inputs of its `c` steps (R350), each as address, elements and the size of one. -/
def Run.inputs (r : Run) (h chunk c : Nat) (back : Bool) : List (Word × Nat × Nat) :=
  let at_ (w t stride off : Nat) : Word := r.w w + word (t * stride + off)
  (if r.w 5 = 0#64 then [] else [(r.w 5 + word (4 * h), 1, 4)])
    ++ (if r.readsState chunk back then [(r.stateAt h, r.n * r.p, 4)] else [])
    ++ (List.range c).flatMap (fun i =>
      let t := chunk * r.clen + i
      [(at_ 0 t (field (r.w 10) 31 0) (h * r.p * r.e), r.p, r.e), (at_ 1 t (field (r.w 10) 63 32) (h * r.n * r.e), r.n, r.e),
        (at_ 2 t (field (r.w 11) 31 0) (h * r.n * r.e), r.n, r.e), (at_ 3 t (field (r.w 11) 63 32) (4 * h), 1, 4),
        (at_ 4 t (field (r.w 11) 63 32) (4 * h), 1, 4)])

/-- The pieces in which an input is read. -/
def inputPieces (x : Word × Nat × Nat) : List (Word × Nat) := sectors x.1 (x.2.1 * x.2.2)

/-- The elements of each input, from the pieces read. -/
def gather : List (Word × Nat × Nat) → List Nat → List (List Nat)
  | [], _ => []
  | x :: rest, vs =>
    let ps := inputPieces x
    unitElems (joinPieces ps vs) x.2.1 x.2.2 :: gather rest (vs.drop ps.length)

/-- The inputs of a unit from the pieces it has read; a later chunk starts from the values that the head's last unit wrote (R360). -/
def Run.unitIn (r : Run) (h chunk c : Nat) (back : Bool) (got : List Nat) : UnitIn :=
  let vs := gather (r.inputs h chunk c back) got
  let (d, vs) := if r.w 5 = 0#64 then (0, vs) else (at32 (vs.headD []) 0, vs.drop 1)
  let zero := List.replicate (r.n * r.p) 0
  let (st, vs) := if r.readsState chunk back then (vs.headD [], vs.drop 1)
    else (if chunk = 0 then zero else (lookup h r.states).getD zero, vs)
  let col (j : Nat) : List (List Nat) := (List.range c).map (fun i => vs.getD (5 * i + j) [])
  { xs := col 0, bs := col 1, cs := col 2, as := (col 3).map (at32 · 0), dts := (col 4).map (at32 · 0), d, st }

/-- The pieces of a write of 4-byte elements: address, bytes, value. -/
def writePieces (va : Word) (vs : List Nat) : List (Word × Nat × Nat) :=
  let v := packNat 32 vs
  (sectors va (4 * vs.length)).map (fun (w, n) => (w, n, (v >>> (8 * (w - va).toNat)) % 2 ^ (8 * n)))

/-- Pieces, in ascending address, of which those that meet inside a sector are one (R235). -/
def mergePieces : List (Word × Nat × Nat) → List (Word × Nat × Nat)
  | [] => []
  | p :: rest =>
    match mergePieces rest with
    | [] => [p]
    | q :: qs =>
      if p.1 + word p.2.1 = q.1 && q.1.toNat % 32 != 0 then (p.1, p.2.1 + q.2.1, p.2.2 + q.2.2 <<< (8 * p.2.1)) :: qs
      else p :: q :: qs

/-- The length of a chunk (R353). -/
def Run.chunkLen (r : Run) (chunk : Nat) : Nat := min r.clen (r.len - chunk * r.clen)

/-- Computes a unit: the writes of y, as one operation, then those of the state (R235, R353, R360), and the flags. -/
def Run.compute (r : Run) (h chunk : Nat) (u : UnitIn) : UnitOps × FFlags :=
  let c := r.chunkLen chunk
  let (ys, st, f) := if r.ft ≤ c then matrixChunk r.n r.p u else recurrentChunk r.n r.p u c
  ({ ys := mergePieces (ys.zipIdx.flatMap (fun (y, i) =>
       writePieces (r.w 6 + word ((chunk * r.clen + i) * field (r.w 12) 31 0 + 4 * h * r.p)) y))
     sts := writePieces (r.stateAt h) st, st }, f)

/-- What the work of a unit comes to. -/
inductive UnitDone where
  | ok (s : State) (st : List Nat) (flags : Nat)
  | stop (s : State) (u : SsmUnit) (flags : Nat) (k : Kind) (f : Found)

/-- The writes of a unit that are left: those of y, by the engine of its quad, and then those of the state (R360, R361). -/
def State.unitWrites (s : State) (a : Agent) (quad : Nat) (u : SsmUnit) (o : UnitOps) (fl : Nat) : UnitDone :=
  match s.putAll { a with quads := [quad] } o.ys with
  | (s, left, some f) => .stop s { u with ops := some { o with ys := left } } fl .write f
  | (s, _, none) =>
    match s.putAll a o.sts with
    | (s, left, some f) => .stop s { u with ops := some { o with ys := [], sts := left } } fl .write f
    | (s, _, none) => .ok s o.st fl

/-- The chunk and the head of a unit (R359). -/
def Run.unitAt (r : Run) (u : SsmUnit) : Nat × Nat :=
  let i := r.doneOn u.quad
  (i / r.headsOn u.quad, u.quad + i % r.headsOn u.quad * r.nq)

/-- Carries a unit out (R353, R359, R360): it goes on at the access where it stopped. -/
def State.unitWork (s : State) (d : Nat) (r : Run) (u : SsmUnit) : UnitDone :=
  let a := r.agent d
  let (chunk, h) := r.unitAt u
  let c := r.chunkLen chunk
  match u.ops with
  | some o => s.unitWrites a (64 * d + r.q0 + u.quad) u o 0
  | none =>
    match s.readPieces a (((r.inputs h chunk c u.back).flatMap inputPieces).drop u.got.length) with
    | (s, got, some f) => .stop s { u with got := u.got ++ got } 0 .read f
    | (s, got, none) =>
      let (o, fl) := r.compute h chunk (r.unitIn h chunk c u.back (u.got ++ got))
      s.unitWrites a (64 * d + r.q0 + u.quad) { u with got := [] } o fl.toNat

/-- A unit of a run that is running and waits at nothing. -/
def Run.unitOf (r : Run) (quad : Nat) : Option SsmUnit := r.active.find? (fun u => r.q0 + u.quad == quad)

/-- `SSM_UNIT_END` (R359, R360): the unit writes y and its state; after the last unit the run completes. -/
def execSsmUnitEnd (s : State) : Res :=
  match s.subject with
  | some (.ssmUnitEnd d part seq quad) =>
    (match s.run? d part seq with
     | none => .next s
     | some r =>
       match r.unitOf quad with
       | none => .next s
       | some u =>
         if u.hold != .none then .next s
         else match s.unitWork d r u with
           | .stop .. => .next s
           | .ok s st fl =>
             let r := { r with flags := r.flags ||| fl, states := insert (r.unitAt u).2 st r.states, active := r.active.filter (fun v => v.quad != u.quad)
                               done := r.done.modify u.quad (· + 1) }
             let s := if r.done.sum = r.units then s.finishRun d r 0 0#64 else s.modRun d part seq (fun _ => r)
             .next s.reschedule.serveWords)
  | _ => .next s

/-- `SSM_UNIT_FAULT` (R360): a failed translation is posted and the unit waits there; poison, a bad address or an entry given up ends
the run. -/
def execSsmUnitFault (s : State) : Res :=
  match s.subject with
  | some (.ssmUnitFault d part seq quad) =>
    (match s.run? d part seq with
     | none => .next s
     | some r =>
       match r.unitOf quad with
       | none => .next s
       | some u =>
         match u.hold with
         | .fault .. => .next s
         | .gaveUp va => .next (s.finishRun d r 1 (word va)).reschedule
         | .none =>
           match s.unitWork d r u with
           | .ok .. => .next s
           | .stop s' u' fl k f =>
             let r' := { r with flags := r.flags ||| fl }
             match s'.engineStop (r.agent d) k f with
             | (s', .end_ code detail) => .next (s'.finishRun d r' code detail).reschedule.serveWords
             | (s', .wait h) =>
               .next (s'.modRun d part seq (fun _ =>
                 { r' with active := r'.active.map (fun v => if v.quad = u.quad then { u' with hold := h } else v) })).serveWords)
  | _ => .next s

end Sys2Proof.Machine
end

