-- ==== Sys2Proof/Machine/Joins.lean ====
section
/-! DEFINITION. Joins that take a quorum (R366 to R388), and `KMASK` (R382). -/

namespace Sys2Proof.Machine

/-! ### The record of a join (R368, R369) -/

/-- Word `i` of a join's record. -/
def Join.w (j : Join) (i : Nat) : Word := j.words.getD i 0#64
/-- RES. -/
def Join.res (j : Join) : Word := j.w 0
/-- COUNT. -/
def Join.count (j : Join) : Nat := field (j.w 6) 31 0
/-- SSTR. -/
def Join.sstr (j : Join) : Nat := field (j.w 6) 63 32
/-- NMEM. -/
def Join.nmem (j : Join) : Nat := field (j.w 7) 15 0
/-- QUORUM. -/
def Join.quorum (j : Join) : Nat := field (j.w 7) 31 16
/-- FMT. -/
def Join.fmt (j : Join) : Nat := field (j.w 7) 39 32
/-- FILL. -/
def Join.fill (j : Join) : Nat := field (j.w 7) 45 44
/-- The size of an element. -/
def Join.e (j : Join) : Nat := if j.fmt = 1 then 8 else 4
/-- TOTAL: the sum of all weights. -/
def Join.total (j : Join) : Nat := j.weights.sum
/-- The handle (R366). -/
def Join.handle (j : Join) (die : Nat) : Nat := j.gen * 2 ^ 32 + die * 2 ^ 27 + j.idx
/-- The address of a member's staging slot. -/
def Join.slot (j : Join) (m : Nat) : Word := j.w 1 + word (m * j.sstr)
/-- The status word (R379). -/
def Join.status (j : Join) (die : Nat) : Word :=
  word (j.state <<< 60 + boolNat j.replay.isSome <<< 59 + boolNat j.forced <<< 58 + j.code <<< 48 + j.handle die)
/-- The agent of Clove that acts for a join (R372): the ASID of its maker, at the join's die. -/
def Join.agent (j : Join) (die : Nat) : Agent := j.from_.agent die 5
/-- A member. -/
def Join.member (j : Join) (m : Nat) : Member := j.members.getD m {}
/-- Has a member arrived? -/
def Join.arrived (j : Join) (m : Nat) : Bool := (j.member m).state == .arrived
/-- The arrived weight. -/
def Join.weight (j : Join) : Nat := ((j.members.zip j.weights).map (fun (m, w) => if m.state == .arrived then w else 0)).sum
/-- The roster of the members that have arrived (R368). -/
def Join.arrivals (j : Join) : Nat := packNat 1 (j.members.map (fun m => boolNat (m.state == .arrived)))
/-- Does a member lie in the roster being replayed? -/
def Join.inReplay (j : Join) (m : Nat) : Bool := match j.replay with | some r => r.testBit m | none => false

/-- Clove writes `n` bytes of the record (R368), after the writes of it that wait already. -/
def State.recordWrite (s : State) (j : Join) (die off v n : Nat) : State :=
  let same (r : RecordWait) : Bool := r.from_ == j.from_ && r.at_ == j.at_
  if (s.die die).records.any same then
    s.modDie die (fun x => { x with records := x.records.map (fun r => if same r then { r with puts := r.puts ++ [(off, v, n)] } else r) })
  else s.putRecord die { from_ := j.from_, at_ := j.at_, puts := [], hold := .none } [(off, v, n)]

/-- Clove writes STATUS. -/
def State.putStatus (s : State) (j : Join) (die : Nat) : State := s.recordWrite j die 80 (j.status die).toNat 8

/-- A live join by its handle, if it has the given number. -/
def State.join? (s : State) (h : Nat) : Option Join := (s.liveJoin h).map (·.2)

/-! ### The end of a join (R379) -/

/-- A join dependence of tasks and runs is decided (R330). -/
def decideIn (h : Nat) (met : Bool) (ws : List Word) (deps : List (Nat × Bool)) : List (Nat × Bool) :=
  deps ++ ws.zipIdx.filterMap (fun (w, i) =>
    if bitOf w 63 && field w 62 0 == h && (lookup i deps).isNone then some (i, met) else none)

/-- Decides the dependences on a join on every die. -/
def State.decideJoin (s : State) (h : Nat) (met : Bool) : State :=
  s.mapDies (fun _ x => { x with
    tasks := x.tasks.map (fun t => { t with deps := decideIn h met ((t.words.drop 12).take t.ndep) t.deps })
    runs := x.runs.map (fun r => if r.depv then { r with deps := decideIn h met [r.w 9] r.deps } else r) })

/-- A waiter in `JWAIT` returns (R383): a member's JMEM is set to zero. -/
def State.wakeJoin (s : State) (h : Nat) (st : Word) (w : CtxId × Nat) : State :=
  (s.completeWait w.1 [(w.2, st)]).modThread w.1 (fun t =>
    if t.flushed then { t with deliver := t.deliver ++ [(44, word h)] } else t.receive 44 (word h))

/-- A join reaches state 2, 3 or 4 (R379): STATUS is written, the completion delivered, dependences decided and waiters woken. -/
def State.finishJoin (s : State) (die : Nat) (j : Join) (detail : Word) : State :=
  let h := j.handle die
  let s := s.putStatus j die
  let s := s.modJoin h (fun _ => { j with waiters := [], hold := .none, detail })
  let s := s.deliver
    { die, from_ := j.from_, form := field (j.w 7) 41 40, chan := field (j.w 7) 43 42, target := j.w 5, kind := 5, src := 5
      seq := word h, status := j.status die, detail, flags := word (j.flags &&& 0x17), val := j.status die, err := j.state != 2
      entry := some (6, h) }
  let s := j.waiters.foldl (fun s w => s.wakeJoin h (j.status die) w) s
  (s.decideJoin h (j.state == 2)).reschedule

/-! ### Stragglers, arrivals and release (R374, R375, R377) -/

/-- The kill word (R381). -/
def killWord (h m reason : Nat) : Word := word (h <<< 16 + m <<< 8 + reason)

/-- The tasks bound to a member that are not complete, with their dies. -/
def State.boundTasks (s : State) (h m : Nat) : List (Nat × Task) :=
  s.dies.flatMap (fun (d, (x : Die)) => (x.tasks.filter (fun t => t.jb && t.join == h && t.memb == m)).map (fun t => (d, t)))

/-- A member becomes a straggler (R377): its strand is sent a kill and its tasks are cancelled. One that has arrived or been killed
already is left as it is. -/
def State.straggle (s : State) (h m reason : Nat) : State :=
  match s.join? h with
  | none => s
  | some j =>
    let mem := j.member m
    if mem.state == .arrived || mem.state == .killed then s
    else
      let s := s.modJoin h (fun j => j.modMember m (fun x => { x with state := .killed, waits := [] }))
      let s := match mem.strand with
        | some sid => s.postKill sid (killWord h m reason)
        | none => s
      ((s.boundTasks h m).foldl (fun s (d, t) =>
        match s.task? d t.part t.seq with
        | some t => s.killTask d t (word h)
        | none => s) s)

/-- Every member that has not arrived and satisfies `f` becomes a straggler. -/
def State.straggleAll (s : State) (h n reason : Nat) (f : Nat → Bool) : State :=
  (List.range n).foldl (fun s m => if f m then s.straggle h m reason else s) s

/-- The flags that the contributions of the arrived members raised (R379). -/
def Join.arrivedFlags (j : Join) : Nat :=
  (j.members.map (fun m => if m.state == .arrived then m.flags else 0)).foldl (· ||| ·) 0

/-- A join releases (R375): roster and weight are fixed and written, and every bound member that has not arrived is killed. -/
def State.releaseJoin (s : State) (die : Nat) (j : Join) (forced : Bool) : State :=
  let j := { j with state := 1, forced, roster := j.arrivals, arrw := j.weight, flags := j.arrivedFlags }
  let h := j.handle die
  let s := s.modJoin h (fun _ => j)
  let s := s.recordWrite j die 68 j.arrw 4
  let s := s.recordWrite j die 160 j.roster 32
  let s := s.putStatus j die
  (s.straggleAll h j.nmem 1 (fun m => (j.member m).strand.isSome)).reschedule

/-- Does a join release with the members that have arrived (R375, R385)? -/
def Join.reached (j : Join) : Bool :=
  match j.replay with
  | some r => j.arrivals &&& r == r
  | none => j.quorum ≤ j.weight

/-- An arrival takes effect (R374, R375). -/
def State.arrive (s : State) (die : Nat) (j : Join) (m : Nat) : State :=
  let j := j.modMember m (fun x => { x with state := .arrived, waits := [] })
  let s := s.modJoin (j.handle die) (fun _ => j)
  if j.reached then s.releaseJoin die j false else s

/-! ### `JINIT` (R370, R371) -/

/-- Bytes of a table that must lie in direct memory or in the local store. -/
inductive BytesRead where
  | ok (s : State) (bs : List Nat)
  | walked
  | stopped (s : State)

/-- Reads `n` bytes for the issuing context (R371). -/
def State.readBytes (s : State) (va : Word) : Nat → BytesRead
  | 0 => .ok s []
  | n + 1 =>
    match s.locate va 1 .read with
    | .at_ (.frame ..) _ _ | .absent .. | .device .. => .walked
    | .at_ l v c =>
      if s.anyPoison l 1 then .stopped (s.trap 0x14 va)
      else match ((s.touch (.at_ l v c)).ownFirst 1 [.at_ l v c]).readBytes (va + 1#64) n with
        | .ok s' bs => .ok s' (s.readAt s.here l 1 :: bs)
        | r => r
    | f => .stopped (s.stopAt [] f .read)

/-- The shape of a record but for its weights and its target (R370). -/
def joinShape (j : Join) : Bool :=
  (j.fmt == 0 || j.fmt == 1 || j.fmt == 9) && 1 ≤ j.count && j.count ≤ 2 ^ 20 && j.sstr % 32 == 0 && j.count * j.e ≤ j.sstr
    && 1 ≤ j.nmem && j.nmem ≤ 256 && 1 ≤ j.quorum && j.fill != 3 && field (j.w 7) 47 46 == 0 && field (j.w 7) 63 48 == 0
    && j.res.toNat % 32 == 0 && (j.w 1).toNat % 32 == 0 && (j.w 2).toNat % 32 == 0
    && !(j.fill == 1 && j.fmt == 9) && ((j.fill == 2) == (j.w 2 != 0#64))

/-- Makes a join (R366, R371). -/
def State.makeJoin (s : State) (die : Nat) (d : Reg) (j : Join) : State :=
  let x := s.die die
  let gen := x.joinGen % 65535 + 1
  let idx := ((List.range 1024).find? (fun i => !x.joins.any (fun k => k.idx == i))).getD 0
  let j := { j with gen, idx }
  let s := s.setDie die { x with joinGen := gen, joins := x.joins ++ [j] }
  let s := s.recordWrite j die 64 (packNat 64 [j.total, j.handle die, (j.status die).toNat]) 192
  ((s.journal die 6 (j.handle die)).release .part).answerDone d (word (j.handle die))

/-- Jinit (R371). -/
def State.jinit (s : State) (d a b : Reg) : State :=
  let p := s.rd a
  let die := s.rd b
  if p.toNat % 256 ≠ 0 then s.trap 0x10 p
  else if 24 ≤ die.toNat then s.trap 0x03 die
  else
    match s.readRecord p 256 with
    | .stopped s => s
    | .walked => s.answerDone d badShape
    | .ok s ws =>
      let j : Join := { idx := 0, gen := 0, from_ := s.origin, at_ := p, words := ws.take 8, weights := [], members := [] }
      match (if j.w 3 = 0#64 then .ok s (List.replicate j.nmem 1) else s.readBytes (j.w 3) j.nmem) with
      | .stopped s => s
      | .walked => s.answerDone d badShape
      | .ok s ws =>
          let j := { j with weights := ws, members := List.replicate j.nmem {} }
          match s.part? s.cpu.part with
          | none => s.answerDone d denied
          | some q =>
            let form := q.formRefusal (field (j.w 7) 41 40) (j.w 5)
            if !joinShape j || j.total < j.quorum || form = some badShape then s.answerDone d badShape
            else if form.isSome || !q.dies.contains die.toNat then s.answerDone d denied
            else if q.jquota ≤ ((s.die die.toNat).joins.filter (fun k => k.from_.part == q.num)).length
                || 1024 ≤ (s.die die.toNat).joins.length || s.journalFull die.toNat then s.answerDone d busy
            else s.makeJoin die.toNat d j

/-- `JINIT` (R371). -/
def execJinit (d a b : Reg) (s : State) : Res := onBarrel s (fun s => s.jinit d a b)

/-! ### `JBIND` (R372) -/

/-- Goes on with a live join of the issuing context's partition, or refuses (R366). -/
def State.withLive (s : State) (d : Reg) (r : Option (Nat × Join)) (go : Nat → Join → State) : State :=
  match r with
  | none => s.answerDone d badHandle
  | some (die, j) => if j.from_.part = s.cpu.part then go die j else s.answerDone d denied

/-- Goes on with the live join that a handle names, as `withLive`. -/
def State.withJoin (s : State) (d : Reg) (h : Nat) (go : Nat → Join → State) : State := s.withLive d (s.liveJoin h) go

/-- What a stop of Clove at a slot does to the instruction that waits with it (R372, R373, R399): a fault is posted and the slot
held, a write-back waits, a conflict is the strand's trap. -/
def State.cloveStop (s : State) (die : Nat) (j : Join) (d : Reg) (k : Kind) (f : Found) : State :=
  match f with
  | .fail va w =>
    let (s, tok) := s.postFault die j.from_.part j.from_.asid va.toNat k 5 1 w
    s.modCpu (fun t => { t with wait := .clove die tok va.toNat k w d.toNat j.from_.asid })
  | .writeBack l => s.modCpu (fun t => { t with wait := .writeBack l })
  | .conflict va => (s.logConflict die s.cpu.core j.from_.part j.from_.asid va.toNat 5).trap 0x16 va
  | .trap c va => s.trap c va
  | _ => s

/-- Binds a member to the issuing context and names it in JMEM (R367, R372). -/
def State.bind (s : State) (die : Nat) (j : Join) (d : Reg) (m : Nat) : State :=
  let h := j.handle die
  let s := s.modJoin h (fun j => j.modMember m (fun x => { x with strand := some s.cpu.sid }))
  let s := s.modCpu (fun t => { t with jmem := word (m <<< 56 + h), khnd := if j.w 4 = 0#64 then t.khnd else j.w 4 })
  s.answerDone d 0#64

/-- Jbind (R372). -/
def State.jbind (s : State) (d a b : Reg) : State :=
  s.withJoin d (s.rd a).toNat (fun die j =>
    let m := (s.rd b).toNat
    let mem := j.member m
    if j.nmem ≤ m then s.answerDone d badShape
    else if (s.liveJoin (field s.cpu.jmem 47 0)).isSome || mem.strand.isSome || mem.state == .arrived || mem.state == .killed
        || mem.failed || j.state != 0 then s.answerDone d denied
    else if field (j.slot m) 63 56 ≠ 0 then s.answerDone d badShape
    else
      match s.engineWriteVa (j.agent die) (j.slot m) 0 j.sstr with
      | (s, some f) => s.cloveStop die j d .write f
      | (s, none) => s.bind die j d m)

/-- `JBIND` (R372). -/
def execJbind (d a b : Reg) (s : State) : Res := onBarrel s (fun s => s.jbind d a b)

/-! ### `JCONTRIB` (R373) -/

/-- Is a contribution to a join, begun and not complete, still waiting (R388)? -/
def State.contributing (s : State) (h : Nat) : Bool :=
  s.strands.any (fun (_, (t : Thread)) => t.begun && field t.jmem 47 0 == h)

/-- The join of a contribution that has begun: it may have been freed since (R388). -/
def State.begunJoin (s : State) (h : Nat) : Option (Nat × Join) :=
  match s.liveJoin h with
  | some r => some r
  | none => s.dies.findSome? (fun (d, (x : Die)) => (x.closing.find? (fun j => j.handle d == h)).map (fun j => (d, j)))

/-- Joins freed earlier that no contribution needs any more are forgotten. -/
def State.dropClosing (s : State) : State :=
  s.mapDies (fun d x => { x with closing := x.closing.filter (fun j => s.contributing (j.handle d)) })

/-- Goes on with the join and member that JMEM names, where the issuing context is bound to the member and may still act for it
(R373, R374); `begun` for a contribution that Clove has taken already, which completes (R388). -/
def State.asMember (s : State) (d : Reg) (begun : Bool) (go : Nat → Join → Nat → State) : State :=
  (if begun then s.withLive d (s.begunJoin (field s.cpu.jmem 47 0)) else s.withJoin d (field s.cpu.jmem 47 0)) (fun die j =>
    let m := field s.cpu.jmem 63 56
    let mem := j.member m
    if mem.strand != some s.cpu.sid || (!begun && (mem.state == .arrived || mem.state == .killed || mem.failed || j.state != 0)) then
      s.answerDone d denied
    else go die j m)

/-- Add (R373): nearest even, NaN canonical, integers wrap. -/
def Join.add (j : Join) (x y : Nat) : Nat × FFlags :=
  match j.fmt with
  | 0 => f32.add .rne x y
  | 1 => f64.add .rne x y
  | _ => ((x + y) % 2 ^ 32, 0#5)

/-- The source of a `JCONTRIB`, at its single copy, with the issuing context's own translation (R271, R373). -/
def State.sourceFind (s : State) (va : Word) (n : Nat) : Found :=
  match addrTrap va 1 with
  | some f => f
  | none =>
    if bitOf va 56 then
      if s.regionOk (field va 17 0) n .read then .at_ (.loc s.cpu.core (field va 17 0)) va none else .trap 0x13 va
    else s.engineFind { die := s.here, part := s.cpu.part, asid := s.cpu.asid, src := 0 } va n .read

/-- Reads the pieces of a source: its value, or the piece that stops and, where it is poison, its trap. -/
def State.sourceRead (s : State) : List (Word × Nat) → State × Except Found Nat
  | [] => (s, .ok 0)
  | (va, n) :: rest =>
    match s.sourceFind va n with
    | .at_ l v c =>
      if s.anyPoison l n then (s, .error (.trap 0x14 va))
      else
        let x := s.readAt s.here l n
        let s := match c with
          | some (c, ipas) => s.cacheComp s.here s.cpu.part s.cpu.asid v.toNat c ipas
          | none => s
        (match s.sourceRead rest with
         | (s, .ok y) => (s, .ok (x + y <<< (8 * n)))
         | r => r)
    | .device pa _ c _ =>
      let (s, x) := s.deviceRead pa n c
      (match s.sourceRead rest with
       | (s, .ok y) => (s, .ok (x % 2 ^ (8 * n) + y <<< (8 * n)))
       | r => r)
    | f => (s, .error f)

/-- Is a sector of a member's slot reachable for Clove (R373)? Poison, which gives the address of the slot, faults and the like stop the
whole instruction. -/
def State.slotStop (s : State) (a : Agent) (slot va : Word) (n : Nat) : Option Found :=
  (sectors va n).findSome? (fun (v, k) =>
    match s.engineFind a v k .both with
    | .at_ l _ _ => if s.anyPoison l k then some (.trap 0x14 slot) else none
    | .device .. => none
    | f => some f)

/-- Does an access that stops so wait, to be made again? -/
def Found.waits : Found → Bool
  | .fail .. | .writeBack .. | .absent .. => true
  | _ => false

/-- Adds a partial into the slot (R373). A contribution that waits at it, or at its source, has begun (R388). -/
def State.contribute (s : State) (die : Nat) (j : Join) (d : Reg) (m off n : Nat) (src : Nat) : State :=
  let a := j.agent die
  let va := j.slot m + word (off * j.e)
  let stop (s : State) (f : Found) : State := (s.modCpu (fun t => { t with begun := f.waits })).cloveStop die j d .both f
  match s.slotStop a (j.slot m) va (n * j.e) with
  | some f => stop s f
  | none =>
    match s.engineRead a va (n * j.e) with
    | .stop f => stop s f
    | .val s old =>
      let w := 8 * j.e
      let rs := (List.range n).map (fun i => j.add ((old >>> (w * i)) % 2 ^ w) ((src >>> (w * i)) % 2 ^ w))
      match s.engineWriteVa a va (packNat w (rs.map (·.1))) (n * j.e) with
      | (s, some f) => stop s f
      | (s, none) =>
        (s.modJoin (j.handle die) (fun j => j.modMember m (fun x =>
          { x with flags := x.flags ||| (orFlags (rs.map (·.2))).toNat }))).answerDone d 0#64

/-- Jcontrib (R373). -/
def State.jcontrib (s : State) (d a b : Reg) : State :=
  let sel := s.rd b
  let src := s.rd a
  if field sel 63 48 ≠ 0 then s.illegal
  else
    let begun := s.cpu.begun
    let s := s.modCpu (fun t => { t with begun := false })
    s.asMember d begun (fun die j m =>
    let off := if sel = 0#64 then 0 else field sel 23 0
    let n := if sel = 0#64 then j.count else field sel 47 24
    if src.toNat % j.e ≠ 0 then s.trap 0x10 src
    else if n = 0 || j.count < off + n then s.answerDone d badShape
    else if field (j.slot m) 63 56 ≠ 0 then s.answerDone d badShape
    else
      let s := s.release .part
      match s.sourceRead (sectors src (n * j.e)) with
      | (s, .error f) => (s.modCpu (fun t => { t with begun := f.waits })).stopAt [] f .read
      | (s, .ok v) => s.contribute die j d m off n v)

/-- `JCONTRIB` (R373). -/
def execJcontrib (d a b : Reg) (s : State) : Res := onBarrel s (fun s => s.jcontrib d a b)

/-! ### `JARRIVE` (R374) -/

/-- `JARRIVE` (R374): the member's arrival waits for the tasks bound to it that are not complete. -/
def execJarrive (d : Reg) (s : State) : Res :=
  onBarrel s fun s => s.asMember d false (fun die j m =>
    if j.replay.isSome && !j.inReplay m then s.answerDone d denied
    else
      let s := s.release .part
      let h := j.handle die
      if (j.member m).state == .arriving then s.answerDone d 0#64
      else match (s.boundTasks h m).map (fun (x, t) => (x, t.seq)) with
        | [] => (s.arrive die j m).answerDone d 0#64
        | ws => (s.modJoin h (fun j => j.modMember m (fun x => { x with state := .arriving, waits := ws }))).answerDone d 0#64)

/-- `JOIN_DEFERRED_ARRIVAL` (R374): the last task of an arriving member has completed, or a task bound to a member has ended in
error. -/
def execJoinDeferredArrival (s : State) : Res :=
  match s.subject with
  | some (.joinDeferredArrival d idx m) =>
    (match (s.die d).joins.find? (fun j => j.idx == idx) with
     | none => .next s
     | some j =>
       let mem := j.member m
       if j.state != 0 || mem.state == .arrived || mem.state == .killed then .next s
       else if mem.failed then .next (s.straggle (j.handle d) m 4).reschedule
       else if mem.state == .arriving && mem.waits.isEmpty && (j.replay.isNone || j.inReplay m) then .next (s.arrive d j m)
       else .next s)
  | _ => .next s

/-! ### The fold (R376, R378) -/

/-- Elements of a join from `i` on, `n` of them, from a member's slot or its substitute entries. -/
def State.foldRead (s : State) (die : Nat) (j : Join) (m i n : Nat) : Got :=
  let base := if j.roster.testBit m then j.slot m else j.w 2 + word (m * j.sstr)
  s.engineRead (j.agent die) (base + word (i * j.e)) (n * j.e)

/-- Sums the members' elements in ascending member order; none before the first. -/
def State.foldMembers (s : State) (die : Nat) (j : Join) (i n : Nat) :
    List Nat → Option (List Nat) → FFlags → State × Except Found (List Nat × FFlags)
  | [], acc, f => (s, .ok (acc.getD [], f))
  | m :: ms, acc, f =>
    match s.foldRead die j m i n with
    | .stop g => (s, .error g)
    | .val s v =>
      let w := 8 * j.e
      let vs := (List.range n).map (fun k => (v >>> (w * k)) % 2 ^ w)
      match acc with
      | none => s.foldMembers die j i n ms (some vs) f
      | some xs =>
        let rs := (xs.zip vs).map (fun (x, y) => j.add x y)
        s.foldMembers die j i n ms (some (rs.map (·.1))) (f ||| orFlags (rs.map (·.2)))

/-- The members that a fold reads (R376). -/
def Join.folded (j : Join) : List Nat := (List.range j.nmem).filter (fun m => j.roster.testBit m || j.fill == 2)

/-- The rescale of R376, and the canonical NaN (R164). -/
def Join.finishElem (j : Join) (v : Nat) : Nat × FFlags :=
  let q := f32.div .rne (f32.round .rne (.fin false j.total 0) false).1 (f32.round .rne (.fin false j.arrw 0) false).1
  let canon (f : FFmt) (x : Nat) : Nat := if (f.num x).isNan then f.qnan else x
  match j.fmt, j.fill with
  | 0, 1 =>
    let r := f32.mul .rne v q.1
    (r.1, r.2 ||| q.2)
  | 1, 1 =>
    let r := f64.mul .rne v (f64.round .rne (f32.num q.1) false).1
    (r.1, r.2 ||| q.2)
  | 0, _ => (canon f32 v, 0#5)
  | 1, _ => (canon f64 v, 0#5)
  | _, _ => (v, 0#5)

/-- The outcome of a fold. -/
inductive FoldRes where
  | ok (s : State) (j : Join)
  | stop (s : State) (j : Join) (k : Kind) (f : Found)

/-- Folds the elements that are left, one sector of the result at a time (R376, R378). -/
def State.fold (s : State) (die : Nat) (j : Join) : Nat → FoldRes
  | 0 => .ok s j
  | fuel + 1 =>
    if j.count ≤ j.pos then .ok s j
    else
      let n := min (32 / j.e) (j.count - j.pos)
      match s.foldMembers die j j.pos n j.folded none 0#5 with
      | (s, .error f) => .stop s j .read f
      | (s, .ok (vs, f)) =>
        let rs := vs.map j.finishElem
        match s.engineWriteVa (j.agent die) (j.res + word (j.pos * j.e)) (packNat (8 * j.e) (rs.map (·.1))) (n * j.e) with
        | (s, some g) => .stop s j .write g
        | (s, none) =>
          s.fold die { j with pos := j.pos + n, flags := j.flags ||| (f ||| orFlags (rs.map (·.2))).toNat } fuel

/-- A fold has ended (R379): success with TOTAL and ARRW, or a code with the failing address. -/
def State.foldEnd (s : State) (die : Nat) (j : Join) (code : Nat) (detail : Word) : State :=
  if code = 0 then s.finishJoin die { j with state := 2 } (word (j.total <<< 32 + j.arrw))
  else s.finishJoin die { j with state := 3, code } detail

/-- `JOIN_FOLD_DONE` (R378, R379): the rest of the fold is carried out; an error ends it. Where an access is to wait, that is
`JOIN_FOLD_FAULT`. -/
def execJoinFoldDone (s : State) : Res :=
  match s.subject with
  | some (.joinFoldDone d idx) =>
    (match (s.die d).joins.find? (fun j => j.idx == idx) with
     | none => .next s
     | some j =>
       if j.state != 1 then .next s
       else match j.hold with
         | .fault .. => .next s
         | .gaveUp va => .next (s.foldEnd d j 1 (word va)).serveWords
         | .none =>
           match s.fold d j j.count with
           | .ok s j => .next (s.foldEnd d j 0 0#64).serveWords
           | .stop s' j' k f =>
             match s'.engineStop (j.agent d) k f with
             | (s', .end_ code detail) => .next (s'.foldEnd d j' code detail).serveWords
             | (_, .wait _) => .next s)
  | _ => .next s

/-- `JOIN_FOLD_FAULT` (R378): the fold waits at the element whose access failed. -/
def execJoinFoldFault (s : State) : Res :=
  match s.subject with
  | some (.joinFoldFault d idx) =>
    (match (s.die d).joins.find? (fun j => j.idx == idx) with
     | none => .next s
     | some j =>
       if j.state != 1 || j.hold != .none then .next s
       else match s.fold d j j.count with
         | .ok .. => .next s
         | .stop s' j' k f =>
           match s'.engineStop (j.agent d) k f with
           | (_, .end_ _ _) => .next s
           | (s', .wait h) => .next (s'.modJoin (j.handle d) (fun _ => { j' with hold := h })).serveWords)
  | _ => .next s

/-! ### `JWAIT` (R383) -/

/-- `JWAIT` (R383). -/
def execJwait (d a : Reg) (s : State) : Res :=
  onBarrel s fun s =>
    let h := if a = 0#5 then field s.cpu.jmem 47 0 else (s.rd a).toNat
    s.withJoin d h (fun die j =>
      if 2 ≤ j.state then
        (s.modCpu (fun t => if field t.jmem 47 0 = h then { t with jmem := 0#64 } else t)).answerDone d (j.status die)
      else s.waitHere 0x05 .join (fun s => s.modJoin h (fun j => { j with waiters := j.waiters ++ [(s.cur, d.toNat)] })))

/-! ### Row D's mould (R384, R385) -/

/-- `JQRY.st` (R384). -/
def execJqrySt (d a : Reg) (s : State) : Res :=
  onBarrel s fun s => s.withJoin d (s.rd a).toNat (fun die j => s.answerDone d (j.status die))

/-- `JQRY.wt` (R384). -/
def execJqryWt (d a : Reg) (s : State) : Res :=
  onBarrel s fun s => s.withJoin d (s.rd a).toNat (fun _ j => s.answerDone d (word (j.total <<< 32 + j.weight)))

/-- `JKILL` (R384). -/
def execJkill (d a b : Reg) (s : State) : Res :=
  onBarrel s fun s => s.withJoin d (s.rd a).toNat (fun die j =>
    let sel := s.rd b
    let m := field sel 7 0
    if field sel 63 9 ≠ 0 || (!bitOf sel 8 && j.nmem ≤ m) then s.answerDone d badShape
    else if j.state != 0 then s.answerDone d denied
    else if bitOf sel 8 then ((s.straggleAll (j.handle die) j.nmem 2 (fun m => !j.inReplay m)).reschedule).answerDone d 0#64
    else if j.arrived m || j.inReplay m then s.answerDone d denied
    else ((s.straggle (j.handle die) m 2).reschedule).answerDone d 0#64)

/-- `JROSTER` (R384). -/
def execJroster (d a b : Reg) (s : State) : Res :=
  onBarrel s fun s =>
    let va := s.rd b
    if va.toNat % 32 ≠ 0 then s.trap 0x10 va
    else s.withJoin d (s.rd a).toNat (fun _ j =>
      if j.state != 2 && j.state != 3 then s.answerDone d denied
      else s.store false ((List.range 4).map (fun i => va + word (8 * i))) 8 (s.findWrite 8)
        ((List.range 4).map (fun i => (j.roster >>> (64 * i)) % 2 ^ 64))
        (fun s => s.accessDone [(d.toNat, popcount j.roster 256)]))

/-- `JREPLAY` (R385). -/
def execJreplay (d a b : Reg) (s : State) : Res :=
  onBarrel s fun s =>
    let va := s.rd b
    if va.toNat % 32 ≠ 0 then s.trap 0x10 va
    else s.withJoin d (s.rd a).toNat (fun die j =>
      if j.members.any (fun m => m.state == .arrived) || j.replay.isSome then s.answerDone d denied
      else
        match s.readRecord va 32 with
        | .stopped s => s
        | .walked => s.answerDone d badShape
        | .ok s ws =>
          let r := packNat 64 (ws.map BitVec.toNat)
          let weight := (j.weights.zipIdx.map (fun (w, i) => if r.testBit i then w else 0)).sum
          if r = 0 || 2 ^ j.nmem ≤ r || (j.fill == 1 && weight == 0) then s.answerDone d badShape
          else
            let j := { j with replay := some r }
            (((s.modJoin (j.handle die) (fun _ => j)).recordWrite j die 192 r 32).putStatus j die).answerDone d 0#64)

/-- An entry of the join table is freed (R366), with the barrier instances of its scope; the join is kept apart for the contributions
to it that have begun (R388). -/
def State.freeJoin (s : State) (die h : Nat) : State :=
  let named (j : Join) : Bool := j.idx == h % 1024 && j.gen == h / 2 ^ 32 % 2 ^ 16
  let s := (s.modDie die (fun x => { x with
    joins := x.joins.filter (fun j => !named j), closing := x.closing ++ x.joins.filter named })).dropClosing
  s.mapDies (fun _ x => { x with bars := x.bars.filter (fun b => !(b.scope == 10 && b.unit == h)) })

/-- `JCLOSE` (R384, R388). -/
def execJclose (d a : Reg) (s : State) : Res :=
  onBarrel s fun s => s.withJoin d (s.rd a).toNat (fun die j =>
    let h := j.handle die
    match j.state with
    | 1 => s.answerDone d busy
    | 0 =>
      let s := s.straggleAll h j.nmem 3 (fun _ => true)
      let j := (s.join? h).getD j
      let s := s.finishJoin die { j with state := 4, code := 9, arrw := j.weight, flags := j.arrivedFlags } (word (j.total <<< 32 + j.weight))
      (s.freeJoin die h).answerDone d 0#64
    | _ => (s.freeJoin die h).answerDone d 0#64)

/-- `JREL` (R384). -/
def execJrel (d a : Reg) (s : State) : Res :=
  needSupBarrel s fun s => s.withJoin d (s.rd a).toNat (fun die j =>
    if j.state != 0 || j.weight = 0 then s.answerDone d denied
    else (s.releaseJoin die j true).answerDone d 0#64)

/-! ### `KMASK` (R382) -/

/-- `KMASK.off` (R382). -/
def execKmaskOff (s : State) : Res :=
  onBarrel s fun s => (s.modCpu (fun t => { t with sts := t.sts ||| 0x2000#64 })).done

/-- `KMASK.on` (R382): a pending kill is taken at once. -/
def execKmaskOn (s : State) : Res :=
  onBarrel s fun s =>
    let s := s.modCpu (fun t => { t with sts := t.sts &&& ~~~0x2000#64 })
    if s.cpu.killable then s.killHere else s.done

end Sys2Proof.Machine
end

