-- ==== Sys2Proof/Machine/Choice.lean ====
section
/-! DEFINITION. Which move comes next where nothing settles it (R8, R16): a free choice among the moves that are due. -/

namespace Sys2Proof.Machine

/-- Events of a context: answers, the end of its patience, retries, its arrival. -/
def Thread.due (c : CtxId) (t : Thread) : List Event :=
  (match t.wait with
   | .remote .. => [.wordRequestAnswer c 0, .ldxTimeout c]
   | .word .. => [.slotPatienceExpiry c]
   | .wordRetry => [.wordWaiterRetry c]
   | _ => [])
  ++ (List.range t.outs.length).map (fun i => .wordRequestAnswer c i)
  ++ (match t.place, c with
      | .transit .., .strand sid => [.strandArrival sid]
      | _, _ => [])

/-- Every context that is not idle for want of ever having started. -/
def State.contexts (s : State) : List (CtxId × Thread) :=
  s.strands.map (fun (n, t) => (.strand n, t))
    ++ (s.cores.map (·.1)).filterMap (fun c => (s.thread? (.sup c)).map (fun t => (.sup c, t)))

/-- Does some waiter of a die wait without a fault entry (R402)? -/
def State.unposted (s : State) (d : Nat) : Bool :=
  let x := s.die d
  let open_ (h : Hold) : Bool := match h with | .fault none .. => true | _ => false
  s.contexts.any (fun (_, (t : Thread)) => match t.wait with | .fault n none .. | .clove n none .. => n == d | _ => false)
    || x.blocks.any (fun b => !b.unposted.isEmpty) || x.requests.any (fun m => open_ m.hold) || x.tasks.any (fun t => open_ t.hold)
    || x.runs.any (fun r => r.active.any (fun u => open_ u.hold)) || x.joins.any (fun j => open_ j.hold)
    || x.late.any (fun l => open_ l.hold) || x.records.any (fun r => open_ r.hold) || s.outside.any (fun o => o.die == d && open_ o.hold)

/-- Events of blocks, launches and joins of a die. -/
def Die.due (x : Die) (d : Nat) : List Event :=
  (if x.blocks.any Block.eligible then [.fetchStart d] else [])
  ++ x.blocks.flatMap (fun b => match b.frame with
      | .fetching => [.fetchDone d b.key, .fetchFault d b.key]
      | .writingBack => [.writeBackDone d b.key]
      | _ => [])
  ++ x.launches.flatMap (fun l =>
      let lid := (lidOf d l.gen l.idx).toNat
      [.launchStrandCreate lid, .launchSweep lid])
  ++ x.joins.flatMap (fun j => match j.state with
      | 0 => (List.range j.nmem).map (fun m => .joinDeferredArrival d j.idx m)
      | 1 => [.joinFoldDone d j.idx, .joinFoldFault d j.idx]
      | _ => [])
  ++ (if x.down then [.dieReturn d] else [.vfReplan d])

/-- Events of the engines of a die. -/
def Die.engineDue (x : Die) (d : Nat) : List Event :=
  ((x.requests.map (fun m => m.from_.part)).eraseDups.map (fun p => .movementDispatch d p))
  ++ x.engines.flatMap (fun (e, (g : Engine)) =>
      (if g.work.isSome then [.movementSegmentEnd d e, .movementFault d e, .movementComplete d e] else [])
        ++ (if g.part.isSome then [.leasePeriodEnd d e] else []))
  ++ ((x.armed.filter (fun a => a.fired)).map (fun a => a.move.from_.part)).eraseDups.map (fun p => .triggeredEnqueue d p)
  ++ (x.tasks.filter (fun t => t.running)).flatMap (fun t =>
      [.taskKblockEnd d t.part t.seq, .taskFault d t.part t.seq, .taskComplete d t.part t.seq])
  ++ x.runs.flatMap (fun r => r.active.flatMap (fun u =>
      [.ssmUnitEnd d r.part r.seq (r.q0 + u.quad), .ssmUnitFault d r.part r.seq (r.q0 + u.quad)]))

/-- Events of a core. -/
def Core.due (k : Core) (n : Nat) : List Event :=
  (if k.netWait.isEmpty then [] else [.arrivalQueueAdmit n]) ++ (if k.slicing then [.sliceExpiry n, .sliceOverrun n] else [])

/-- Module events that may happen now: what the module itself does, each with its subject. An event that turns out not to be due
changes nothing. -/
def State.due (s : State) : List Event :=
  s.contexts.flatMap (fun (c, t) => t.due c)
  ++ s.posted.zipIdx.map (fun (p, i) => .postedWriteDrain p.die i)
  ++ (List.range s.wire.length).map .messageArrival
  ++ s.cores.flatMap (fun (n, k) => k.due n)
  ++ s.dies.flatMap (fun (d, x) => x.due d ++ x.engineDue d ++ (if s.unposted d then [.faultPostRetry d] else []))
  ++ (s.rta.filter (fun r => r.2.2.isSome)).map (fun r => .rtaArmExpiry r.1)
  ++ s.scanWait.map (fun w => .writeBackScan w.1 w.2.1 w.2.2.1)
  ++ (s.parts.filter (fun p => p.wbr != 0)).map (fun p => .writeBackScan p.num (Config.scanAt s.tick).1 (Config.scanAt s.tick).2)
  ++ (s.clearing.take 1).map (fun r => .backgroundClearing r.1)
  ++ s.qports.flatMap (fun (n, (q : QPort)) => if q.waiting.isEmpty then [] else [.queuePortServe n, .queuePortServeOther n])
  ++ s.outside.map (fun o => match o.from_ with
      | 0 => .remoteAccessRetry o.id
      | 1 => .hostAccessRetry o.id
      | _ => .storagePortRetry o.id)

/-- What a core may do (R16, R128): it issues from its next ready slot, and only where it has none a cycle passes without an issue. -/
def State.coreMove (s : State) (core : Nat) : Turn :=
  match s.nextOn core with
  | some c => .issue c
  | none => .idle core

/-- What reaches a module that stays in reset (R40, R438): the verification of an image, and a further reset. -/
def Event.inReset : Event → Bool
  | .imageVerify .. | .moduleReset => true
  | _ => false

/-- The moves among which the free choice falls: an event from outside, a module event, and a move of a core, one that was ever touched or any
other. A module that holds no valid image stays in reset (R438). -/
def State.moves (s : State) : List Turn :=
  if s.image.isNone then (s.inputs.find? Event.inReset).toList.map Turn.event
  else (s.inputs.take 1).map Turn.event ++ s.due.map Turn.event ++ s.cores.map (fun (n, _) => s.coreMove n)
    ++ [s.coreMove (Config.anyCore s.tick % 6240)]

/-- The next move: the one that is settled, or a free choice (log 1). -/
def State.nextTurn (s : State) : Option Turn :=
  match s.turn with
  | some t => some t
  | none =>
    match s.moves with
    | [] => none
    | m :: ms => (m :: ms)[Config.pick s.tick % (ms.length + 1)]?

/-- An event is taken: it is no longer an input, and it is what the step is about. A store to a control region that follows it comes
next. -/
def State.takeEvent (s : State) (e : Event) : State :=
  let rest := s.inputs.erase e
  { s with turn := (rest.head?.filter Event.isControl).map Turn.event, subject := some e, inputs := rest }

/-- The core of the issuing context, for the end of a step of a gang-stopped strand. -/
def CtxId.coreIn (s : State) (c : CtxId) : Nat := ((s.thread? c).map (·.core)).getD 0

end Sys2Proof.Machine
end

