-- ==== Sys2Proof/Machine/Control.lean ====
section
/-! DEFINITION. Row 0: `ILL`, `NOP`, transfers and windows (R62, R63, R142 to R145), and reserved opcodes (R61). -/

namespace Sys2Proof.Machine

/-- `ILL` in each form (R62), and a reserved opcode (R61): the illegal-opcode trap with TVAL holding the head. -/
def illegalOpcode (s : State) : Res := .next (s.trapHead 0x01)

/-- `ILL` with no tail (R62). -/
def execIll (_ : BitVec 4) (s : State) : Res := illegalOpcode s
/-- `ILL` with a one-slot tail (R62). -/
def execIllT1 (s : State) : Res := illegalOpcode s
/-- `ILL` with a two-slot tail (R62). -/
def execIllT2 (s : State) : Res := illegalOpcode s
/-- `ILL` with a four-slot tail (R62). -/
def execIllT4 (s : State) : Res := illegalOpcode s
/-- An opcode of columns C to F (R61). -/
def execReservedOpcode (_ : BitVec 8) (_ : BitVec 4) (_ : BitVec 2) (_ : BitVec 64) (s : State) : Res := illegalOpcode s

/-- `NOP` (R63). -/
def nop (s : State) : Res := plain s State.done

/-- `NOP` with no tail (R63). -/
def execNop (s : State) : Res := nop s
/-- `NOP` with a one-slot tail (R63). -/
def execNopT1 (s : State) : Res := nop s
/-- `NOP` with a two-slot tail (R63). -/
def execNopT2 (s : State) : Res := nop s
/-- `NOP` with a four-slot tail (R63). -/
def execNopT4 (s : State) : Res := nop s

/-- A taken transfer whose target has been checked, with its effect `f` (R54, R142): the context now holds the target's line (R44). A taken
backward branch is a safe point (R257). -/
def State.jumpTo (s : State) (src : Option Found) (is : List Slotted) (f : State → State) (t : Word) : State :=
  let fin (s : State) : State := (f (s.holdLine (lineAddr t) src is)).doneTo 0 t
  if (lineAddr t).ule (lineAddr s.cpu.pc) && !s.cpu.vlive then s.safeFinish fin else fin s

/-- A transfer (R48, R142). -/
def State.jump (s : State) (t : Word) : State :=
  match s.checkTarget t with
  | .stopped s => s
  | .ok src is => s.jumpTo src is id t

/-- A call (R142): o7 receives Rtn once the target is checked. -/
def State.call (s : State) (t : Word) : State :=
  match s.checkTarget t with
  | .stopped s => s
  | .ok src is => s.jumpTo src is (fun s => s.setR 15#5 (nextPc s.cpu.pc s.cpu.lineN)) t

/-- `BR` (R142). -/
def execBr (target : BrImm) (s : State) : Res := plain s fun s => s.jump (branchTarget s.cpu.pc target)
/-- `BRC` (R142). -/
def execBrc (c : Cond) (a b : Reg) (target : BrImm) (s : State) : Res :=
  plain s fun s => if cond c (s.rd a) (s.rd b) then s.jump (branchTarget s.cpu.pc target) else s.done
/-- `JMP` (R142). -/
def execJmp (a : Reg) (s : State) : Res := plain s fun s => s.jump (s.rd a)
/-- `CALL` (R142). -/
def execCall (target : BrImm) (s : State) : Res := plain s fun s => s.call (branchTarget s.cpu.pc target)
/-- `CALLR` (R142): the target is the register's value before o7 is written. -/
def execCallr (a : Reg) (s : State) : Res := plain s fun s => s.call (s.rd a)

/-- `LOOP` (R143). -/
def execLoop (d : Reg) (target : BrImm) (s : State) : Res :=
  plain s fun s =>
    let c := s.rd d - 1#64
    if c ≠ 0#64 then
      match s.checkTarget (branchTarget s.cpu.pc target) with
      | .stopped s => s
      | .ok src is => s.jumpTo src is (fun s => s.setR d c) (branchTarget s.cpu.pc target)
    else (s.setR d 0#64).done

/-- The top of the spill stack (R135, R144). -/
def Thread.stackTop (t : Thread) : Word := t.ssp + word (128 * (t.depth + 1 - t.res))

/-- `SAVE` (R135, R144). -/
def execSave (s : State) : Res :=
  plain s fun s =>
    let nd := s.cpu.depth + 1
    if 1024 <<< s.cpu.zsz < 128 * (nd + 1) + 192 then
      s.trap 0x13 (s.cpu.stackTop - word (128 * (nd + 1) + 192))
    else
      match (if s.cpu.res = 4 then s.spillOldest else .ok s) with
      | .stopped s => s
      | .ok s => (s.modCpu (fun t => { t.newWindow with depth := nd })).done

/-- `CloseWindow` up to the fill (R145): the depth check, and the fill of the window below where it is not resident. A spill
of that window that has begun completes first (R134). -/
def State.readyOlder (s : State) : Spilled :=
  if s.cpu.depth = 0 then .stopped (s.trap 0x13 ((s.cpu.wptr.setWidth 32).setWidth 64))
  else if s.cpu.res = 1 then s.fillOlder
  else if s.cpu.res = 2 && s.cpu.spillSec != 0 then
    match s.spillOldest with
    | .stopped s => .stopped s
    | .ok s => s.fillOlder
  else .ok s

/-- The rest of `CloseWindow` (R145). -/
def Thread.closeWindow (t : Thread) : Thread := { t.dropWindow with depth := t.depth - 1 }

/-- `RESTORE` (R145). -/
def execRestore (s : State) : Res :=
  plain s fun s =>
    match s.readyOlder with
    | .stopped s => s
    | .ok s => (s.modCpu Thread.closeWindow).done

/-- `RET` (R145): the target in i7 is checked first. -/
def execRet (s : State) : Res :=
  plain s fun s =>
    let t := s.rd 31#5
    match s.checkTarget t with
    | .stopped s => s
    | .ok src is =>
      match s.readyOlder with
      | .stopped s => s
      | .ok s => s.jumpTo src is (fun s => s.modCpu Thread.closeWindow) t

end Sys2Proof.Machine
end

