-- ==== Sys2Proof/Machine/Supervisor.lean ====
section
/-! DEFINITION. The supervisor context: `WFE`, `TRET`, `TRAP`, `SVC` and its services, gang stops and single steps, time slices
(R244 to R267). -/

namespace Sys2Proof.Machine

/-! ### Taking an event and returning (R249, R250) -/

/-- Is the cause that of a synchronous trap, which its taker holds until it is disposed of (R244, R249)? -/
def heldCause (cause : Nat) : Bool := cause < 0x40 && cause != 0x3F

/-- The issuing supervisor context takes an event (R249). -/
def State.acceptEvent (s : State) (core : Nat) (e : SupEvent) (rest : List SupEvent) : State :=
  let s := s.modCpu (fun t => { t with tpc := e.pc, tval := e.val, tcause := word (e.slot <<< 8 + e.cause) })
  s.modCore core (fun k => { k with events := rest, held := if heldCause e.cause then some (e.slot, e.pc) else k.held })

/-- `WFE` (R249): with no event queued, the context waits and issues again once one is. -/
def execWfe (s : State) : Res :=
  needSup s fun s =>
    let core := s.cpu.core
    let k := s.core core
    if k.held.isSome then s.illegal
    else match takeEvent k.events with
      | none => s.modCpu (fun t => { t with wait := .idle })
      | some (e, rest) => (s.acceptEvent core e rest).done

/-- The trap that a strand resumed at a target takes instead (R48, R250): a line that cannot be fetched now is met at its issue. -/
def State.targetCause (s : State) (pc : Word) : Option Nat :=
  if field pc 63 57 ≠ 0 then some 0x05
  else match s.lineOf (lineAddr pc) with
    | .illegal => some 0x02
    | .ok _ is => if field pc 5 0 = 0 || is.length < field pc 5 0 then some 0x05 else none
    | _ => none

/-- Resumes a suspended strand at a target, or queues the trap that the target earns (R250). Its prefixes are cleared where the target
is not the PC of its trap (R196). -/
def State.resumeAt (s : State) (sid : Nat) (at_ pc : Word) : State :=
  let c : CtxId := .strand sid
  let old := s.cur
  let s := s.modThread c (fun t => if pc = at_ then t else t.clearPrefix)
  let s := s.focus c
  match s.targetCause pc with
  | some cause => ((s.modCpu (fun t => { t with wait := .suspended })).queueEvent s.cpu.core { cause, slot := s.cpu.slot, pc, val := pc }).focus old
  | none => (s.modCpu (fun t => { t with pc, wait := .none })).focus old

/-- The trap a core's supervisor holds is disposed of. -/
def State.clearHeld (s : State) (core : Nat) : State := s.modCore core (fun k => { k with held := none })

/-- `TRET` (R250): the supervisor's own accesses are performed first. -/
def execTret (s : State) : Res :=
  needSup s fun s =>
    let core := s.cpu.core
    match (s.core core).held with
    | none => s.illegal
    | some (slot, at_) =>
      let s := (s.drain (fun p => p.ctx == s.cur)).clearHeld core
      match lookup slot (s.core core).slots with
      | none => s.done
      | some sid => (s.resumeAt sid at_ s.cpu.tpc).done

/-! ### `TRAP` and `SVC` (R251, R252) -/

/-- The PC that follows the instruction in issue: Rtn of R142. -/
def State.following (s : State) : Word := nextPc s.cpu.pc s.cpu.lineN

/-- `TRAP` (R251). -/
def execTrap (m : BitVec 4) (s : State) : Res := plain s (fun s => s.trapAt 0x31 s.following (m.setWidth 64))

/-- A service answers in o0 (R252). -/
def State.served (s : State) (r : Word) : State := (s.setR 8#5 r).done

/-- The strand of a slot that a slot service may act on (R252): the held trap's, or any of the core while it is gang-stopped. -/
def State.slotStrand (s : State) (slot : Word) : Option Nat :=
  let core := s.cpu.core
  let k := s.core core
  if k.held.map (·.1) == some slot.toNat || s.gangStopped core then lookup slot.toNat k.slots else none

/-- LEND (R119, R252); accepted, its result is 0 (DESIGN CHOICE, log 128). -/
def State.lend (s : State) : State :=
  match s.launch? (s.rd 8#5) with
  | none => s.served badHandle
  | some l => if l.part ≠ s.cpu.part then s.served denied else (s.callOff (s.rd 8#5) 2).served 0#64

/-- A context leaves the fault entry it waits at (R401). -/
def State.leaveFault (s : State) (c : CtxId) : State :=
  match (s.thread? c).map (fun (t : Thread) => t.wait) with
  | some (.fault d (some tok) ..) | some (.clove d (some tok) ..) => s.countFaults d [tok] (· - 1)
  | _ => s

/-- A context leaves whatever it waits at. -/
def State.leaveAll (s : State) (c : CtxId) : State :=
  let old := s.cur
  ((((s.leaveFault c).leaveQueues c).focus c).abandonWait).focus old

/-- The issuing strand, flushed, leaves its waits and its slot for a placement, to resume at a PC (R121, R252). -/
def State.sendOff (s : State) (pl : Placed) (at_ pc : Word) : State :=
  let s := s.leaveAll s.cur
  let s := s.modCpu (fun t => { (if pc = at_ then t else t.clearPrefix) with pc })
  if pl.die = s.here then s.giveFlushed pl.bound else s.ship pl.die pl.bound none

/-- The PC of the trap of a slot's strand: the one held, or one that is queued (R244). -/
def Core.trapOf (k : Core) (slot : Nat) : Option Word :=
  match k.held.filter (fun h => h.1 == slot) with
  | some h => some h.2
  | none => (k.events.find? (fun e => e.cause < 0x3F && e.slot == slot)).map (·.pc)

/-- The slot of a strand. -/
def State.slotOf (s : State) (sid : Nat) : Nat := ((s.thread? (.strand sid)).map (·.slot)).getD 0

/-- The PC of a strand's trap; of a strand that has none, its own. -/
def State.trapPc (s : State) (core sid : Nat) : Word :=
  match s.thread? (.strand sid) with
  | none => 0#64
  | some t => ((s.core core).trapOf t.slot).getD t.pc

/-- SMOVE of a strand (R121, R252): its trap, held or still queued, is disposed of. A spill that
waits makes the service wait, and one that traps is the strand's own trap, which
takes the place of the one disposed of (R136). Accepted, its result is 0 (DESIGN CHOICE, log 128). -/
def State.smoveStrand (s : State) (sid : Nat) (pl : Placed) : State :=
  let core := s.cpu.core
  let sup := s.cur
  let pc := s.cpu.tpc
  let slot := s.slotOf sid
  let at_ := s.trapPc core sid
  let dispose (s : State) : State := s.modCore core (fun k => k.disposeTrap slot)
  let flush (s : State) : Spilled := if s.cpu.flushed then .ok s else s.flush
  if pl.bound = some core then (((dispose s).leaveAll (.strand sid)).resumeAt sid at_ pc).served 0#64
  else
    let s := s.focus (.strand sid)
    let before := s.cpu.wait
    match flush s with
    | .ok s => ((dispose (s.sendOff pl at_ pc)).focus sup).served 0#64
    | .stopped s1 =>
      match s1.cpu.wait with
      | .suspended => (match flush (dispose s) with | .ok s | .stopped s => (s.focus sup).served 0#64)
      | w => ((s1.modCpu (fun t => { t with wait := before })).focus sup).modCpu (fun t => { t with wait := w })

/-- SMOVE (R252): a placement word that R99 does not define is an illegal operand. -/
def State.smove (s : State) : State :=
  match s.slotStrand (s.rd 8#5) with
  | none => s.served badHandle
  | some sid =>
    match place (s.rd 9#5) s.cpu.core with
    | none => s.illegal
    | some pl =>
      match s.part? s.cpu.part with
      | none => s.served denied
      | some p => if p.allows pl then s.smoveStrand sid pl else s.served denied

/-- A register of a strand's current window (R252), whether it is in place or still to be delivered. -/
def Thread.peek (t : Thread) (n : Nat) : Word :=
  match t.deliver.reverse.find? (fun d => d.1 == n) with
  | some d => d.2
  | none => t.rd (BitVec.ofNat 5 n)

/-- Writes a register of a strand's current window. -/
def Thread.poke (t : Thread) (n : Nat) (v : Word) : Thread :=
  if t.flushed then { t with deliver := t.deliver ++ [(n, v)] } else t.put n v.toNat

/-- SREG (R252). The old value is answered in the form of R94, with bit 63 clear (DEDUCED, log 128). -/
def State.sreg (s : State) : State :=
  let n := (s.rd 9#5).toNat
  let v := s.rd 10#5
  let write := bitOf (s.rd 11#5) 0
  match s.slotStrand (s.rd 8#5) with
  | none => s.served badHandle
  | some sid =>
    if n = 0 || 31 < n then s.served badShape
    else
      match s.thread? (.strand sid) with
      | none => s.served badHandle
      | some t =>
        let s := s.modThread (.strand sid) (fun t => if write then t.commit.poke n v else t)
        s.served (word (field (t.commit.peek n) 62 0))

/-- SRET (R115, R252); accepted, its result is 0 (DESIGN CHOICE, log 128). -/
def State.sretService (s : State) : State :=
  match s.slotStrand (s.rd 8#5) with
  | none => s.served badHandle
  | some sid => ((s.leaveAll (.strand sid)).retire sid).served 0#64

/-- Strands parked on a die whose records lie there, oldest first (R255). -/
def State.parkedOn (s : State) (d : Nat) : List (Nat × Nat) :=
  (s.strands.filterMap (fun (sid, (t : Thread)) => match t.place with
    | .parked c x => if x = d && c != 0x09 then some (t.parkedAt, sid) else none
    | _ => none)).mergeSort (fun a b => decide (a.1 < b.1 ∨ (a.1 = b.1 ∧ a.2 ≤ b.2)))

/-- A record moves to the parking overflow area (R255): the strand's own, or its visitor record. A `WAITM` (CAUSE 0x03) goes on
waiting there. -/
def State.overflowRecord (s : State) (d sid : Nat) : State :=
  let s := s.modThread (.strand sid) (fun t =>
    { t with place := .parked 0x09 d, overflowed := sidDie sid == d, wait := if t.place == .parked 0x03 d then .message else .none })
  s.modDie d (fun x => { x with visitors := x.visitors.filter (fun v => v.1 != sid) })

/-- PSPILL (R252, R255); a number that names no die is an illegal operand (R11). -/
def State.pspill (s : State) : State :=
  let d := (s.rd 8#5).toNat
  let n := (s.rd 9#5).toNat
  if 24 ≤ d then s.illegal
  else if n = 0 || 65536 < n then s.served badShape
  else
    match s.part? s.cpu.part with
    | none => s.served denied
    | some p =>
      if !p.dies.contains d then s.served denied
      else
        let sids := ((s.parkedOn d).take n).map (·.2)
        (sids.foldl (fun s sid => s.overflowRecord d sid) s).served (word sids.length)

/-- SSTEP (R252, R267): outside a gang stop it is denied; while a step of the core is under way it is busy; accepted, its
result is 0 (DESIGN CHOICE, log 128). -/
def State.sstep (s : State) : State :=
  let core := s.cpu.core
  match s.slotStrand (s.rd 8#5) with
  | none => s.served badHandle
  | some sid =>
    if !s.gangStopped core then s.served denied
    else if (s.core core).stepping.isSome then s.served busy
    else (s.modCore core (fun k => { k with stepping := some ((s.rd 8#5).toNat, sid), stepped := false })).served 0#64

/-- FLOG (R252, R427); accepted, its result is 0 (DESIGN CHOICE, log 128). -/
def State.flog (s : State) : State :=
  match s.part? s.cpu.part with
  | none => s.served denied
  | some p =>
    if p.logFull then s.served busy
    else
      let w0 := word (0x05 + ((s.rd 8#5).toNat % 2 ^ 56) <<< 8)
      (s.faultLog p.num [w0, s.rd 9#5, s.rd 10#5, s.rd 11#5]).served 0#64

/-- The services of a supervisor context (R252); another number is a supervisor fault with the number in place of TVAL. -/
def State.service (s : State) (n : Nat) : State :=
  match n with
  | 0x8000 => s.lend
  | 0x8001 => s.smove
  | 0x8002 => s.sreg
  | 0x8003 => s.sretService
  | 0x8004 => s.pspill
  | 0x8005 => s.sstep
  | 0x8006 => s.flog
  | _ => s.trap 0x03 (word n)

/-- `SVC` (R252): a service in a supervisor context, the trap 0x30 elsewhere. -/
def State.svc (s : State) (n : Nat) : Res :=
  plain s (fun s => if s.isSup then s.service n else s.trapAt 0x30 s.following (word n))

/-- `SVC` (R252). -/
def execSvc (n : BitVec 16) (s : State) : Res := s.svc n.toNat
/-- LEND (R119, R252). -/
def execLend (s : State) : Res := s.svc 0x8000
/-- SMOVE (R252). -/
def execSmove (s : State) : Res := s.svc 0x8001
/-- SREG (R252). -/
def execSreg (s : State) : Res := s.svc 0x8002
/-- SRET (R252). -/
def execSret (s : State) : Res := s.svc 0x8003
/-- PSPILL (R252, R255). -/
def execPspill (s : State) : Res := s.svc 0x8004
/-- SSTEP (R252, R267). -/
def execSstep (s : State) : Res := s.svc 0x8005
/-- FLOG (R252, R427). -/
def execFlog (s : State) : Res := s.svc 0x8006

/-! ### Gang stops (R264 to R266) -/

/-- The cores of a partition: its barrel cores by rising number, then its Utell cores; the order is the model's (DESIGN CHOICE, log 130). -/
def Part.cores (p : Part) : List Nat :=
  p.dies.flatMap p.coresOn ++ (p.dies.flatMap (fun d => (List.range 4).map (fun i => 6144 + 4 * d + i))).filter p.owns

/-- A core stops (R57, R243, R264): the results of its strands are in place and their accesses performed; it reports it at once, or when
the last answer of another module has come. -/
def State.stopCore (s : State) (gen core : Nat) : State :=
  let ids := (s.core core).slots.map (fun x => CtxId.strand x.2)
  let s := s.drain (fun p => ids.contains p.ctx)
  let s := ids.foldl (fun s c => s.modThread c (fun t => t.commit.quiet)) s
  (s.modCore core (fun k => { k with stopping := some gen })).reportStop core

/-- `GSTOP` (R264). Its cores stop, and write their records, in the order of `Part.cores` (DESIGN CHOICE, log 130). -/
def execGstop (s : State) : Res :=
  needSup s fun s =>
    match s.part? s.cpu.part with
    | none => s.done
    | some p =>
      if p.stopped then s.done
      else
        let gen := p.gangGen + 1
        let s := s.modPart p.num (fun p => { p with stopped := true, gangGen := gen })
        (p.cores.foldl (fun s c => s.stopCore gen c) s).done

/-- The strands in slots of a partition's cores take the kills that reached them during the stop, where they wait at a kill point
(R263, R380). -/
def State.takeKills (s : State) (p : Part) : State :=
  ((s.strands.filter (fun (_, (t : Thread)) => p.owns t.core && t.place == .slot)).map (·.1)).foldl State.offerKill s

/-- `GRES` (R266): a step that has not ended is given up, and so is a report of the stop that is still due (DESIGN CHOICE, log 120). -/
def execGres (s : State) : Res :=
  needSup s fun s =>
    match s.part? s.cpu.part with
    | none => s.done
    | some p =>
      if !p.stopped then s.done else
      let s := s.modPart p.num (fun p => { p with stopped := false })
      ({ s with cores := s.cores.map (fun (n, (k : Core)) =>
          (n, if p.owns n then { k with stepping := none, stepped := false, stopping := none } else k)) }.takeKills p).done

/-! ### Time slices (R258 to R260) -/

/-- A slice ends (R258): the end is pending, and the supervisor is woken at once where no user slot is held. -/
def State.endSlice (s : State) (core : Nat) : State :=
  let s := s.modCore core (fun k => { k with sliceEnd := true, overrun := false })
  let k := s.core core
  if k.slots.isEmpty then s.queueEvent core { cause := 0x41, val := k.slb } else s

/-- Fills the empty user slots of a core, lowest first. -/
def State.fillSlots (s : State) (core : Nat) : State :=
  (List.range (if isUtell core then 1 else 14)).foldl (fun s i =>
    if (lookup i (s.core core).slots).isNone then s.refill core i else s) s

/-- Offers the empty user slots of a die's cores, lowest core first, to the entries that joined its pool while it took none (R103);
the order of the cores is a DESIGN CHOICE (log 133). -/
def State.fillDie (s : State) (d : Nat) : State :=
  if (s.die d).pool.isEmpty then s
  else ((List.range 256).map (256 * d + ·) ++ (List.range 4).map (6144 + 4 * d + ·)).foldl State.fillSlots s

/-- The slice balance a `SLICE` starts with (R260). -/
def sliceStart (l : Nat) (carried : Word) : Word := word l + (if carried.msb then carried else 0#64)

/-- `SLICE` (R260): a core is shared by the partition that holds it. -/
def execSlice (d a b : Reg) (s : State) : Res :=
  needSup s fun s =>
    let w := s.rd a
    let core := s.cpu.core
    let l := field w 31 0
    let tenant := field w 47 32
    if field w 63 48 ≠ 0 || (s.owner core).map (·.num) != some tenant then s.illegal
    else
      let slb := if l = 0 then 0#64 else sliceStart l (s.rd b)
      let old := (s.core core).slb
      let s := s.modCore core (fun k =>
        { k with slb, sliceLen := l, tenant, slicing := l != 0, sliceEnd := false, overrun := false })
      let s := (s.setPend d old).fillSlots core
      (if l != 0 && (slb.msb || slb = 0#64) then s.endSlice core else s).done

/-- `SLICE_EXPIRY` (R258): the balance has reached zero. -/
def execSliceExpiry (s : State) : Res :=
  match s.subject with
  | some (.sliceExpiry core) =>
    let k := s.core core
    if k.slicing && !k.sliceEnd && (k.slb.msb || k.slb = 0#64) && !s.gangStopped core then .next (s.endSlice core) else .next s
  | _ => .next s

/-- One bit for each user slot that is held. -/
def Core.heldSlots (k : Core) : Nat := (k.slots.map (fun x => 2 ^ x.1)).sum

/-- `SLICE_OVERRUN` (R258): the balance has reached −L while a slot is still held. -/
def execSliceOverrun (s : State) : Res :=
  match s.subject with
  | some (.sliceOverrun core) =>
    let k := s.core core
    if k.sliceEnd && !k.overrun && !k.slots.isEmpty && k.slb.toInt ≤ -(k.sliceLen : Int) && !s.gangStopped core then
      .next ((s.modCore core (fun k => { k with overrun := true })).queueEvent core { cause := 0x43, val := word k.heldSlots })
    else .next s
  | _ => .next s

end Sys2Proof.Machine
end

