-- ==== Sys2Proof/Machine/Paging.lean ====
section
/-! DEFINITION. The paging service: `FQPOP`, `FQREP`, `PGMAP` and `TLBI`; retries of postings; read-to-act pages; the write-back
scanner (R399 to R414). -/

namespace Sys2Proof.Machine

/-! ### Invalidation (R405 to R408) -/

/-- What an invalidation drops, within a partition (R406): guest entries of an ASID that map some byte of a range, hypervisor entries
that map some IPA of a range, everything of an ASID, or everything. -/
inductive Drop where
  | guest (asid lo n : Nat)
  | hyp (lo n : Nat)
  | asid (a : Nat)
  | all
  deriving DecidableEq, Repr

/-- Do two ranges overlap? -/
def overlap (a n b m : Nat) : Bool := a < b + m && b < a + n

/-- Is a composite dropped: its ASID, an address of its page, the guest page's size, and the hypervisor pages its walk used? -/
def Drop.hits (d : Drop) (asid va gsize : Nat) (ipas : List Nat) : Bool :=
  match d with
  | .guest a lo n => asid == a && overlap (va / gsize * gsize) gsize lo n
  | .hyp lo n => ipas.any (fun t => overlap (t - t % 4096) (2 ^ (t % 4096)) lo n)
  | .asid a => asid == a
  | .all => true

/-- Is a resident block's composite dropped? -/
def Block.hit (b : Block) (d : Drop) : Bool :=
  b.walks.zipIdx.any (fun (w, i) => d.hits b.key.asid (b.key.blk + 4096 * i) w.1 w.2)

/-- The range that a cached entry serves: its base and size. A root serves every address, and a leaf of a 64 KiB group its group. -/
def PteCache.range (e : PteCache) : Nat × Nat :=
  if e.lvl = 5 then (0, 2 ^ 57)
  else if e.entry.testBit 1 && e.entry.testBit 10 then (e.base / 65536 * 65536, 65536)
  else (e.base, levelSize e.lvl)

/-- Is a cached table entry dropped (R406): a guest entry by its addresses, a hypervisor entry by its IPAs, and a guest entry that a
dropped hypervisor entry led to? -/
def Drop.hitsPte (d : Drop) (e : PteCache) : Bool :=
  match d with
  | .guest a lo n => !e.hyp && e.asid == a && overlap e.range.1 e.range.2 lo n
  | .hyp lo n => if e.hyp then overlap e.range.1 e.range.2 lo n else e.ipas.any (fun t => overlap (t - t % 4096) (2 ^ (t % 4096)) lo n)
  | .asid a => !e.hyp && e.asid == a
  | .all => true

/-- May an invalidation concern a block that is being fetched: one of its address space? -/
def Drop.concerns (d : Drop) (asid : Nat) : Bool :=
  match d with
  | .guest a _ _ | .asid a => asid == a
  | .hyp _ _ | .all => true

/-- Drops cached composites and table entries of a partition on every die. -/
def State.dropCached (s : State) (part : Nat) (d : Drop) : State :=
  { s with
    tlb := s.tlb.filter (fun t => !(t.part == part && d.hits t.asid t.base t.comp.gsize t.ipas))
    ptes := s.ptes.filter (fun e => !(e.part == part && d.hitsPte e)) }

/-- Accesses that wait on a word and were translated by what is dropped are made again from the start (R408; DEDUCED, log 43). -/
def State.retryWords (s : State) (part : Nat) (d : Drop) : State :=
  s.waiters.foldl (fun s (n, w) =>
    if w.part == part && w.via.any (fun v => d.hits v.1 w.va.toNat v.2.1.gsize v.2.2) then (s.leaveTable n w).retryWait w.ctx else s) s

/-- The fetches in flight that an invalidation may concern complete first (R415). -/
def State.endFetches (s : State) (part : Nat) (d : Drop) : State :=
  let bs := s.dies.flatMap (fun (n, (x : Die)) =>
    (x.blocks.filter (fun b => b.key.part == part && b.frame == .fetching && d.concerns b.key.asid)).map (fun b => (n, b.key)))
  bs.foldl (fun s b => s.endFetch b.1 b.2) s

/-- An invalidation (R406): cached entries and composites are dropped, waits on words that used them are left, and each home die evicts the
resident walked blocks whose composite was dropped. -/
def State.invalidate (s : State) (part : Nat) (d : Drop) : State :=
  let s := s.endFetches part d
  let bs := s.dies.flatMap (fun (n, (x : Die)) => (x.blocks.filter (fun b => b.key.part == part && b.hit d)).map (fun b => (n, b.key)))
  bs.foldl (fun s b => s.forceEvict b.1 b.2) ((s.dropCached part d).retryWords part d)

/-- The operand word of an ASID (R391, R406). -/
def asidOk (w : Word) : Bool := w.toNat < 256

/-- `TLBI.g` (R406). -/
def execTlbiG (a b : Reg) (s : State) : Res :=
  needSup s fun s =>
    if !asidOk (s.rd b) then s.illegal
    else (s.invalidate s.cpu.part (.guest (s.rd b).toNat ((s.rd a).toNat / 4096 * 4096) 4096)).done

/-- Does the issuing context's partition hold the hypervisor grant (R425)? -/
def State.hypGrant (s : State) : Bool := match s.part? s.cpu.part with | some p => p.hyp | none => false

/-- `TLBI.h` (R406). -/
def execTlbiH (a : Reg) (s : State) : Res :=
  needSup s fun s =>
    if !s.hypGrant then s.trapHead 0x07
    else (s.invalidate s.cpu.part (.hyp ((s.rd a).toNat / 4096 * 4096) 4096)).done

/-- `TLBI.asid` (R406). -/
def execTlbiAsid (b : Reg) (s : State) : Res :=
  needSup s fun s => if !asidOk (s.rd b) then s.illegal else (s.invalidate s.cpu.part (.asid (s.rd b).toNat)).done

/-- `TLBI.all` (R406). -/
def execTlbiAll (s : State) : Res :=
  needSup s fun s => if !s.hypGrant then s.trapHead 0x07 else (s.invalidate s.cpu.part .all).done

/-! ### `FQPOP` (R403) -/

/-- What checking a doorbell finds (R403). -/
inductive BellCheck where
  | none
  | ok (va : Nat)
  | bad
  | misaligned

/-- Checks a doorbell: `reg` is the register's number. The translation is quiet, with kind write. -/
def State.checkBell (s : State) (reg : Reg) : BellCheck :=
  let va := s.rd reg
  if reg = 0#5 then .none
  else if va.toNat % 8 ≠ 0 then .misaligned
  else if field va 63 56 ≠ 0 then .bad
  else match s.quiet va with
    | some c => if c.w || !c.wr then .bad else .ok va.toNat
    | none => .bad

/-- The oldest entry of a queue that has not been popped. -/
def Die.oldestFault (x : Die) (hyp : Bool) (part : Nat) : Option FaultEntry :=
  x.faults.find? (fun e => e.hyp == hyp && !e.popped && (hyp || e.part == part))

/-- Writes four result registers (R403). -/
def State.fourDone (s : State) (d : Reg) (ws : List Word) : State :=
  (s.modCpu (fun t => t.answer ((List.range 4).map (fun i => (d.toNat + i, (ws.getD i 0#64).toNat))) false false)).done

/-- Arms a doorbell, in place of an earlier one (R403): the address in the space of the issuing context, translated when it is written. -/
def State.armBell (s : State) (d key va : Nat) : State :=
  s.modDie d (fun x => { x with bells := x.bells.filter (fun b => b.key != key || b.rung) ++ [{ key, part := s.cpu.part, asid := s.cpu.asid, va }] })

/-- Pops a queue (R403). It acquires the table writes of the agents that failed: all that the entry's partition has posted, on any die,
reaches its single copy (DESIGN CHOICE, log 14). -/
def State.popFault (s : State) (d : Reg) (die : Nat) (hyp : Bool) (bell : BellCheck) : State :=
  let part := s.cpu.part
  match (s.die die).oldestFault hyp part with
  | some e =>
    let s := s.drain (fun p => p.by_.part == e.part)
    let s := s.modDie die (fun x => { x with faults := x.faults.map (fun y => if y.token = e.token then { y with popped := true } else y) })
    s.fourDone d (e.words die)
  | none =>
    let s := match bell with
      | .ok va => if va = 0 then s else s.armBell die (bellKey die hyp part) va
      | _ => s
    s.fourDone d []

/-- `FQPOP` (R403). -/
def execFqpop (d a b : Reg) (s : State) : Res :=
  needSup s fun s =>
    let w := s.rd a
    let die := field w 4 0
    let hyp := bitOf w 8
    if field w 63 9 ≠ 0 || field w 7 5 ≠ 0 || 24 ≤ die || 28 < d.toNat then s.illegal
    else match s.checkBell b with
      | .misaligned => s.trap 0x10 (s.rd b)
      | .bad => s.fourDone d [badShape]
      | bell =>
        match s.part? s.cpu.part with
        | none => s.fourDone d [denied]
        | some p =>
          if !p.dies.contains die || (hyp && !p.hyp) then s.fourDone d [denied] else s.popFault d die hyp bell

/-! ### `FQREP` (R404) -/

/-- A hold that names an entry, replayed or given up. -/
def Hold.settled (h : Hold) (tok : Nat) (give : Bool) : Hold :=
  match h with
  | .fault (some t) va _ _ => if t = tok then (if give then .gaveUp va else .none) else h
  | _ => h

/-- The work of a die that waits at an entry goes on, or ends (R399). -/
def Die.settleWork (x : Die) (tok : Nat) (give : Bool) : Die :=
  { x with
    requests := x.requests.map (fun m => { m with hold := m.hold.settled tok give })
    tasks := x.tasks.map (fun t => { t with hold := t.hold.settled tok give })
    runs := x.runs.map (fun r => { r with active := r.active.map (fun u => { u with hold := u.hold.settled tok give }) })
    joins := x.joins.map (fun j => { j with hold := j.hold.settled tok give })
    late := x.late.map (fun l => { l with hold := l.hold.settled tok give })
    records := x.records.map (fun r => { r with hold := r.hold.settled tok give }) }

/-- The contexts that wait at an entry. -/
def State.waitersOf (s : State) (d tok : Nat) : List CtxId :=
  let at_ (t : Thread) : Bool := match t.wait with
    | .fault x (some k) .. | .clove x (some k) .. => x == d && k == tok
    | _ => false
  (s.strands.filter (fun (_, (t : Thread)) => at_ t)).map (fun x => CtxId.strand x.1)
    ++ ((s.cores.map (·.1)).filter (fun c => match s.thread? (.sup c) with | some t => at_ t | none => false)).map CtxId.sup

/-- A context takes a fault that was given up (R399): a strand at its next issue, a supervisor context at once. -/
def State.faultTrap (s : State) (c : CtxId) (cause : Nat) (va : Word) : State :=
  match c with
  | .sup core => s.supFault core cause (((s.thread? c).map (·.pc)).getD 0#64) va
  | .strand _ => s.modThread c (fun t => { t with wait := .none, trapDue := some (cause, va), begun := false })

/-- The wait of a context at an entry ends (R399, R419): a strand whose launch is being ended is retired. -/
def State.settleContext (s : State) (give : Bool) (c : CtxId) : State :=
  match s.thread? c with
  | none => s
  | some t =>
    match c, t.ending, t.wait with
    | .strand sid, true, _ => s.retire sid
    | _, _, .fault _ _ va k f =>
      if give then s.faultTrap c (if f.hyp then 0x12 else 0x11) va
      else s.modThread c (fun t => { t with wait := .none, again := k != .exec, refetch := k == .exec })
    | _, _, .clove _ _ _ _ _ d _ =>
      if give then (s.modThread c (fun t => { t with begun := false })).completeWait c [(d, noSpace)]
      else s.modThread c (fun t => { t with wait := .none, again := true })
    | _, _, _ => s

/-- A block whose page is given up (R280): every real waiter is released with the fault and no use. -/
def State.giveUpBlock (s : State) (d : Nat) (e : FaultEntry) (b : Block) : State :=
  let s := s.countFaults d (b.faults.filter (· != e.token)) (· - b.queue.length)
  let s := s.setBlock d { b with queue := [], faults := [], unposted := [], mark := none }
  let s := { s with outside := s.outside.map (fun o =>
    if b.queue.any (fun w => w.ctx == o.ctx) then { o with hold := .gaveUp e.va, cause := if e.hyp then 0x12 else 0x11 } else o) }
  b.queue.foldl (fun s w =>
    (s.modThread w.ctx (fun t => { t with trapDue := some (if e.hyp then 0x12 else 0x11, word e.va) })).releaseWaiter d w) s

/-- A block whose page is replayed (R280): eligible again once every page of it is. -/
def State.replayBlock (s : State) (d : Nat) (e : FaultEntry) (b : Block) : State :=
  let b := { b with faults := b.faults.filter (· != e.token) }
  let s := s.setBlock d b
  if b.faultPending then s else s.markParked b.queue 0x01

/-- The blocks of a die that wait at an entry. -/
def State.settleBlocks (s : State) (d : Nat) (e : FaultEntry) (give : Bool) : State :=
  let bs := (s.die d).blocks.filter (fun b => b.faults.contains e.token)
  (bs.foldl (fun s b => if give then s.giveUpBlock d e b else s.replayBlock d e b) s).sweepBlocks d

/-- Has the entry that work waited at been given up? -/
def Hold.gone : Hold → Bool
  | .gaveUp _ => true
  | _ => false

/-- Completion words whose entry was given up (R312); record writes whose entry was given up are not made (log 41). -/
def State.dropLate (s : State) (d : Nat) : State :=
  let ls := (s.die d).late.filter (fun l => l.hold.gone)
  let s := s.modDie d (fun x => { x with
    late := x.late.filter (fun l => !l.hold.gone), records := x.records.filter (fun r => !r.hold.gone) })
  ls.foldl (fun s l => s.notWritten d l) s

/-- An entry ends (R404): its waiters make their accesses again, or receive the failure. -/
def State.settleFault (s : State) (d : Nat) (e : FaultEntry) (give : Bool) : State :=
  let s := s.modDie d (fun x => { x with faults := x.faults.filter (fun y => y.token != e.token) })
  let s := s.modDie d (fun x => x.settleWork e.token give)
  let s := { s with outside := s.outside.map (fun (o : Outside) => if o.die = d then { o with hold := o.hold.settled e.token give } else o) }
  let s := (s.waitersOf d e.token).foldl (fun s c => s.settleContext give c) s
  ((s.settleBlocks d e give).dropLate d).retryLate d

/-- `FQREP` (R404). -/
def State.fqrep (s : State) (d a b : Reg) : State :=
  let w := s.rd a
  let die := field w 55 48
  if 1 < (s.rd b).toNat || field w 63 56 ≠ 0 || 24 ≤ die then s.illegal
  else match (s.die die).faults.find? (fun e => e.token == field w 31 0) with
    | none => s.answerDone d badHandle
    | some e =>
      if field w 47 32 ≠ s.cpu.part || e.part ≠ s.cpu.part || (e.hyp && !s.hypGrant) then s.answerDone d denied
      else ((s.release .part).settleFault die e (s.rd b = 1#64)).answerDone d (word e.wcnt)

/-- `FQREP` with g0: a replay (R404). -/
def execFqrepReplay (d a b : Reg) (s : State) : Res := needSup s (fun s => s.fqrep d a b)
/-- `FQREP` with another register: b decides between replay and giving up (R404). -/
def execFqrepGiveup (d a b : Reg) (s : State) : Res := needSup s (fun s => s.fqrep d a b)

/-! ### `PGMAP` (R405) -/

/-- Is a map request well formed (R405)? -/
def mapOk (ws : List Word) : Bool :=
  let addr := ws.getD 0 0#64
  let e := (ws.getD 1 0#64).toNat
  let w := ws.getD 2 0#64
  let lvl := field w 23 16
  let hyp := bitOf w 24
  lvl ≤ 4 && field w 31 26 == 0 && field w 63 32 == 0 && (if hyp then field w 15 0 == 0 && 1 ≤ lvl else field w 15 0 < 256)
    && (bitOf w 25 || ws.getD 3 0#64 == 0#64) && addr.toNat % levelSize lvl == 0
    && (if hyp then addr.toNat < 2 ^ 44 else addr.toNat < 2 ^ 56) && !(e.testBit 0 && malformed hyp lvl e)

/-- Where the entry of a request lies, with the hypervisor leaf of a guest table, or the refusal of `WalkTo` (R405). -/
def mapWalk (s : State) (p : Part) (hyp : Bool) (addr lvl : Nat) : Nat → Nat → Nat → Except Word (Nat × Option Nat)
  | 0, _, _ => .error noSpace
  | fuel + 1, table, at_ =>
    match (if hyp then (if dataPa table then .ok table 0 else .fail 2) else s.tablePa none p table) with
    | .fail _ | .conflict => .error (if hyp then noSpace else badHandle)
    | .ok pa tleaf =>
      let entryAt := pa + 8 * (addr / levelSize at_ % 512)
      if at_ = lvl then .ok (entryAt, if hyp then none else some tleaf)
      else
        let e := s.hbmWord entryAt
        if !e.testBit 0 || malformed hyp at_ e || e.testBit 1 then .error noSpace
        else mapWalk s p hyp addr lvl fuel (pteAddr e) (at_ + 1)

/-- `WalkTo` from the root of its stage. -/
def State.mapEntry (s : State) (p : Part) (hyp : Bool) (asid addr lvl : Nat) : Except Word (Nat × Option Nat) :=
  if hyp then mapWalk s p true addr lvl 4 p.hroot 1
  else match s.tablePa none p (p.groots + 8 * asid) with
    | .fail _ | .conflict => .error badHandle
    | .ok at_ _ =>
      let root := s.hbmWord at_
      if root = 0 then .error noSpace else mapWalk s p false addr lvl 5 root 0

/-- Writes the entry of a request (R405); one of a guest table through the hypervisor leaf that maps it, whose D is set (R392). The old entry
is answered with bit 63 clear (R94, R405; DEDUCED, log 128). -/
def State.mapWrite (s : State) (p : Part) (d : Reg) (ws : List Word) (at_ : Nat) (tleaf : Option Nat) : State :=
  let addr := (ws.getD 0 0#64).toNat
  let e := ws.getD 1 0#64
  let w := ws.getD 2 0#64
  let s := s.release .part
  let old := word (s.hbmWord at_)
  if bitOf w 25 && old != ws.getD 3 0#64 then s.answerDone d busy
  else
    let s := (tleaf.elim s s.setD).writeAt s.here (.direct at_) e.toNat 8
    let n := levelSize (field w 23 16)
    let s := if bitOf old 0 && old != e then
        s.invalidate p.num (if bitOf w 24 then .hyp addr n else .guest (field w 15 0) addr n) else s
    s.answerDone d (word (field old 62 0))

/-- Pgmap (R405). -/
def State.pgmap (s : State) (d a : Reg) : State :=
  let va := s.rd a
  if va.toNat % 32 ≠ 0 then s.trap 0x10 va
  else
    match s.readRecord va 32 with
    | .stopped s => s
    | .walked => s.answerDone d badShape
    | .ok s ws =>
      let w := ws.getD 2 0#64
      if !mapOk ws then s.answerDone d badShape
      else
        match s.part? s.cpu.part with
        | none => s.answerDone d denied
        | some p =>
          if bitOf w 24 && !p.hyp then s.answerDone d denied
          else match s.mapEntry p (bitOf w 24) (field w 15 0) (ws.getD 0 0#64).toNat (field w 23 16) with
            | .error r => s.answerDone d r
            | .ok (at_, tleaf) => s.mapWrite p d ws at_ tleaf

/-- `PGMAP` (R405). -/
def execPgmap (d a : Reg) (s : State) : Res := needSup s (fun s => s.pgmap d a)

/-! ### Retried postings (R402) -/

/-- A context that waits without an entry is posted, if an entry is free. -/
def State.repostContext (s : State) (d : Nat) (c : CtxId) : State :=
  match s.thread? c with
  | none => s
  | some t =>
    match t.wait with
    | .fault x none va k f =>
      if x ≠ d then s
      else
        let (s, tok) := s.postFault d t.part t.asid va.toNat k 0 1 f
        s.modThread c (fun t => { t with wait := .fault d tok va k f })
    | .clove x none va k f r asid =>
      if x ≠ d then s
      else
        let (s, tok) := s.postFault d t.part asid va k 5 1 f
        s.modThread c (fun t => { t with wait := .clove d tok va k f r asid })
    | _ => s

/-- A hold without an entry is posted, if an entry is free. -/
def State.repostHold (s : State) (d : Nat) (o : Origin) (src : Nat) (h : Hold) : State × Hold :=
  match h with
  | .fault none va k f =>
    let (s, tok) := s.postFault d o.part o.asid va k src 1 f
    (s, .fault tok va k f)
  | _ => (s, h)

/-- Posts the holds of a list of works of a die in turn, each with the kind of its work (R399). -/
def State.repostAll {α : Type} (s : State) (d : Nat) (src : α → Nat) (from_ : α → Origin) (hold : α → Hold) (set : Hold → α → α) :
    List α → State × List α
  | [] => (s, [])
  | x :: rest =>
    let (s, h) := s.repostHold d (from_ x) (src x) (hold x)
    let (s, xs) := s.repostAll d src from_ hold set rest
    (s, set h x :: xs)

/-- Posts the holds of a die's runs. -/
def State.repostRuns (s : State) (d : Nat) : List Run → State × List Run
  | [] => (s, [])
  | r :: rest =>
    let (s, us) := s.repostAll d (fun _ => 4) (fun _ => r.from_) SsmUnit.hold (fun h u => { u with hold := h }) r.active
    let (s, rs) := s.repostRuns d rest
    (s, { r with active := us } :: rs)

/-- Posts the holds of accesses from outside. -/
def State.repostOutside (s : State) (d : Nat) : List Outside → State × List Outside
  | [] => (s, [])
  | o :: rest =>
    let (s, h) := if o.die = d then
        s.repostHold d { core := 0, sid := 0, lid := 0#64, part := o.part, asid := o.asid } (if o.from_ = 0 then 6 else 7) o.hold
      else (s, o.hold)
    let (s, os) := s.repostOutside d rest
    (s, { o with hold := h } :: os)

/-- Every waiter of a die that has no entry is posted again (R402). -/
def State.repost (s : State) (d : Nat) : State :=
  let (s, os) := s.repostOutside d s.outside
  let s := { s with outside := os }
  let cs := s.strands.map (fun x => CtxId.strand x.1) ++ s.cores.map (fun x => CtxId.sup x.1)
  let s := cs.foldl (fun s c => s.repostContext d c) s
  let s := ((s.die d).blocks.filter (fun b => !b.unposted.isEmpty)).foldl (fun s b => s.postPages d b b.unposted) s
  let x := s.die d
  let (s, ms) := s.repostAll d (fun _ => 3) Move.from_ Move.hold (fun h m => { m with hold := h }) x.requests
  let (s, ts) := s.repostAll d (fun _ => 2) Task.from_ Task.hold (fun h t => { t with hold := h }) x.tasks
  let (s, rs) := s.repostRuns d x.runs
  let (s, js) := s.repostAll d (fun _ => 5) Join.from_ Join.hold (fun h j => { j with hold := h }) x.joins
  let (s, ls) := s.repostAll d LateWord.src LateWord.from_ LateWord.hold (fun h l => { l with hold := h }) x.late
  let (s, cs) := s.repostAll d (fun _ => 5) RecordWait.from_ RecordWait.hold (fun h r => { r with hold := h }) x.records
  s.modDie d (fun x => { x with requests := ms, tasks := ts, runs := rs, joins := js, late := ls, records := cs })

/-- `FAULT_POST_RETRY` (R402). -/
def execFaultPostRetry (s : State) : Res :=
  match s.subject with
  | some (.faultPostRetry d) => if 2048 ≤ (s.die d).faults.length then .next s else .next (s.repost d)
  | _ => .next s

/-! ### Read-to-act pages (R414) -/

/-- `RTA_ARM` (R414): a write to the token word of a page by a context. -/
def execRtaArm (s : State) : Res :=
  match s.subject with
  | some (.rtaArm c page v) =>
    let t := (s.thread? c).getD {}
    .next (s.rtaArm ⟨c, dieOf t.core, t.core, t.part⟩ page (word (page + 0xFF8)) v)
  | _ => .next s

/-- `RTA_ACT_READ` (R414): a read of a word of a page for a context. -/
def execRtaActRead (s : State) : Res :=
  match s.subject with
  | some (.rtaActRead c page off) =>
    let (s, v) := s.rtaRead c page off
    .next { s with replies := s.replies ++ [v] }
  | _ => .next s

/-- `RTA_ARM_EXPIRY` (R414): 10 µs after its arming a page is disarmed. -/
def execRtaArmExpiry (s : State) : Res :=
  match s.subject with
  | some (.rtaArmExpiry page) =>
    let (tok, arm) := s.rtaPage page
    (match arm with
     | some (_, t) => if t < s.now then .next (s.setRta page tok none) else .next s
     | none => .next s)
  | _ => .next s

/-! ### The write-back scanner (R409 to R411) -/

/-- The guest leaf of a page, by the partition's tables: where it lies and by which hypervisor leaf, the entry and its level. -/
def State.guestLeaf (s : State) (p : Part) (asid va : Nat) : Option ((Nat × Nat) × Nat × Nat) :=
  match s.tablePa none p (p.groots + 8 * asid) with
  | .ok rootAt _ =>
    (match guestWalk s none p va 5 (s.hbmWord rootAt) 0 [] with
     | .ok at_ e lvl tleaf _ => if s.hbmWord rootAt = 0 then none else some ((at_, tleaf), e, lvl)
     | _ => none)
  | _ => none

/-- Dirty atoms of a block that lie in `n` bytes from `lo`. -/
def Block.dirtyIn (b : Block) (lo n : Nat) : List Nat := b.dirty.filter (fun a => overlap (b.key.blk + 32 * a) 32 lo n)

/-- Writes back, without evicting, the dirty atoms of a page's resident blocks (R409 step 4). -/
def State.backPage (s : State) (part asid lo n : Nat) : State :=
  let bs := s.dies.flatMap (fun (d, (x : Die)) => (x.blocks.filter (fun b => b.key.part == part && b.key.asid == asid
    && b.frame == .resident && overlap b.key.blk 32768 lo n)).map (fun b => (d, b)))
  bs.foldl (fun s (d, b) =>
    (s.backAtoms { b with dirty := b.dirtyIn lo n }).setBlock d { b with dirty := b.dirty.filter (fun a => !(b.dirtyIn lo n).contains a) }) s

/-- Is the write-back ring full (R409, R427)? -/
def Part.ringFull (p : Part) : Bool := (p.wbTail + 16) % (ringOf p.wbr).2 == p.wbHead

/-- Appends a scanned leaf to the ring, if there is room (R392, R409 step 5). -/
def State.ringAppend (s : State) (p : Part) (asid va lvl : Nat) (leaf : Nat × Nat) : Option State :=
  let (base, size) := ringOf p.wbr
  if p.ringFull then none
  else match s.tablePa none p (base + p.wbTail) with
    | .ok pa rleaf =>
      let tag := s.nextTag
      let w1 := asid + lvl <<< 16 + tag <<< 32
      let s := (s.setD rleaf).engineWrite { die := p.dies.head?, part := p.num } (.direct pa) (va + w1 <<< 64) 16
      some { s.modPart p.num (fun q => { q with wbTail := (q.wbTail + 16) % size }) with
        nextTag := (tag + 1) % 2 ^ 32, wbTags := s.wbTags ++ [(p.num, tag, leaf)] }
    | _ => none

/-- The scanner's last step for a leaf, which waits while the ring is full. -/
def State.scanEnd (s : State) (p : Part) (asid va lvl : Nat) (leaf : Nat × Nat) : State :=
  match s.ringAppend p asid va lvl leaf with
  | some s => { s with scanWait := s.scanWait.filter (· != (p.num, asid, va, lvl, leaf)) }
  | none => s

/-- The scan of a leaf (R409): V, F and D are set and WB is clear. -/
def State.scanLeaf (s : State) (p : Part) (asid va lvl : Nat) (leaf : Nat × Nat) (e : Nat) : State :=
  let n := levelSize lvl
  let lo := va / n * n
  let s := s.writeLeaf leaf.2 leaf.1 (e + 2048)
  let s := ((s.dropCached p.num (.guest asid lo n)).retryWords p.num (.guest asid lo n)).drain (fun _ => true)
  let s := s.backPage p.num asid lo n
  { s with scanWait := s.scanWait ++ [(p.num, asid, lo, lvl, leaf)] }.scanEnd p asid lo lvl leaf

/-- `WRITE_BACK_SCAN` (R409): the scanner visits a leaf; while one waits for room in the ring, it goes on with that one alone. -/
def execWriteBackScan (s : State) : Res :=
  match s.subject with
  | some (.writeBackScan part asid va) =>
    (match s.part? part with
     | none => .next s
     | some p =>
       match s.scanWait.find? (fun w => w.1 == part) with
       | some (_, a, v, lvl, leaf) => .next (if a = asid && v = va then s.scanEnd p asid va lvl leaf else s)
       | none =>
         match s.guestLeaf p asid va with
         | none => .next s
         | some (leaf, e, lvl) =>
           if p.wbr = 0 || !e.testBit 7 || !e.testBit 6 || e.testBit 11 then .next s
           else .next (s.scanLeaf p asid va lvl leaf e))
  | _ => .next s

/-- `FLASH_WRITE_COMPLETE` (R410, R411): the port clears D and WB, or WB only on an error; writes that wait are performed then. -/
def execFlashWriteComplete (s : State) : Res :=
  match s.subject with
  | some (.flashWriteComplete tag ok) =>
    (match s.wbTags.find? (fun t => t.2.1 == tag) with
     | none => .next s
     | some (_, _, leaf) =>
       let e := s.hbmWord leaf.1
       let e := if e.testBit 11 then e - 2048 else e
       let e := if ok && e.testBit 6 then e - 64 else e
       let s := { s with wbTags := s.wbTags.filter (fun t => t.2.1 != tag) }.writeLeaf leaf.2 leaf.1 e
       .next ((s.dies.map (·.1)).foldl State.retryLate s))
  | _ => .next s

end Sys2Proof.Machine
end

