-- ==== Sys2Proof/Machine/Partitions.lean ====
section
/-! DEFINITION. Partitions: the buddy tree and `PRTN`, partition records, dissolution, control regions, core resets, and the registers
of the module service space (R269, R270, R421 to R429, R436, R437). -/

namespace Sys2Proof.Machine

/-! ### The buddy tree (R421, R422, R429) -/

/-- The entry of a node that is split, held or whole. -/
def State.node? (s : State) (die lvl idx : Nat) : Option Node :=
  s.nodes.find? (fun n => n.die == die && n.level == lvl && n.idx == idx)

/-- Is every node above a node split, so that the node stands in the tree? -/
def State.stands (s : State) (die : Nat) : Nat → Nat → Bool
  | 0, _ => true
  | lvl + 1, idx => s.stands die lvl (idx / 2) && (s.node? die lvl (idx / 2)).any (fun n => n.state == 1)

/-- The state of a node, or of the node that covers it: 0 free, 1 split, 2 held, 3 whole, and the partition. -/
def State.nodeState (s : State) (die : Nat) : Nat → Nat → Nat × Nat
  | 0, _ => match s.node? die 0 0 with
    | some n => (n.state, n.part)
    | none => (0, 0)
  | lvl + 1, idx =>
    if s.stands die (lvl + 1) idx then
      match s.node? die (lvl + 1) idx with
      | some n => (n.state, n.part)
      | none => (0, 0)
    else s.nodeState die lvl (idx / 2)

/-- Is a node free (R422)? -/
def State.nodeFree (s : State) (die lvl idx : Nat) : Bool := s.stands die lvl idx && (s.node? die lvl idx).isNone

/-- Removes a node's entry: it is free. -/
def State.freeNode (s : State) (die lvl idx : Nat) : State :=
  { s with nodes := s.nodes.filter (fun n => !(n.die == die && n.level == lvl && n.idx == idx)) }

/-- Gives a node a state that is not free. -/
def State.setNode (s : State) (n : Node) : State := { s.freeNode n.die n.level n.idx with nodes := (s.freeNode n.die n.level n.idx).nodes ++ [n] }

/-- The fields of a node word. -/
def nodeDie (w : Word) : Nat := field w 4 0
/-- LEVEL of a node word. -/
def nodeLevel (w : Word) : Nat := field w 7 5
/-- IDX of a node word. -/
def nodeIdx (w : Word) : Nat := field w 11 8

/-- The operand checks of `PRTN` (R429), then `go` with die, level and index. -/
def State.prtn (s : State) (d a : Reg) (go : Nat → Nat → Nat → State) : State :=
  let w := s.rd a
  if field w 63 12 ≠ 0 then s.illegal
  else if 24 ≤ nodeDie w then s.trap 0x03 w
  else if 4 < nodeLevel w || 2 ^ nodeLevel w ≤ nodeIdx w then s.answerDone d badShape
  else go (nodeDie w) (nodeLevel w) (nodeIdx w)

/-- `PRTN.qry` (R429). -/
def execPrtnQry (d a : Reg) (s : State) : Res :=
  needSup s fun s => s.prtn d a fun die lvl idx =>
    let (st, p) := s.nodeState die lvl idx
    s.answerDone d (word (st + (if 2 ≤ st then p <<< 16 else 0)))

/-- `PRTN.split` (R429). -/
def execPrtnSplit (d a : Reg) (s : State) : Res :=
  needSup s fun s => s.prtn d a fun die lvl idx =>
    if !s.hypGrant then s.answerDone d denied
    else if lvl = 4 then s.answerDone d badShape
    else if !s.nodeFree die lvl idx then s.answerDone d busy
    else (s.setNode ⟨die, lvl, idx, 1, 0⟩).answerDone d 0#64

/-- `PRTN.merge` (R429). -/
def execPrtnMerge (d a : Reg) (s : State) : Res :=
  needSup s fun s => s.prtn d a fun die lvl idx =>
    if !s.hypGrant then s.answerDone d denied
    else if !(s.stands die lvl idx && (s.node? die lvl idx).any (fun n => n.state == 1)) then s.answerDone d badShape
    else if !(s.nodeFree die (lvl + 1) (2 * idx) && s.nodeFree die (lvl + 1) (2 * idx + 1)) then s.answerDone d busy
    else (s.freeNode die lvl idx).answerDone d 0#64

/-! ### Supervisor contexts start (R248) -/

/-- A supervisor context as it starts for a live partition. -/
def startSup (p : Part) (core : Nat) : Thread :=
  { regs := fileOf zero8 ([word p.num, word core, word (dieOf core)] ++ List.replicate 5 0#64) zero8 zero8
    pc := p.sentry, sts := 0x800#64, sid := 0xFFFFFF, core, slot := 15, part := p.num, asid := p.sasid, fresh := true }

/-- Starts the context of a core that is idle. -/
def State.startCore (s : State) (p : Part) (core : Nat) : State :=
  if (s.core core).supMode != .idle || (s.die (dieOf core)).down then s
  else (s.modCore core (fun k => { k with supMode := .running })).setThread (.sup core) (startSup p core)

/-- Returns the context of a core to idle. -/
def State.stopSup (s : State) (core : Nat) : State :=
  let s := s.mapDies (fun _ x => x.forget (.sup core))
  (s.modCore core (fun k => { k with supMode := .idle, held := none, events := [], stepping := none, stepped := false,
                                     stopping := none })).setThread (.sup core) (idleSup core)

/-! ### Partition records (R425) -/

/-- A byte field of a record: `n` bytes from offset `o`. -/
def recField (ws : List Word) (o n : Nat) : Nat := (packNat 64 (ws.map BitVec.toNat) >>> (8 * o)) % 2 ^ (8 * n)

/-- The form of a ring register (R425). -/
def ringOk (r : Nat) : Bool := r % 16 ≤ 8 && r % 4096 / 16 == 0 && r < 2 ^ 44

/-- The partition a record describes. -/
def partOf (ws : List Word) : Part :=
  { num := recField ws 0 2, pric := recField ws 2 1, hyp := (recField ws 3 1).testBit 0, whole := (recField ws 3 1).testBit 1
    dies := if (recField ws 3 1).testBit 1 then (List.range 24).filter (recField ws 4 4).testBit else [recField ws 8 2 % 32]
    node := recField ws 8 2, zsz := recField ws 10 1, mquota := recField ws 11 1, squota := recField ws 12 4
    spbase := word (recField ws 16 8), hroot := recField ws 24 8, groots := recField ws 32 8, flogr := recField ws 40 8
    wbr := recField ws 48 8, tquota := recField ws 56 2, jquota := recField ws 58 2, pquota := recField ws 60 2
    trign := recField ws 62 2, sasid := recField ws 64 2, sentry := word (recField ws 72 8) }

/-- The rules of R425 on each field of a record for partition number `p`. -/
def recordShape (ws : List Word) (p : Nat) : Bool :=
  let q := partOf ws
  q.num == p && 1 ≤ p && p ≤ 1023 && q.pric ≤ 3 && recField ws 3 1 < 4 && q.zsz ≤ 6 && q.mquota ≤ 16
    && (if q.whole then recField ws 4 4 < 2 ^ 24 && recField ws 4 4 != 0 && q.node == 0
        else recField ws 4 4 == 0 && q.node < 2 ^ 12 && q.node % 32 < 24 && q.node / 32 % 8 ≤ 4
          && q.node / 256 < 2 ^ (q.node / 32 % 8))
    && 1 ≤ q.squota && q.squota ≤ 12582912 && q.hroot % 4096 == 0 && ringOk q.flogr && ringOk q.wbr
    && 1 ≤ q.tquota && q.tquota ≤ 4096 && q.jquota ≤ 1024 && q.pquota ≤ 4608 && q.trign ≤ 4096 && q.sasid ≤ 255
    && recField ws 66 6 == 0 && recField ws 80 48 == 0
    && field q.sentry 63 57 == 0 && 1 ≤ field q.sentry 5 0 && field q.sentry 5 0 ≤ 31

/-- Are the nodes of a record free (R422, R425)? -/
def State.nodesFree (s : State) (q : Part) : Bool :=
  if q.whole then q.dies.all (fun d => s.nodeFree d 0 0) else s.nodeFree (q.node % 32) (q.node / 32 % 8) (q.node / 256)

/-- Partitions that hold cores of a die. -/
def State.partsOn (s : State) (d : Nat) : List Part := s.parts.filter (fun p => p.dies.contains d)

/-- Do the sums of a die allow the record (R425)? -/
def State.sumsAllow (s : State) (q : Part) (d : Nat) : Bool :=
  let ps := q :: s.partsOn d
  (ps.map (·.mquota)).sum ≤ 16 && (ps.map (·.pquota)).sum ≤ 4608 && (ps.map (·.trign)).sum ≤ 4096 && (ps.map (·.jquota)).sum ≤ 1024

/-- The first trigger counter from which `n` counters of a die are free, lowest first (R425). -/
def State.trigRange (s : State) (d n : Nat) : Option Nat :=
  let used := (s.partsOn d).filterMap (fun p => (lookup d p.trigBase).map (fun b => (b, p.trign)))
  (0 :: used.map (fun u => u.1 + u.2)).mergeSort.find? (fun b => b + n ≤ 4096 && used.all (fun u => !overlap b n u.1 u.2))

/-- The trigger ranges of a record on each of its dies. -/
def State.trigRanges (s : State) (q : Part) : List Nat → Option (List (Nat × Nat))
  | [] => some []
  | d :: ds =>
    match s.trigRange d q.trign, s.trigRanges q ds with
    | some b, some l => some ((d, b) :: l)
    | _, _ => none

/-- Gives a partition its nodes. -/
def State.takeNodes (s : State) (q : Part) : State :=
  if q.whole then q.dies.foldl (fun s d => s.setNode ⟨d, 0, 0, 3, q.num⟩) s
  else s.setNode ⟨q.node % 32, q.node / 32 % 8, q.node / 256, 2, q.num⟩

/-- The module memory initialisation (R208, R218): the masks take effect and HBM is cleared. -/
def State.initMemory (s : State) : State :=
  { s.drain (fun p => match p.at_ with | .direct _ => true | _ => false) with
    hbm := {}, ahashForce := s.ahash, memInited := true, clearing := [] }

/-- The record is checked in full; a partition whose record is accepted is live, and its supervisor contexts start (R248, R425). A memory
initialisation that has not come by then comes first, since no program runs before it (R218; DEDUCED, log 89). -/
def State.commitRecord (s : State) (p : Nat) (ws : List Word) : State :=
  let q := partOf ws
  let refuse := s.mgmt 0x425 (word p) (ws.headD 0#64)
  if !recordShape ws p || (s.part? p).isSome || !s.nodesFree q || !q.dies.all (s.sumsAllow q) then refuse
  else
    match s.trigRanges q q.dies with
    | none => refuse
    | some l =>
      let q := { q with trigBase := l }
      let s := if s.memInited then s else s.initMemory
      let s := { s.takeNodes q with parts := s.parts ++ [q] }
      q.cores.foldl (fun s c => s.startCore q c) s

/-- Words 0 to 14 of a record that were written (R437), and word 15. -/
def State.recordWords (s : State) (p : Nat) (w15 : Word) : List Word :=
  (List.range 15).map (fun i => (lookup (16 * p + i) s.prec).getD 0#64) ++ [w15]

/-- `PARTITION_RECORD_COMMIT` (R425, R437): the write of word 15. -/
def execPartitionRecordCommit (s : State) : Res :=
  match s.subject with
  | some (.partitionRecordCommit p w15) =>
    .next ({ s with prec := insert (16 * p + 15) w15 s.prec }.commitRecord p (s.recordWords p w15))
  | _ => .next s

/-! ### Dissolution (R426) -/

/-- The data pages that a hypervisor-stage table maps: base and size. -/
def hypLeaves (s : State) (table n : Nat) : Nat → Nat → List (Nat × Nat)
  | 0, _ => []
  | fuel + 1, lvl =>
    if !dataPa table then []
    else (List.range n).flatMap (fun i =>
      let e := s.hbmWord (table + 8 * i)
      if !e.testBit 0 || malformed true lvl e then []
      else if e.testBit 1 then (if dataPa (pteAddr e) then [(pteAddr e, levelSize lvl)] else [])
      else hypLeaves s (pteAddr e) 512 fuel (lvl + 1))

/-- The memory of a partition: the data pages its hypervisor stage maps. -/
def State.memoryOf (s : State) (p : Part) : List (Nat × Nat) := hypLeaves s p.hroot 32 4 1

/-- Clears a range of a bank: zero, full and without poison (R208). -/
def Bank.clear (m : Bank) (a n : Nat) : Bank :=
  { cells := m.cells.filter (fun c => !(a ≤ c.1 && c.1 < a + n))
    empty := m.empty.filter (fun w => !(a / 8 ≤ w && w < (a + n + 7) / 8))
    poison := m.poison.filter (fun w => !(a / 8 ≤ w && w < (a + n + 7) / 8)) }

/-- Memory is handed on (R412): every read returns zero and full until it is written, and frames that hold it are given up without
being written back. The atoms still to be cleared in the background are noted. -/
def State.handOn (s : State) (a n : Nat) : State :=
  let bs := s.dies.flatMap (fun (d, (x : Die)) =>
    (x.blocks.filter (fun b => b.outs.any (fun o => overlap o 4096 a n))).map (fun b => (d, b)))
  let s := s.drain (fun p => p.at_.overlaps p.size (.direct a) n)
  let s := bs.foldl (fun s (d, b) => (s.drain (fun p => p.at_.overlaps p.size (.frame d b.key 0) 32768)).freeFrame d { b with dirty := [] }) s
  { s with hbm := s.hbm.clear a n, clearing := s.clearing ++ [(a / 32, n / 32)] }

/-- Is a partition idle (R426)? Work whose completion word is not written yet, or whose completion message has reached no inbox, is not
complete (R312). -/
def State.partIdle (s : State) (p : Nat) : Bool :=
  !s.strands.any (fun (_, (t : Thread)) => t.part == p) && !s.undelivered.any (fun m => 2 ≤ m.kind && m.part == p) &&
    s.dies.all (fun (_, (x : Die)) => !x.launches.any (fun l => l.part == p) && !x.tasks.any (fun t => t.part == p)
      && !x.runs.any (fun r => r.part == p) && !x.requests.any (fun m => m.from_.part == p)
      && !x.joins.any (fun j => j.from_.part == p) && !x.late.any (fun l => l.from_.part == p) && !x.standing.any (fun r => r.1 == p)
      && !x.engines.any (fun (_, (e : Engine)) => e.part == some p || e.work.any (fun m => m.from_.part == p)))

/-- What a die forgets of a partition that is dissolved. -/
def Die.dissolve (x : Die) (p : Nat) (quads : List Nat) : Die :=
  { x with
    journal := x.journal.filter (fun j => !(j.1 == 5 && (x.armed.any (fun a => a.move.from_.part == p && j.2 == moveName a.move.from_.core a.move.seq))))
    armed := x.armed.filter (fun a => a.move.from_.part != p)
    blocks := (x.blocks.map (fun b => if b.key.part = p then { b with pins := 0, queue := [], mark := none, faults := [], unposted := [] } else b)).filter
      (fun b => !b.void)
    bars := x.bars.filter (fun b => b.part != p)
    bells := x.bells.filter (fun b => b.part != p)
    chains := x.chains.filter (fun c => c.part != p)
    runChains := x.runChains.filter (fun c => c.part != p)
    late := x.late.filter (fun l => l.from_.part != p)
    records := x.records.filter (fun r => r.from_.part != p)
    closing := x.closing.filter (fun j => j.from_.part != p)
    tiles := x.tiles.filter (fun t => !quads.contains (t.1 / 16)) }

/-- The quads a partition holds on a die. -/
def Part.quadsOn (p : Part) (d : Nat) : List Nat := ((p.coresOn d).map (fun c => c % 256 / 4)).eraseDups

/-- A partition is dissolved (R426). -/
def State.dissolve (s : State) (q : Part) : State :=
  let mem := s.memoryOf q
  let es := s.dies.flatMap (fun (d, (x : Die)) => (x.faults.filter (fun e => e.part == q.num)).map (fun e => (d, e)))
  let s := es.foldl (fun s (d, e) => s.settleFault d e true) s
  let s := q.cores.foldl State.stopSup s
  let s := s.mapDies (fun d x => x.dissolve q.num (q.quadsOn d))
  let s := mem.foldl (fun s m => s.handOn m.1 m.2) s
  let s := if q.whole then q.dies.foldl (fun s d => s.freeNode d 0 0) s
    else s.freeNode (q.node % 32) (q.node / 32 % 8) (q.node / 256)
  { s with
    parts := s.parts.filter (fun p => p.num != q.num)
    tlb := s.tlb.filter (fun t => t.part != q.num)
    ptes := s.ptes.filter (fun e => e.part != q.num)
    outside := s.outside.filter (fun o => o.part != q.num)
    wbTags := s.wbTags.filter (fun t => t.1 != q.num)
    scanWait := s.scanWait.filter (fun t => t.1 != q.num) }

/-- A write to PCTL (R426, R437): zero asks for the dissolution, which is refused and logged while the partition is not idle. -/
def State.askDissolve (s : State) (p : Nat) (v : Word) : State :=
  match s.part? p with
  | none => s.mgmt 0x426 (word p) v
  | some q => if v ≠ 0#64 || !s.partIdle p then s.mgmt 0x426 (word p) v else s.dissolve q

/-- `PARTITION_DISSOLVE` (R426, R437). -/
def execPartitionDissolve (s : State) : Res :=
  match s.subject with
  | some (.partitionDissolve p v) => .next (s.askDissolve p v)
  | _ => .next s

/-! ### Control regions (R269, R270, R283, R427) -/

/-- A change of home: the parked waiters of a queue are recorded on the new home die (R270). The posted writes of the die they leave, which
they may have read, come first (R230, R232). Each moves as a tiny context (R116) and takes a visitor record there, free or not (DESIGN CHOICE, log 83). -/
def State.rehome (s : State) (d' : Nat) (ws : List Waiter) : State :=
  ws.foldl (fun s w =>
    match w.kind, w.ctx, s.thread? w.ctx with
    | .parked, .strand sid, some t =>
      (match t.place with
       | .parked c d =>
         let s := ((s.drain (fun p => p.die == d)).crosses t d').mapDies (fun _ x => { x with visitors := x.visitors.filter (fun v => v.1 != sid) })
         ((s.modThread w.ctx (fun t => { t with place := .parked c d', visitor := none })).takeVisitor d' sid t.part)
       | _ => s)
    | _, _, _ => s) s

/-- Moves a queue with its pending faults to another die (R270): the waiters leave the old entries and are posted in the new die's
queue, as far as entries are free there (R402). -/
def State.forwardQueue (s : State) (d d' : Nat) (b : Block) : State :=
  let es := (s.die d).faults.filter (fun e => b.faults.contains e.token)
  let s := s.countFaults d b.faults (· - b.queue.length)
  let s := s.modDie d (fun x => { x with blocks := x.blocks.filter (fun c => c.key != b.key) })
  let old := (s.block? d' b.key).getD { key := b.key }
  let s := s.setBlock d' { old with queue := b.queue.foldl (fun q w => insertWaiter w q) old.queue, mark := b.mark }
  let s := s.postPages d' { b with frame := .absent } (es.map (fun e => (e.va, ⟨e.hyp, e.reason, e.ipa⟩)) ++ b.unposted)
  (s.rehome d' b.queue).sweepBlocks d'

/-- Changes one home-map entry (R270): resident blocks are evicted, their pins returned, and queues forwarded. -/
def State.changeHome (s : State) (p : Nat) (i d' : Nat) : State :=
  match s.part? p with
  | none => s
  | some q =>
    let d := (lookup i q.hmap).getD (q.dies.headD 0)
    if d = d' then s
    else
      let mine (s : State) : List Block := (s.die d).blocks.filter (fun b => b.key.part == p && homeIndex b.key.blk == i)
      let s := (mine s).foldl (fun s b => s.setBlock d { b with pins := 0 }) s
      let s := (mine s).foldl (fun s b => s.forceEvict d b.key) s
      let s := (mine s).foldl (fun s b => s.forwardQueue d d' { b with frame := .absent }) s
      s.modPart p (fun q => { q with hmap := insert i d' q.hmap })

/-- A store to HMAP (R269, R270, R427). -/
def State.storeHmap (s : State) (a : DevAgent) (p off size : Nat) (v : Word) : State :=
  match s.part? p with
  | none => s
  | some q =>
    let bs := (List.range 8).map (fun i => (v.toNat >>> (8 * i)) % 256)
    if size ≠ 8 || !bs.all q.dies.contains then s.logControl a p off v
    else bs.zipIdx.foldl (fun s (d, i) => s.changeHome p (off / 8 * 8 + i) d) s

/-- `HMAP_STORE` (R427). -/
def execHmapStore (s : State) : Res :=
  match s.subject with
  | some (.hmapStore a p off size v) => .next (s.storeHmap a p off size v)
  | _ => .next s

/-- A store to PINQ (R283, R427). -/
def State.storePinq (s : State) (a : DevAgent) (p off size : Nat) (v : Word) : State :=
  match s.part? p with
  | none => s
  | some q =>
    let d := (off - 0x1000) / 8
    if size ≠ 8 || !q.dies.contains d || q.pquota < v.toNat || v.toNat < s.pinned d p then s.logControl a p off v
    else s.modPart p (fun q => { q with pinq := insert d v.toNat q.pinq })

/-- `PINQ_STORE` (R427). -/
def execPinqStore (s : State) : Res :=
  match s.subject with
  | some (.pinqStore a p off size v) => .next (s.storePinq a p off size v)
  | _ => .next s

/-- A store to another register of a control region (R427): FLHEAD and WBHEAD are written, the others are read only. -/
def State.storeControl (s : State) (a : DevAgent) (p off size : Nat) (v : Word) : State :=
  if (s.part? p).isNone then s
  else if size ≠ 8 then s.logControl a p off v
  else if off = 0x1108 then s.modPart p (fun q => { q with flHead := v.toNat % (ringOf q.flogr).2 })
  else if off = 0x1208 then s.modPart p (fun q => { q with wbHead := v.toNat % (ringOf q.wbr).2 })
  else s

/-- `CONTROL_REGION_WRITE` (R427). -/
def execControlRegionWrite (s : State) : Res :=
  match s.subject with
  | some (.controlRegionWrite a p off size v) => .next (s.storeControl a p off size v)
  | _ => .next s

/-! ### Core resets (R436) -/

/-- Clears a core's local store (R208). -/
def State.clearLocal (s : State) (core : Nat) : State :=
  if isUtell core then s
  else { s.drain (fun p => p.at_.overlaps p.size (.loc core 0) (2 ^ 18)) with lstore := s.lstore.clear (core * 2 ^ 18) (2 ^ 18) }

/-- The tiles of a core's quad hold zero (R324). -/
def State.clearTiles (s : State) (core : Nat) : State :=
  if isUtell core then s
  else s.modDie (dieOf core) (fun (x : Die) => { x with acc := x.acc.clear (2 ^ 20 * (core % 256 / 4)) (2 ^ 20) })

/-- The strands in the slots of a core are retired, and their launches end with code 0x02. -/
def State.retireSlots (s : State) (core : Nat) : State :=
  let sids := (s.core core).slots.map (·.2)
  sids.foldl (fun s sid =>
    match s.thread? (.strand sid) with
    | none => s
    | some t => ((if t.lid = 0#64 then s else s.callOff t.lid 2).leaveAll (.strand sid)).retire sid) s

/-- Resets a core (R208, R247, R248, R324, R436): messages it held are lost and count as received. Its request numbers go on after the
highest that it has given (R304), and messages that wait in the network at it stay there (R298). -/
def State.resetCore (s : State) (core : Nat) : State :=
  let s := s.retireSlots core
  let k := s.core core
  let s := k.arrivals.foldl (fun s m => s.countReceived core m) s
  let s := ((s.stopSup core).clearLocal core).clearTiles core
  let s := s.setCore core { slots := k.slots, seq := k.seq, netWait := k.netWait }
  match s.owner core with
  | some p => (s.startCore p core).fillSlots core
  | none => s

/-- A write to a core's reset register (R437): 1 resets it. -/
def State.writeCrst (s : State) (core : Nat) (v : Word) : State :=
  if v = 1#64 && core < 6240 then s.resetCore core else s

/-- `CRST` (R436, R437). -/
def execCrst (s : State) : Res :=
  match s.subject with
  | some (.crst core v) => .next (s.writeCrst core v)
  | _ => .next s

/-! ### Registers of the service space (R276, R210, R217, R218, R436, R437) -/

/-- A write to MSR (R436). -/
def State.writeMsr (s : State) (v : Word) : State :=
  if field v 63 2 ≠ 0 then s.mgmt 0x436 0#64 v else { s with msr := v }

/-- `MSR_WRITE` (R436). -/
def execMsrWrite (s : State) : Res :=
  match s.subject with
  | some (.msrWrite v) => .next (s.writeMsr v)
  | _ => .next s

/-- The raw pseudo-channel field of a data address (R216): the channel in bits 5:1, the pseudo-channel in bit 0. -/
def rawChannel (pa : Nat) : Nat := pa / 2 ^ 7 % 2 ^ 6

/-- The place of a data address within its pseudo-channel (R216). -/
def placeInChannel (pa : Nat) : Nat := pa / 2 ^ 13 % 2 ^ 23

/-- The pseudo-channel field that is used (R217): bit j of the raw field with the parity of the bits that mask j picks. -/
def State.usedChannel (s : State) (pa : Nat) : Nat :=
  packNat 1 ((List.range 6).map (fun j =>
    ((rawChannel pa >>> j) + popcount (pa &&& (s.ahashForce.getD j 0#64).toNat) 64) % 2))

/-- A write to an address-hash mask (R217, R218): only between a module reset and the memory initialisation. -/
def State.writeAhash (s : State) (j : Nat) (v : Word) : State :=
  if 6 ≤ j || s.memInited || field v 63 36 ≠ 0 || field v 12 0 ≠ 0 then s.mgmt 0x218 (word j) v
  else { s with ahash := s.ahash.set j v }

/-- `AHASH_WRITE` (R217, R218). -/
def execAhashWrite (s : State) : Res :=
  match s.subject with
  | some (.ahashWrite j v) => .next (s.writeAhash j v)
  | _ => .next s

/-- A write to PEWCFG of a die (R276). -/
def State.writePewcfg (s : State) (d : Nat) (v : Word) : State :=
  let st := field v 51 32
  let q := field v 31 16
  let f := field v 7 0
  if 24 ≤ d || field v 63 52 ≠ 0 || field v 15 8 ≠ 0 || st < 1000 || 1000000 < st || q < 100 || f < 1 || 128 < f then
    s.mgmt 0x276 (word d) v
  else s.modDie d (fun x => { x with pewcfg := v })

/-- `PEWCFG_WRITE` (R276). -/
def execPewcfgWrite (s : State) : Res :=
  match s.subject with
  | some (.pewcfgWrite d v) => .next (s.writePewcfg d v)
  | _ => .next s

/-- A write to a stack's error counter (R210, R437): zero clears it. -/
def State.writeCounter (s : State) (stack i : Nat) (v : Word) : State :=
  if v = 0#64 then { s with stackErr := erase (4 * stack + i) s.stackErr } else s

/-- `STACK_COUNTER_CLEAR` (R437). -/
def execStackCounterClear (s : State) : Res :=
  match s.subject with
  | some (.stackCounterClear stack i v) => .next (s.writeCounter stack i v)
  | _ => .next s

/-- A write to the module service space (R437): of 8 bytes, to a register; anything else is discarded and logged. -/
def State.writeService (s : State) (off size : Nat) (v : Word) : State :=
  let discard := s.mgmt 0x437 (word off) v
  if size ≠ 8 || off % 8 ≠ 0 then discard
  else if off = 0 then s.writeMsr v
  else if 0x1000 ≤ off && off < 0x1030 then s.writeAhash ((off - 0x1000) / 8) v
  else if 0x10000 ≤ off && off < 0x12000 && off % 0x100 < 32 then s.writeCounter ((off - 0x10000) / 0x100) (off % 0x100 / 8) v
  else if 0x20000 ≤ off && off < 0x21800 && off % 0x100 = 0 then s.writePewcfg ((off - 0x20000) / 0x100) v
  else if 0x100000 ≤ off && off < 0x100000 + 8 * 6240 then s.writeCrst ((off - 0x100000) / 8) v
  else if 0x1000080 ≤ off && off < 0x1020000 then
    let i := (off - 0x1000000) / 8
    let s' := { s with prec := insert i v s.prec }
    if i % 16 = 15 then s'.commitRecord (i / 16) (s.recordWords (i / 16) v) else s'
  else if 0x2000008 ≤ off && off < 0x2002000 then s.askDissolve ((off - 0x2000000) / 8) v
  else discard

/-- Word `i` of a partition record as it reads: its reserved bits read as zero (R4, R425). -/
def recordReads (i : Nat) (w : Word) : Word :=
  match i with
  | 0 => setField w 31 26 0
  | 1 => setField w 15 12 0
  | 8 => word (field w 15 0)
  | n => if n < 10 then w else 0#64

/-- The value that a register of the service space reads as (R437): a reserved offset reads as zero. -/
def State.serviceWord (s : State) (off : Nat) : Word :=
  if off = 0 then s.msr
  else if 0x1000 ≤ off && off < 0x1030 then s.ahash.getD ((off - 0x1000) / 8) 0#64
  else if 0x10000 ≤ off && off < 0x12000 && off % 0x100 < 32 then
    (lookup (4 * ((off - 0x10000) / 0x100) + off % 0x100 / 8) s.stackErr).getD 0#64
  else if 0x20000 ≤ off && off < 0x21800 && off % 0x100 = 0 then (s.die ((off - 0x20000) / 0x100)).pewcfg
  else if 0x1000080 ≤ off && off < 0x1020000 then
    recordReads ((off - 0x1000000) / 8 % 16) ((lookup ((off - 0x1000000) / 8) s.prec).getD 0#64)
  else if 0x2000008 ≤ off && off < 0x2002000 then (if (s.part? ((off - 0x2000000) / 8)).isSome then 1#64 else 0#64)
  else 0#64

/-- A read of the module service space (R437): of 8 bytes; any other is discarded and logged. -/
def State.readService (s : State) (off size : Nat) : State :=
  if size ≠ 8 || off % 8 ≠ 0 then s.mgmt 0x437 (word off) 0#64 else { s with replies := s.replies ++ [s.serviceWord off] }

/-- `SERVICE_SPACE_WRITE` (R437): a write of the management controller, or a read. -/
def execServiceSpaceWrite (s : State) : Res :=
  match s.subject with
  | some (.serviceSpaceWrite off size v) => .next (s.writeService off size v)
  | some (.serviceSpaceRead off size) => .next (s.readService off size)
  | _ => .next s

end Sys2Proof.Machine
end

