-- ==== Sys2Proof/Machine/Outside.lean ====
section
/-! DEFINITION. Accesses from outside the module: other modules of the pod, the host ports and the storage port (R209, R224, R271,
R389, R433, R434). -/

namespace Sys2Proof.Machine

/-- What becomes of an access from outside: it is performed or turned away with a cause, and the value read; or it waits. -/
inductive Tried where
  | done (s : State) (cause : Nat) (v : Word)
  | wait (s : State) (o : Outside)

/-- What the access needs. -/
def Outside.kind (o : Outside) : Kind := if o.write.isSome then .write else .read

/-- The agent that reaches device registers for the access (R414, R427): one for each module or port; no core is concerned. -/
def Outside.dev (o : Outside) : DevAgent := ⟨.sup (6240 + 64 * o.from_ + o.tag), o.die, 0xFFFF, o.part⟩

/-- The access as a writer (R25): a strand of another module, or a host or the storage port. -/
def Outside.writer (o : Outside) : Writer := { part := o.part, outside := if o.from_ = 0 then 2 else 1 }

/-- A device register is read or written (R414, R427, R432): a control region's write is an event of its own, which comes next. -/
def State.outsideDevice (s : State) (o : Outside) (pa : Nat) (c : Comp) : State × Word :=
  match o.write with
  | some v => (s.devicePut o.dev pa o.size o.va c v.toNat, 0#64)
  | none =>
    let (s, v) := s.deviceGet o.dev pa o.size c
    (s, word v)

/-- The cause of a walk failure that is given up (R399). -/
def WalkFail.cause (f : WalkFail) : Nat := if f.hyp then 0x12 else 0x11

/-! ### Other modules (R224) -/

/-- Performs a located access of a strand of another module: as `LD` and `ST`, which change no full/empty bit (R209). -/
def State.remotePerform (s : State) (o : Outside) (l : Loc) (c : Comp) : Tried :=
  match o.write with
  | none =>
    if s.anyPoison l o.size then .done s 0x14 o.va else .done s 0 (word (s.readAt o.die l o.size))
  | some v =>
    if s.anyPoison l o.size then .done s 0x14 o.va
    else
      let s := (s.setDirty c).drain (fun p => p.at_.overlaps p.size l o.size)
      .done ((s.noteStore o.writer l v.toNat o.size).writeCopy l v.toNat o.size) 0 0#64

/-- An access whose block is absent adds one waiter to the block's queue (R224, R277). -/
def State.remoteQueue (s : State) (o : Outside) (d : Nat) (k : BlockKey) : State :=
  if ((s.block? d k).map (·.queue)).any (fun q => q.any (fun w => w.ctx == o.ctx)) then s
  else s.joinQueue d k ⟨o.ctx, s.now, .remote⟩

/-- Translates an access of another module at the partition's die and performs it. -/
def State.remoteTry (s : State) (o : Outside) (p : Part) : Tried :=
  match s.translate o.die p o.asid o.va.toNat o.kind with
  | .fail f =>
    let (s, tok) := s.postFault o.die p.num o.asid o.va.toNat o.kind 6 1 f
    .wait s { o with hold := .fault tok o.va.toNat o.kind f, cause := f.cause }
  | .conflict => .done (s.logConflict o.die 0xFFFF p.num o.asid o.va.toNat 6) 0x16 o.va
  | .writeBack _ => .wait s o
  | .ok c ipas =>
    let s := s.cacheComp o.die p.num o.asid o.va.toNat c ipas
    match s.foundBy p o.asid o.va c ipas with
    | .at_ l _ _ => s.remotePerform o l c
    | .absent k d _ => .wait (s.remoteQueue o d k) o
    | .device pa _ _ _ =>
      let (s, v) := s.outsideDevice o pa c
      .done s 0 v
    | _ => .wait s o

/-- An `LDX` or `STX` of another module is located under R221 and performed; it has no local store here (R203, R224). -/
def State.tryRemote (s : State) (o : Outside) : Tried :=
  match o.hold, addrTrap o.va o.size, s.part? o.part with
  | .gaveUp _, _, _ => .done s o.cause o.va
  | .fault .., _, _ => .wait s o
  | .none, some (.trap c v), _ => .done s c v
  | .none, _, none => .done s 0x13 o.va
  | .none, _, some p => if bitOf o.va 56 then .done s 0x13 o.va else s.remoteTry o p

/-! ### The host ports and the storage port (R209, R271, R433, R434) -/

/-- What a stop of the access means: it waits at a failure or for a write-back, or it is dropped. -/
def State.outsideStop (s : State) (o : Outside) (a : Agent) (f : Found) : Tried :=
  match s.engineStop a o.kind f with
  | (s, .wait h) => .wait s { o with hold := h }
  | (s, .end_ _ va) => .done s 0x13 va

/-- An access of a port, performed as an agent that is not a strand performs it. -/
def State.portTry (s : State) (o : Outside) : Tried :=
  let a : Agent := { die := o.die, part := o.part, asid := o.asid, src := 7, outside := 1 }
  match s.engineFind a o.va o.size o.kind, o.write with
  | .device pa va c ipas, _ =>
    let (s, v) := (s.engineTouch a (.device pa va c ipas)).outsideDevice o pa c
    .done s 0 v
  | _, none =>
    (match s.engineRead a o.va o.size with
     | .val s v => .done s 0 (word v)
     | .stop f => s.outsideStop o a f)
  | _, some v =>
    match s.engineWriteVa a o.va v.toNat o.size with
    | (s, none) => .done s 0 0#64
    | (s, some f) => s.outsideStop o a f

/-- An access of a port, tried now. -/
def State.tryPort (s : State) (o : Outside) : Tried :=
  match o.hold with
  | .gaveUp _ => .done s o.cause o.va
  | .fault .. => .wait s o
  | .none => s.portTry o

/-! ### Arrivals and retries -/

/-- The answer of a finished access: over the links, or the value of a port's read; a port's access that is turned away has none. -/
def State.answerOutside (s : State) (o : Outside) (cause : Nat) (v : Word) : State :=
  let s := { s with outside := s.outside.filter (fun x => x.id != o.id) }
  if o.from_ = 0 then { s with linkOut := s.linkOut ++ [[word o.tag, word cause, v]] }
  else if cause = 0 && o.write.isNone then { s with replies := s.replies ++ [v] }
  else s

/-- An access that has been tried gives up the use that its released wait left it (R279). -/
def State.dropOutside (s : State) (o : Outside) : State :=
  match o.use with
  | some k => s.noteIdle k
  | none => s

/-- Tries an access that has arrived. -/
def State.handleOutside (s : State) (o : Outside) : State :=
  if (s.die o.die).down then s
  else match (if o.from_ = 0 then s.tryRemote o else s.tryPort o) with
    | .done s cause v => (s.answerOutside o cause v).dropOutside o
    | .wait s o' =>
      { s with outside := s.outside.map (fun (x : Outside) => if x.id = o.id then { o' with use := none } else x) }.dropOutside o

/-- An access arrives. -/
def State.arriveOutside (s : State) (o : Outside) : State :=
  let o := { o with id := s.nextOutside }
  { s with outside := s.outside ++ [o], nextOutside := s.nextOutside + 1 }.handleOutside o

/-- An access that waits is tried again. -/
def State.retryOutside (s : State) (from_ id : Nat) : State :=
  match s.outside.find? (fun o => o.id == id && o.from_ == from_) with
  | none => s
  | some o => s.handleOutside o

/-- `REMOTE_ACCESS_ARRIVAL` (R224): it enters at the lowest die of its partition. -/
def execRemoteAccessArrival (s : State) : Res :=
  match s.subject with
  | some (.remoteAccessArrival src part asid va size write) =>
    .next (s.arriveOutside
      { id := 0, from_ := 0, tag := src, die := ((s.part? part).map (fun p => p.dies.headD 0)).getD 0, part, asid, va := word va, size, write })
  | some (.remoteAccessRetry id) => .next (s.retryOutside 0 id)
  | _ => .next s

/-- The partition and the ASID of a PASID at a host port (R430, R433): that of a queue port of the host port that maps it. -/
def State.pasidOf (s : State) (port pasid : Nat) : Option (Nat × Nat) :=
  s.qports.findSome? (fun (n, q) => if n / 64 = port then (lookup pasid q.tags).map (fun a => (q.part, a)) else none)

/-- `HOST_ACCESS` (R433): port 0 enters die 0 and port 1 enters die 5; one with an unknown PASID is dropped. -/
def execHostAccess (s : State) : Res :=
  match s.subject with
  | some (.hostAccess port pasid va size write) =>
    (match s.pasidOf port pasid with
     | none => .next s
     | some (part, asid) =>
       .next (s.arriveOutside
         { id := 0, from_ := 1, tag := port, die := if port = 0 then 0 else 5, part, asid, va := word va, size, write }))
  | some (.hostAccessRetry id) => .next (s.retryOutside 1 id)
  | _ => .next s

/-- `STORAGE_PORT_ACCESS` (R434): the port enters die 12. -/
def execStoragePortAccess (s : State) : Res :=
  match s.subject with
  | some (.storagePortAccess part asid va size write) =>
    .next (s.arriveOutside { id := 0, from_ := 2, tag := 0, die := 12, part, asid, va := word va, size, write })
  | some (.storagePortRetry id) => .next (s.retryOutside 2 id)
  | _ => .next s

end Sys2Proof.Machine
end

