-- ==== Sys2Proof/Machine/Module.lean ====
section
/-! DEFINITION. Failures, resets and the module's own upkeep (R34 to R40, R123, R124, R210 to R214, R218, R290, R314, R342, R361, R388,
R412, R435, R438). -/

namespace Sys2Proof.Machine

/-! ### What stands on a die -/

/-- Does a strand stand on the die, or is it on its way to or from it? -/
def Thread.touches (t : Thread) (d : Nat) : Bool := t.standsOn == d || dieOf t.core == d

/-- Cores of a die that were ever touched. -/
def State.coresTouched (s : State) (d : Nat) : List Nat := (s.cores.map (·.1)).filter (fun c => dieOf c == d)

/-- Messages in a core's inbox and arrival queue, which its reset loses (R124, R321). -/
def Core.unread (k : Core) : List Msg := k.inbox ++ k.arrivals

/-- Does a context wait in a block queue or a word-waiter table of the die (R290)? -/
def Die.holdsWait (x : Die) (c : CtxId) : Bool :=
  x.words.any (fun w => w.ctx == c) || x.blocks.any (fun b => b.queue.any (fun w => w.ctx == c))

/-- Is a strand to be recreated when the die returns (R123): created there, and it has never issued? -/
def Thread.unissued (t : Thread) (d : Nat) : Bool := t.issued.isNone && sidDie t.sid == d && t.standsOn == d

/-- Is a strand lost with the die (R123, R290)? -/
def State.lostOn (s : State) (d sid : Nat) (t : Thread) : Bool :=
  !t.unissued d && (t.standsOn == d || (s.die d).holdsWait (.strand sid))

/-! ### Launches that a reset touches (R124) -/

/-- Is a launch touched by a reset of the die? -/
def State.launchTouched (s : State) (d : Nat) (l : Launch) (lid : Word) : Bool :=
  l.touched.contains d || (s.die d).outstanding lid != 0
    || s.strands.any (fun (sid, (t : Thread)) => t.lid == lid && (t.touches d || (s.die d).holdsWait (.strand sid)))
    || (s.coresTouched d).any (fun c => (s.core c).unread.any (fun m => m.lid == lid))

/-- The launches that a reset touches end with code 0x01, in place of another they had (R124; DESIGN CHOICE, log 135), and the first such die;
their sweeps look at the die no more. -/
def State.touchLaunches (s : State) (d : Nat) : State :=
  s.mapDies (fun n x => { x with launches := x.launches.map (fun l =>
    if s.launchTouched d l (lidOf n l.gen l.idx) then
      { l with code := 1, xdie := if l.code = 1 then l.xdie else d, swept := none, lost := l.lost ++ [d] }
    else l) })

/-! ### Journals that are lost (R36, R431) -/

/-- One accepted item whose journal entry is lost: it is listed with a machine check, and it is dropped. -/
def State.loseItem (s : State) (e part kind id : Nat) : State :=
  (s.faultLog part [logWord0 0x03 0 0xFFFF e 0x05, word (id % 2 ^ 48), word kind, word e]).machineCheck part 0x36

/-- The partition of an item of a die's journal, where its state is still there. -/
def State.itemPart (s : State) (e kind id : Nat) : Option Nat :=
  let x := s.die e
  match kind with
  | 1 => (s.thread? (.strand id)).map (fun (t : Thread) => t.part)
  | 2 => (s.launch? (word id)).map (·.part)
  | 3 => (x.tasks.find? (fun t => chainName t.part t.seq == id)).map (·.part)
  | 4 => (x.runs.find? (fun r => chainName r.part r.seq == id)).map (·.part)
  | 5 => ((x.requests ++ x.armed.map (·.move) ++ x.engines.filterMap (·.2.work)).find? (fun m => moveName m.from_.core m.seq == id)).map (·.from_.part)
  | _ => (x.joins.find? (fun j => j.handle e == id)).map (·.from_.part)

/-- Drops an item of a die. -/
def State.dropItem (s : State) (e kind id : Nat) : State :=
  match kind with
  | 1 => (s.leaveAll (.strand id)).retire id
  | 2 => s.modDie e (fun x => { x with launches := x.launches.filter (fun l => (lidOf e l.gen l.idx).toNat != id) })
  | 3 => s.modDie e (fun x => { x with tasks := x.tasks.filter (fun t => chainName t.part t.seq != id) })
  | 4 => s.modDie e (fun x => { x with runs := x.runs.filter (fun r => chainName r.part r.seq != id) })
  | 5 => s.modDie e (fun x => { x with
      requests := x.requests.filter (fun m => moveName m.from_.core m.seq != id)
      armed := x.armed.filter (fun a => moveName a.move.from_.core a.move.seq != id)
      engines := x.engines.map (fun (n, (g : Engine)) =>
        (n, { g with work := g.work.filter (fun m => moveName m.from_.core m.seq != id) })) })
  | _ => s.modDie e (fun x => { x with joins := x.joins.filter (fun j => j.handle e != id) })

/-- The journal of a die is lost: every item of it is listed and dropped. -/
def State.loseJournal (s : State) (e : Nat) : State :=
  let js := (s.die e).journal
  let s := js.foldl (fun s (kind, id) =>
    match s.itemPart e kind id with
    | none => s
    | some p => (s.loseItem e p kind id).dropItem e kind id) s
  s.modDie e (fun x => { x with journal := [] })

/-- Both copies of a journal are gone where its die and the next are being reset together (R36). -/
def State.loseJournals (s : State) (d : Nat) : State :=
  [(d + 23) % 24, d].foldl (fun s e => if (s.die e).down && (s.die ((e + 1) % 24)).down then s.loseJournal e else s) s

/-! ### A die is reset (R123, R290) -/

/-- The posted writes of the die's agents, and those to its frames and local stores, reach their single copies first. -/
def State.settleWrites (s : State) (d : Nat) : State :=
  s.drain (fun p => p.die == d || (match p.at_ with
    | .frame x _ _ => x == d
    | .loc c _ => dieOf c == d
    | .direct _ => false))

/-- A dirty atom that is lost is poisoned in HBM and logged (R212, R290). -/
def State.poisonAtom (s : State) (d : Nat) (b : Block) (a : Nat) : State :=
  let pa := b.paOf (32 * a)
  { s with hbm := s.hbm.eachWord (Bank.spoil s.tick) pa 4 }.logPoison b.key.part d 0xFFFF pa (b.key.blk + 32 * a)

/-- Contexts and accesses from outside forget uses of lost blocks. -/
def State.dropUses (s : State) (ks : List BlockKey) : State :=
  let drop (t : Thread) : Thread :=
    { t with use := t.use.filter (fun k => !ks.contains k), passed := t.passed.filter (fun k => !ks.contains k), carried := t.carried.filter (fun k => !ks.contains k) }
  { s with cpu := drop s.cpu
           threads := s.threads.map (fun x => (x.1, drop x.2)), sups := s.sups.map (fun x => (x.1, drop x.2))
           outside := s.outside.map (fun (o : Outside) => { o with use := o.use.filter (fun k => !ks.contains k) }) }

/-- The frames, queues and word-waiter entries of the die are lost (R290). -/
def State.loseBlocks (s : State) (d : Nat) : State :=
  let bs := (s.die d).blocks
  let s := bs.foldl (fun s b => b.dirty.foldl (fun s a => s.poisonAtom d b a) s) s
  let s := s.dropUses (bs.map (·.key))
  (s.modDie d (fun x => { x with blocks := [], words := [] })).poisonWaiters

/-- Every lost strand is retired; those of the die, which are the ones created there (R97; DEDUCED, log 122), that are parked as visitors
elsewhere are retired when they come back (R123). -/
def State.loseStrands (s : State) (d : Nat) : State :=
  let lost := (s.strands.filter (fun (sid, (t : Thread)) => s.lostOn d sid t)).map (·.1)
  let s := lost.foldl (fun s sid => (s.leaveAll (.strand sid)).retire sid) s
  s.mapStrands (fun sid (t : Thread) => if sidDie sid == d && t.visitor.isSome && t.standsOn != d then { t with doomed := some d } else t)

/-- A strand that has never issued is kept for the die's return (R123). -/
def State.keepStrands (s : State) (d : Nat) : State :=
  let mine := (s.strands.filter (fun (_, (t : Thread)) => t.unissued d)).map (·.1)
  let s := mine.foldl (fun s sid => (s.leaveAll (.strand sid)).modThread (.strand sid) (fun t =>
    { t with place := .pool d, wait := .none, trapDue := none, hold := 0 })) s
  s.modDie d (fun x => { x with pool := [] })

/-- The messages that the die's cores held are lost and counted for each partition (R321). -/
def State.loseMessages (s : State) (d : Nat) : State :=
  s.parts.foldl (fun s p =>
    let n := (((s.coresTouched d).filter p.owns).map (fun c => (s.core c).unread.length)).sum
    if n = 0 then s else s.faultLog p.num [logWord0 0x03 0 0xFFFF d 0x07, word d, word n, 0#64]) s

/-- The cores of the die are as after a core reset (R208, R248, R258); the request numbers go on (R304), and what waits in the network stays
there (R298). -/
def State.clearCores (s : State) (d : Nat) : State :=
  let s := (s.coresTouched d).foldl (fun s c => (s.stopSup c).setCore c { seq := (s.core c).seq, netWait := (s.core c).netWait }) s
  { s with lstore := s.lstore.clear (256 * d * 2 ^ 18) (2 ^ 26) }

/-- A task that had not started, or one that begins from nothing, is run again (R342). -/
def Task.restarts (t : Task) : Bool := !t.ran || (t.zinit && field (t.w 11) 31 0 == 0)

/-- A task as it was accepted. -/
def Task.fresh (t : Task) : Task :=
  { t with kb := field (t.w 11) 31 0, rows := 0, running := false, ran := false, since := none, reserved := false, hold := .none,
           loaded := [], flags := 0, malformed := false, qmode := none, sec := 0 }

/-- Tasks and runs of the die: those that can run again wait for its return, the others end with code 0x08 (R342, R361). -/
def State.resetJobs (s : State) (d : Nat) : State :=
  let x := s.die d
  let s := (x.tasks.filter (fun t => !t.restarts)).foldl (fun s t => s.endTask d t 8 (word d)) s
  let s := (x.runs.filter (fun r => r.started)).foldl (fun s r => s.finishRun d r 8 (word d)) s
  s.modDie d (fun x => { x with tasks := x.tasks.map Task.fresh })

/-- A join of the die is lost (R388): its members receive reason 5, and its waiters state 3 with code 0x08. -/
def State.resetJoin (s : State) (d : Nat) (j : Join) : State :=
  let h := j.handle d
  let s := s.straggleAll h j.nmem 5 (fun _ => true)
  match s.join? h with
  | some j => s.finishJoin d { j with state := 3, code := 8, flags := if j.state = 0 then j.arrivedFlags else j.flags } (word d)
  | none => s

/-- The joins of the die that are open or folding. -/
def State.resetJoins (s : State) (d : Nat) : State :=
  ((s.die d).joins.filter (fun j => j.state < 2)).foldl (fun s j => s.resetJoin d j) s

/-- The movement engines, trigger counters, tiles and the rest of the die's own state (R276, R314, R317, R323, R324). -/
def Die.afterReset (x : Die) : Die :=
  { x with
    requests := (x.engines.filterMap (fun (_, (g : Engine)) => g.work) ++ x.requests).map Move.rerun
    engines := x.engines.map (fun (n, (g : Engine)) => (n, { g with work := none, giveBack := false }))
    late := x.late.map (fun l => { l with hold := match l.hold with | .fault .. => .none | h => h })
    records := x.records.map (fun r => { r with hold := match r.hold with | .fault .. => .none | h => h })
    faults := [], bells := [], trig := [], tiles := [], accGen := 0, acc := {}, pewcfg := ({} : Die).pewcfg, refills := 0
    replan := false, visitors := [] }

/-- Contexts and accesses that wait at the die's fault entries or word-waiter entries from elsewhere make their accesses again. -/
def State.freeWaits (s : State) (d : Nat) : State :=
  let free (t : Thread) : Thread := match t.wait with
    | .fault x .. | .clove x .. | .word x _ => if x = d then { t with wait := .none } else t
    | .block k => if (match s.part? k.part with | some p => p.homeDie k.blk == d | none => false) then { t with wait := .none } else t
    | _ => t
  { s with
    cpu := free s.cpu
    threads := s.threads.map (fun x => (x.1, free x.2)), sups := s.sups.map (fun x => (x.1, free x.2))
    outside := s.outside.map (fun o => if o.die = d then { o with hold := .none } else o)
    tlb := s.tlb.filter (fun t => t.die != d), ptes := s.ptes.filter (fun e => e.die != d) }

/-- A die is reset. -/
def State.resetDie (s : State) (d : Nat) : State :=
  let s := (s.settleWrites d).modDie d (fun x => { x with down := true })
  let s := (s.touchLaunches d).loseMessages d
  let s := ((s.loseStrands d).keepStrands d).loseBlocks d
  let s := ((s.resetJobs d).resetJoins d).clearCores d
  let s := (s.freeWaits d).modDie d Die.afterReset
  (s.loseJournals d).reschedule

/-- `DIE_RESET` (R35, R123, R124, R290). -/
def execDieReset (s : State) : Res :=
  match s.subject with
  | some (.dieReset d) => if 24 ≤ d || (s.die d).down then .next s else .next (s.resetDie d)
  | _ => .next s

/-- Retires the doomed strands that came back to the die while it was down (R123). -/
def State.retireDoomed (s : State) (d : Nat) : State :=
  ((s.die d).pool.map (·.sid)).foldl (fun s sid =>
    match s.thread? (.strand sid) with
    | some t => if t.doomed == some d then (s.loseLaunch t.lid d).retire sid else s
    | none => s) s

/-- Is a strand in the ready pool of its die? -/
def State.pooled (s : State) (d sid : Nat) : Bool := (s.die d).pool.any (fun e => e.sid == sid)

/-- A die returns to service: its lost joins are freed, its supervisor contexts start, strands doomed by its reset are retired, entries
that joined its pool meanwhile are offered its slots, and the strands that never issued are recreated in the order of their acceptance
(R34, R103, R123, R248, R388). -/
def State.returnDie (s : State) (d : Nat) : State :=
  let s := (s.modDie d (fun x => { x with down := false })).retireDoomed d
  let s := (s.die d).joins.foldl (fun s j => s.freeJoin d (j.handle d)) s
  let s := s.parts.foldl (fun s p => (p.cores.filter (fun c => dieOf c == d)).foldl (fun s c => s.startCore p c) s) s
  let mine := (s.strands.filter (fun (sid, (t : Thread)) => t.unissued d && !s.pooled d sid)).mergeSort (fun a b => a.2.born ≤ b.2.born)
  let s := s.fillDie d
  let s := mine.foldl (fun s (sid, (t : Thread)) => s.enterPool d sid t.home) s
  (s.retryLate d).reschedule

/-- `DIE_RETURN` (R123). -/
def execDieReturn (s : State) : Res :=
  match s.subject with
  | some (.dieReturn d) => if (s.die d).down then .next (s.returnDie d) else .next s
  | _ => .next s

/-! ### Memory errors (R34, R210 to R214) -/

/-- `HBM_STACK_LOSS` (R34): the stack's bytes have no value from then on. -/
def execHbmStackLoss (s : State) : Res :=
  match s.subject with
  | some (.hbmStackLoss n) =>
    if s.lostStacks.contains n || 32 ≤ n then .next s else .next { s with lostStacks := s.lostStacks ++ [n] }
  | _ => .next s

/-- The partitions that own memory in a range. -/
def State.ownersOf (s : State) (a n : Nat) : List Part := s.parts.filter (fun p => (s.memoryOf p).any (fun m => overlap m.1 m.2 a n))

/-- Counts an error of a stack (R210, R437). -/
def State.countError (s : State) (stack i : Nat) : State :=
  let k := 4 * stack + i
  { s with stackErr := insert k ((lookup k s.stackErr).getD 0#64 + 1#64) s.stackErr }

/-- `ROW_REMAP_FAILURE` (R214): the table is restored from its shadow, or the bank is retired. -/
def execRowRemapFailure (s : State) : Res :=
  match s.subject with
  | some (.rowRemapFailure stack bank base len bad) =>
    let ps := s.ownersOf base len
    if bad then
      let s := { s with retired := s.retired ++ [(stack, bank, base, len)] }.countError stack 3
      .next ((ps.foldl (fun s p => (s.faultLog p.num [logWord0 0x03 0 0xFFFF (stackDie base) 0x03, word stack, word bank, word base]).machineCheck
        p.num 0x214) s).poisonWaiters)
    else .next (ps.foldl (fun s p => s.faultLog p.num [logWord0 0x03 0 0xFFFF (stackDie base) 0x02, word stack, word bank, 0#64]) s)
  | _ => .next s

/-- An atom of HBM is poisoned, counted and logged to its owners (R212). -/
def State.poisonHbm (s : State) (pa : Nat) : State :=
  let s := { s with hbm := s.hbm.eachWord (Bank.spoil s.tick) pa 4 }.countError (pa / 2 ^ 36) 2
  ((s.ownersOf pa 32).foldl (fun s p => s.logPoison p.num (stackDie pa) 0xFFFF pa 0) s).poisonWaiters

/-- A word of SRAM is poisoned (R211, R212). -/
def State.poisonWord (s : State) (l : Loc) (part : Option Nat) (va : Nat) : State :=
  let (s, core, pa) := match l with
    | .loc c o => ({ s with lstore := s.lstore.spoil s.tick (c * 2 ^ 18 + o) }, c, 0)
    | .frame d k o =>
      (match s.block? d k with
       | some (b : Block) =>
         if b.frame == FrameState.absent then (s, 0xFFFF, 0)
         else (s.setBlock d { b with data := b.data.spoil s.tick o }, 0xFFFF, b.paOf (o / 32 * 32))
       | none => (s, 0xFFFF, 0))
    | .direct _ => (s, 0xFFFF, 0)
  (match part with
   | some p => s.logPoison p l.server core pa va
   | none => s).poisonWaiters

/-- A word of an accumulator is poisoned (R211, R212), and logged to the partition of its quad. -/
def State.poisonAcc (s : State) (d off : Nat) : State :=
  let s := s.modDie d (fun x => { x with acc := x.acc.spoil s.tick off })
  match s.owner (256 * d + 4 * (off / 2 ^ 20)) with
  | some p => s.logPoison p.num d 0xFFFF 0 0
  | none => s

/-- A word of a parked strand's record is poisoned: no consumer of it is named, and its data have no value, but for the strand's number, by
which it is found, and STS.SUP, which nothing else sets (R139, R211, R212, R248; DESIGN CHOICE, log 117). -/
def Thread.spoilRecord (t : Thread) (tick i : Nat) : Thread :=
  let v := word (packNat 8 ((List.range 8).map (fun j => (Config.poisonByte tick (8 * i + j)).toNat)))
  match i with
  | 0 => { t with pc := v }
  | 1 => { t with sts := v &&& 0x1FF7F7#64 }
  | 2 => { t with ssp := v }
  | _ => { t with depth := field v 31 16, zsz := field v 11 8 }

/-- A word of the record of a strand that holds no slot is poisoned and logged to its partition. -/
def State.poisonRecord (s : State) (sid i : Nat) : State :=
  match s.thread? (.strand sid) with
  | none => s
  | some t =>
    if t.place == .slot then s
    else (s.modThread (.strand sid) (fun t => t.spoilRecord s.tick i)).logPoison t.part t.standsOn 0xFFFF 0 0

/-- `SCRUB_PASS` (R210 to R213): an atom of HBM is read, and with it an error is corrected, counted or made poison; or a double-bit
error is found in a word of a local store, a frame, an accumulator or the parking store. -/
def execScrubPass (s : State) : Res :=
  match s.subject with
  | some (.scrubPass atom errors) =>
    let pa := 32 * atom
    if !dataPa pa || errors = 0 then .next s
    else if errors ≤ 2 then .next (s.countError (pa / 2 ^ 36) (errors - 1))
    else .next (s.poisonHbm pa)
  | some (.localError core off) =>
    if 6144 ≤ core || 2 ^ 18 ≤ off then .next s
    else .next (s.poisonWord (.loc core off) ((s.owner core).map (·.num)) (2 ^ 56 + off))
  | some (.frameError d k off) =>
    if 32768 ≤ off then .next s else .next (s.poisonWord (.frame d k off) (some k.part) (k.blk + off))
  | some (.accError d off) => if 24 ≤ d || 2 ^ 26 ≤ off then .next s else .next (s.poisonAcc d off)
  | some (.parkError sid i) => .next (s.poisonRecord sid i)
  | _ => .next s

/-! ### Power and ageing (R38, R39) -/

/-- `CLOCK_STRETCH` (R38): a sector's clock begins to stretch, or ends; a stretched cycle counts as one. -/
def execClockStretch (s : State) : Res :=
  match s.subject with
  | some (.clockStretch d sector) =>
    .next (s.modDie d (fun x => { x with
      stretched := if x.stretched.contains sector then x.stretched.filter (· != sector) else x.stretched ++ [sector] }))
  | _ => .next s

/-- Is no strand and no engine task active on a die (R39)? -/
def State.dieQuiet (s : State) (d : Nat) : Bool :=
  let x := s.die d
  !s.strands.any (fun (_, (t : Thread)) => match t.place with
      | .slot | .pool _ | .utellQueue _ => t.standsOn == d
      | _ => false)
    && !x.tasks.any (fun t => t.running) && !x.runs.any (fun r => !r.active.isEmpty)
    && !x.engines.any (fun (_, (g : Engine)) => g.work.isSome) && !x.joins.any (fun j => j.state == 1)

/-- `VF_REPLAN` (R39): margins are re-planned while the die is idle; launches, strands and engine tasks wait until that ends. -/
def execVfReplan (s : State) : Res :=
  match s.subject with
  | some (.vfReplan d) =>
    if (s.die d).replan then .next ((s.modDie d (fun x => { x with replan := false })).fillDie d).reschedule
    else if s.dieQuiet d then .next (s.modDie d (fun x => { x with replan := true }))
    else .next s
  | _ => .next s

/-! ### Images, memory initialisation and the module reset (R40, R218, R248, R438) -/

/-- `IMAGE_VERIFY` (R40, R438): an image that fails either check is not run, the previous one is kept, and the failure is logged and reported
over the host management interface. -/
def execImageVerify (s : State) : Res :=
  match s.subject with
  | some (.imageVerify img rsaOk slhOk) =>
    if rsaOk && slhOk then .next { s with image := some img }
    else .next ({ s with reports := s.reports ++ [img] }.mgmt 0x438 (word img) (word (boolNat rsaOk + 2 * boolNat slhOk)))
  | _ => .next s

/-- `MODULE_MEMORY_INIT` (R208, R218): once after a module reset; the masks take effect and HBM is cleared. -/
def execModuleMemoryInit (s : State) : Res :=
  match s.subject with
  | some .moduleMemoryInit =>
    if s.memInited then .next s
    else .next s.initMemory
  | _ => .next s

/-- What outlives a module reset: memory until it is initialised, what has failed, the verified image, what the outside has been told or
is about to send, and the module's clock. -/
def State.moduleReset (s : State) : State :=
  { State.reset with
    tick := s.tick, inputs := s.inputs, now := s.now, hbm := s.hbm, lostStacks := s.lostStacks, retired := s.retired
    mgmtLog := s.mgmtLog, checks := s.checks, qanswers := s.qanswers, replies := s.replies, linkOut := s.linkOut, image := s.image, reports := s.reports
    linkDown := s.linkDown, nextOutside := s.nextOutside }

/-- `MODULE_RESET` (R248). -/
def execModuleReset (s : State) : Res :=
  match s.subject with
  | some .moduleReset => .next s.moduleReset
  | _ => .next s

/-! ### Clearing, pods and links (R412, R435) -/

/-- Takes an atom out of a range that is still to be cleared. -/
def clearAtom (atom : Nat) (r : Nat × Nat) : List (Nat × Nat) :=
  if r.1 ≤ atom && atom < r.1 + r.2 then
    (if r.1 < atom then [(r.1, atom - r.1)] else []) ++ (if atom + 1 < r.1 + r.2 then [(atom + 1, r.1 + r.2 - atom - 1)] else [])
  else [r]

/-- `BACKGROUND_CLEARING` (R412): it reaches a sector, which has read as zero and full since the memory was handed on; a write in
between is not overwritten. -/
def execBackgroundClearing (s : State) : Res :=
  match s.subject with
  | some (.backgroundClearing atom) => .next { s with clearing := s.clearing.flatMap (clearAtom atom) }
  | _ => .next s

/-- `VIRTUAL_FUNCTION_RESET` (R412): its memory is handed on under background clearing. -/
def execVirtualFunctionReset (s : State) : Res :=
  match s.subject with
  | some (.virtualFunctionReset base len _) => .next (s.handOn base len)
  | _ => .next s

/-- `LINK_PORT_FAILURE` (R435): traffic moves to the ports that are left without change of order. -/
def execLinkPortFailure (s : State) : Res :=
  match s.subject with
  | some (.linkPortFailure port) =>
    if 36 ≤ port || s.linkDown.contains port then .next s else .next { s with linkDown := s.linkDown ++ [port] }
  | _ => .next s

/-- `POD_FORMATION` (R435): the module has a number from 0 to 63 and knows the pod's members. -/
def execPodFormation (s : State) : Res :=
  match s.subject with
  | some (.podFormation n members) =>
    if n < 64 && members.contains n && members.all (· < 64) then .next { s with modNum := n, pod := members }
    else .next (s.mgmt 0x435 (word n) 0#64)
  | _ => .next s

end Sys2Proof.Machine
end

