-- ==== Sys2Proof/Machine/Special.lean ====
section
/-! DEFINITION. `MOVS` and `MOVT`: the special registers (R128 to R131, R138, R151). They neither consume nor clear a pending prefix
(R131; DEDUCED, log 18). -/

namespace Sys2Proof.Machine

/-- The special registers that only a context with SUP may name (R93, R128): SLB, and LSPA0 to LSPA7. -/
def supOnly (sp : BitVec 6) : Bool := sp.toNat == 14 || (16 ≤ sp.toNat && sp.toNat < 24)

/-- Reads a special register other than WPTR and SSP (R128). -/
def State.special (s : State) (sp : BitVec 6) : Word :=
  let t := s.cpu
  let k := s.core t.core
  match sp.toNat with
  | 0 => t.sts
  | 1 => t.tpc
  | 2 => t.tcause
  | 3 => t.tval
  | 6 => word t.sid
  | 7 => t.lid
  | 8 => t.jmem
  | 9 => t.khnd
  | 10 => k.cyc
  | 11 => k.msent
  | 12 => k.mrecv
  | 13 => k.icnt
  | 14 => k.slb
  | n => if h : n - 16 < 8 then k.lspa.get ⟨n - 16, h⟩ else 0#64

/-- `MOVS` (R151): a reserved number is an illegal operand, then SLB and the LSPAs need SUP (R93). -/
def execMovs (d : Reg) (sp : BitVec 6) (s : State) : Res :=
  .next (
    if !spDefined sp then s.illegal
    else if supOnly sp && !s.cpu.sup then s.trapHead 0x07
    else (s.setR d (s.special sp)).donePrefix s.cpu.sts)

/-- The value that `MOVS` of SSP or WPTR reads once every window but the current is spilled (R138). -/
def movsSpilled (d : Reg) (s : State) (f : Thread → Word) : State :=
  match s.spillAllButCurrent with
  | .stopped s => s
  | .ok s => (s.setR d (f s.cpu)).donePrefix s.cpu.sts

/-- `MOVS` of WPTR (R138). -/
def execMovsWptr (d : Reg) (s : State) : Res := .next (movsSpilled d s Thread.wptr)
/-- `MOVS` of SSP (R138). -/
def execMovsSsp (d : Reg) (s : State) : Res := .next (movsSpilled d s Thread.ssp)

/-- May a value be written to an LSPA register (R205)? Reserved bits zero and LIM at most 1,024. -/
def lspaOk (v : Word) : Bool := field v 45 27 == 0 && field v 15 10 == 0 && field v 26 16 ≤ 1024

/-- Writes a special register other than STS, SID, WPTR and SSP (R128), truncated to the bits it holds (R112, R129, R367). -/
def State.setSpecial (s : State) (sp : BitVec 6) (v : Word) : State :=
  let c := s.cpu.core
  match sp.toNat with
  | 1 => s.modCpu (fun t => { t with tpc := v })
  | 2 => s.modCpu (fun t => { t with tcause := setField t.tcause 7 0 (field v 7 0) })
  | 3 => s.modCpu (fun t => { t with tval := v })
  | 7 => if s.cpu.sup then s.modCpu (fun t => { t with lid := word (field v 31 0) }) else s
  | 8 => s.modCpu (fun t => { t with jmem := setField v 55 48 0 })
  | 9 => s.modCpu (fun t => { t with khnd := v })
  | 14 => s.modCore c (fun k => { k with slb := v })
  | n =>
    if h : n - 16 < 8 then
      if 16 ≤ n then s.modCore c (fun k => { k with lspa := k.lspa.set (n - 16) v h }) else s
    else s

/-- `MOVT` to a register without a form of its own (R129, R151, R205). -/
def execMovt (sp : BitVec 6) (a : Reg) (s : State) : Res :=
  .next (
    if !spDefined sp then s.illegal
    else if sp.toNat = 6 || (supOnly sp && !s.cpu.sup) then s.trapHead 0x07
    else if 16 ≤ sp.toNat && !lspaOk (s.rd a) then s.illegal
    else (s.setSpecial sp (s.rd a)).donePrefix s.cpu.sts)

/-- The priority ceiling of the issuing context's partition (R131). -/
def State.ceiling (s : State) (pri : Nat) : Nat :=
  match s.part? s.cpu.part with
  | some p => ceilPri p pri
  | none => pri

/-- STS after a `MOVT` (R131): CHK, PRI, ANUL, RM and the five flags from the value; SUP only where it is already set. -/
def State.stsWritten (s : State) (v : Word) : Word :=
  let old := s.cpu.sts
  -- CHK bit 0, PRI 10:9, ANUL 12, RM 15:14, flags 20:16
  let mask : Word := 0x1FD601#64 ||| (if s.cpu.sup then 0x800#64 else 0#64)
  setField ((old &&& ~~~mask) ||| (v &&& mask)) 10 9 (s.ceiling (field v 10 9))

/-- `MOVT` to STS (R131): a reserved bit of the value set is an illegal operand. -/
def execMovtSts (a : Reg) (s : State) : Res :=
  let v := s.rd a
  .next (
    if field v 63 21 ≠ 0 || bitOf v 3 then s.illegal
    else (s.modCpu (fun t => { t with sts := s.stsWritten v })).donePrefix s.cpu.sts)

/-- `MOVT` to WPTR (R138): the spills first, then the value checks. -/
def execMovtWptr (a : Reg) (s : State) : Res :=
  let v := s.rd a
  .next (
    match s.spillAllButCurrent with
    | .stopped s => s
    | .ok s =>
      if field v 63 32 ≠ 0 || field v 15 12 ≠ 0 || field v 7 3 ≠ 0 || (s.cpu.sup && 6 < field v 11 8) then s.illegal
      else (s.modCpu (fun t => { t with depth := field v 31 16, zsz := if t.sup then field v 11 8 else t.zsz })).donePrefix s.cpu.sts)

/-- `MOVT` to SSP (R138): the value must be a multiple of 128. -/
def execMovtSsp (a : Reg) (s : State) : Res :=
  let v := s.rd a
  .next (
    match s.spillAllButCurrent with
    | .stopped s => s
    | .ok s => if v.toNat % 128 ≠ 0 then s.trap 0x10 v else (s.modCpu (fun t => { t with ssp := v })).donePrefix s.cpu.sts)

end Sys2Proof.Machine
end

