-- ==== Sys2Proof/Machine/Dispatch.lean ====
section
/-! DEFINITION. The dispatch of every instruction and event to its meaning. -/

namespace Sys2Proof.Machine

def exec (i : Instr) (s : State) : Host.Outcome State Fault Refusal :=
  match i with
  | .ill m => Sys2Proof.Machine.execIll m s
  | .br target => Sys2Proof.Machine.execBr target s
  | .brc c a b target => Sys2Proof.Machine.execBrc c a b target s
  | .jmp a => Sys2Proof.Machine.execJmp a s
  | .call target => Sys2Proof.Machine.execCall target s
  | .callr a => Sys2Proof.Machine.execCallr a s
  | .loop d target => Sys2Proof.Machine.execLoop d target s
  | .add d a b => Sys2Proof.Machine.execAdd d a b s
  | .sub d a b => Sys2Proof.Machine.execSub d a b s
  | .addi d a imm => Sys2Proof.Machine.execAddi d a imm s
  | .addiT4 d a imm => Sys2Proof.Machine.execAddiT4 d a imm s
  | .mul d a b => Sys2Proof.Machine.execMul d a b s
  | .mulh us d a b => Sys2Proof.Machine.execMulh us d a b s
  | .div us d a b => Sys2Proof.Machine.execDiv us d a b s
  | .rem us d a b => Sys2Proof.Machine.execRem us d a b s
  | .min us d a b => Sys2Proof.Machine.execMin us d a b s
  | .max us d a b => Sys2Proof.Machine.execMax us d a b s
  | .slt us d a b => Sys2Proof.Machine.execSlt us d a b s
  | .slti us d a imm => Sys2Proof.Machine.execSlti us d a imm s
  | .sltiT4 us d a imm => Sys2Proof.Machine.execSltiT4 us d a imm s
  | .madd d a b => Sys2Proof.Machine.execMadd d a b s
  | .and d a b => Sys2Proof.Machine.execAnd d a b s
  | .or d a b => Sys2Proof.Machine.execOr d a b s
  | .xor d a b => Sys2Proof.Machine.execXor d a b s
  | .andn d a b => Sys2Proof.Machine.execAndn d a b s
  | .logi op d a imm => Sys2Proof.Machine.execLogi op d a imm s
  | .logiT4 op d a imm => Sys2Proof.Machine.execLogiT4 op d a imm s
  | .shl d a b => Sys2Proof.Machine.execShl d a b s
  | .shlImm d a n => Sys2Proof.Machine.execShlImm d a n s
  | .shr d a b => Sys2Proof.Machine.execShr d a b s
  | .shrImm d a n => Sys2Proof.Machine.execShrImm d a n s
  | .sar d a b => Sys2Proof.Machine.execSar d a b s
  | .sarImm d a n => Sys2Proof.Machine.execSarImm d a n s
  | .rot d a b => Sys2Proof.Machine.execRot d a b s
  | .rotImm d a n => Sys2Proof.Machine.execRotImm d a n s
  | .clz d a => Sys2Proof.Machine.execClz d a s
  | .popc d a => Sys2Proof.Machine.execPopc d a s
  | .bfx sx d a p w => Sys2Proof.Machine.execBfx sx d a p w s
  | .mov d a => Sys2Proof.Machine.execMov d a s
  | .movi d imm => Sys2Proof.Machine.execMovi d imm s
  | .moviT4 d imm => Sys2Proof.Machine.execMoviT4 d imm s
  | .movhi k d imm => Sys2Proof.Machine.execMovhi k d imm s
  | .sel d a b => Sys2Proof.Machine.execSel d a b s
  | .lea d a imm => Sys2Proof.Machine.execLea d a imm s
  | .leaT4 d a imm => Sys2Proof.Machine.execLeaT4 d a imm s
  | .movs d sp => Sys2Proof.Machine.execMovs d sp s
  | .movsWptr d => Sys2Proof.Machine.execMovsWptr d s
  | .movsSsp d => Sys2Proof.Machine.execMovsSsp d s
  | .movt sp a => Sys2Proof.Machine.execMovt sp a s
  | .movtSts a => Sys2Proof.Machine.execMovtSts a s
  | .movtWptr a => Sys2Proof.Machine.execMovtWptr a s
  | .movtSsp a => Sys2Proof.Machine.execMovtSsp a s
  | .ids q d => Sys2Proof.Machine.execIds q d s
  | .clk d => Sys2Proof.Machine.execClk d s
  | .rng d a b => Sys2Proof.Machine.execRng d a b s
  | .cmp c d a b => Sys2Proof.Machine.execCmp c d a b s
  | .cmpImm c d a imm => Sys2Proof.Machine.execCmpImm c d a imm s
  | .ext sz d a => Sys2Proof.Machine.execExt sz d a s
  | .fadd r p d a b => Sys2Proof.Machine.execFadd r p d a b s
  | .fsub r p d a b => Sys2Proof.Machine.execFsub r p d a b s
  | .fmul r p d a b => Sys2Proof.Machine.execFmul r p d a b s
  | .ffma r p d a b => Sys2Proof.Machine.execFfma r p d a b s
  | .fdiv r p d a b => Sys2Proof.Machine.execFdiv r p d a b s
  | .fsqrt r p d a => Sys2Proof.Machine.execFsqrt r p d a s
  | .fmin p d a b => Sys2Proof.Machine.execFmin p d a b s
  | .fmax p d a b => Sys2Proof.Machine.execFmax p d a b s
  | .fcmp c p d a b => Sys2Proof.Machine.execFcmp c p d a b s
  | .fcvt k d a => Sys2Proof.Machine.execFcvt k d a s
  | .fsgn op p d a b => Sys2Proof.Machine.execFsgn op p d a b s
  | .fcls p d a => Sys2Proof.Machine.execFcls p d a s
  | .vadd m d a b => Sys2Proof.Machine.execVadd m d a b s
  | .vsub m d a b => Sys2Proof.Machine.execVsub m d a b s
  | .vmul m d a b => Sys2Proof.Machine.execVmul m d a b s
  | .vand m d a b => Sys2Proof.Machine.execVand m d a b s
  | .vor m d a b => Sys2Proof.Machine.execVor m d a b s
  | .vxor m d a b => Sys2Proof.Machine.execVxor m d a b s
  | .vshift op wide d a b => Sys2Proof.Machine.execVshift op wide d a b s
  | .vminmax isMax us wide d a b => Sys2Proof.Machine.execVminmax isMax us wide d a b s
  | .vsel wide k d a b => Sys2Proof.Machine.execVsel wide k d a b s
  | .vbcast wide d a => Sys2Proof.Machine.execVbcast wide d a s
  | .vperm wide d a b => Sys2Proof.Machine.execVperm wide d a b s
  | .vextr wide d a b => Sys2Proof.Machine.execVextr wide d a b s
  | .vextrImm wide d a j => Sys2Proof.Machine.execVextrImm wide d a j s
  | .vfadd m d a b => Sys2Proof.Machine.execVfadd m d a b s
  | .vfsub m d a b => Sys2Proof.Machine.execVfsub m d a b s
  | .vfmul m d a b => Sys2Proof.Machine.execVfmul m d a b s
  | .vffma m d a b => Sys2Proof.Machine.execVffma m d a b s
  | .vfmin m d a b => Sys2Proof.Machine.execVfmin m d a b s
  | .vfmax m d a b => Sys2Proof.Machine.execVfmax m d a b s
  | .vfrcp m d a => Sys2Proof.Machine.execVfrcp m d a s
  | .vfrsq m d a => Sys2Proof.Machine.execVfrsq m d a s
  | .vfexp m d a => Sys2Proof.Machine.execVfexp m d a s
  | .vfcmp c wide d a b => Sys2Proof.Machine.execVfcmp c wide d a b s
  | .vfred op wide d a => Sys2Proof.Machine.execVfred op wide d a s
  | .vrng unif d a b => Sys2Proof.Machine.execVrng unif d a b s
  | .fmt f => Sys2Proof.Machine.execFmt f s
  | .vcvt f d a => Sys2Proof.Machine.execVcvt f d a s
  | .vq8 f d a b => Sys2Proof.Machine.execVq8 f d a b s
  | .vdq8 f d a b => Sys2Proof.Machine.execVdq8 f d a b s
  | .vscale m d a b => Sys2Proof.Machine.execVscale m d a b s
  | .kand op d a b => Sys2Proof.Machine.execKand op d a b s
  | .kmov d a => Sys2Proof.Machine.execKmov d a s
  | .kmovFx d a => Sys2Proof.Machine.execKmovFx d a s
  | .kmovTx d a => Sys2Proof.Machine.execKmovTx d a s
  | .vpack f d a b => Sys2Proof.Machine.execVpack f d a b s
  | .vunpk f d a b => Sys2Proof.Machine.execVunpk f d a b s
  | .vclamp m d a b => Sys2Proof.Machine.execVclamp m d a b s
  | .ld sz d a imm => Sys2Proof.Machine.execLd sz d a imm s
  | .ldT4 sz d a imm => Sys2Proof.Machine.execLdT4 sz d a imm s
  | .ldv m d a imm => Sys2Proof.Machine.execLdv m d a imm s
  | .ldvT4 m d a imm => Sys2Proof.Machine.execLdvT4 m d a imm s
  | .ldvs m d a b imm => Sys2Proof.Machine.execLdvs m d a b imm s
  | .ldvsT4 m d a b imm => Sys2Proof.Machine.execLdvsT4 m d a b imm s
  | .ldvg m d a b imm => Sys2Proof.Machine.execLdvg m d a b imm s
  | .ldvgT4 m d a b imm => Sys2Proof.Machine.execLdvgT4 m d a b imm s
  | .ldl sz d a imm => Sys2Proof.Machine.execLdl sz d a imm s
  | .ldlv m d a imm => Sys2Proof.Machine.execLdlv m d a imm s
  | .ldfe d a imm => Sys2Proof.Machine.execLdfe d a imm s
  | .ldfeT4 d a imm => Sys2Proof.Machine.execLdfeT4 d a imm s
  | .ldff d a imm => Sys2Proof.Machine.execLdff d a imm s
  | .ldffT4 d a imm => Sys2Proof.Machine.execLdffT4 d a imm s
  | .ldfs d a b imm => Sys2Proof.Machine.execLdfs d a b imm s
  | .ldfsT4 d a b imm => Sys2Proof.Machine.execLdfsT4 d a b imm s
  | .ldx sz d a b imm => Sys2Proof.Machine.execLdx sz d a b imm s
  | .ldxT4 sz d a b imm => Sys2Proof.Machine.execLdxT4 sz d a b imm s
  | .ldm n d a imm => Sys2Proof.Machine.execLdm n d a imm s
  | .ldmT4 n d a imm => Sys2Proof.Machine.execLdmT4 n d a imm s
  | .ldnp sz d a b imm => Sys2Proof.Machine.execLdnp sz d a b imm s
  | .ldnpT4 sz d a b imm => Sys2Proof.Machine.execLdnpT4 sz d a b imm s
  | .st sz a b imm => Sys2Proof.Machine.execSt sz a b imm s
  | .stT4 sz a b imm => Sys2Proof.Machine.execStT4 sz a b imm s
  | .stv m a b imm => Sys2Proof.Machine.execStv m a b imm s
  | .stvT4 m a b imm => Sys2Proof.Machine.execStvT4 m a b imm s
  | .stvs m d a b imm => Sys2Proof.Machine.execStvs m d a b imm s
  | .stvsT4 m d a b imm => Sys2Proof.Machine.execStvsT4 m d a b imm s
  | .stvg m d a b imm => Sys2Proof.Machine.execStvg m d a b imm s
  | .stvgT4 m d a b imm => Sys2Proof.Machine.execStvgT4 m d a b imm s
  | .stl sz a b imm => Sys2Proof.Machine.execStl sz a b imm s
  | .stlv m a b imm => Sys2Proof.Machine.execStlv m a b imm s
  | .stef a b imm => Sys2Proof.Machine.execStef a b imm s
  | .stefT4 a b imm => Sys2Proof.Machine.execStefT4 a b imm s
  | .stff a b imm => Sys2Proof.Machine.execStff a b imm s
  | .stffT4 a b imm => Sys2Proof.Machine.execStffT4 a b imm s
  | .fesetE a imm => Sys2Proof.Machine.execFesetE a imm s
  | .fesetET4 a imm => Sys2Proof.Machine.execFesetET4 a imm s
  | .fesetF a imm => Sys2Proof.Machine.execFesetF a imm s
  | .fesetFT4 a imm => Sys2Proof.Machine.execFesetFT4 a imm s
  | .stm n a b imm => Sys2Proof.Machine.execStm n a b imm s
  | .stmT4 n a b imm => Sys2Proof.Machine.execStmT4 n a b imm s
  | .stx sz d a b imm => Sys2Proof.Machine.execStx sz d a b imm s
  | .stxT4 sz d a b imm => Sys2Proof.Machine.execStxT4 sz d a b imm s
  | .stnp sz d a b imm => Sys2Proof.Machine.execStnp sz d a b imm s
  | .stnpT4 sz d a b imm => Sys2Proof.Machine.execStnpT4 sz d a b imm s
  | .aadd sc d a b imm => Sys2Proof.Machine.execAadd sc d a b imm s
  | .aaddT4 sc d a b imm => Sys2Proof.Machine.execAaddT4 sc d a b imm s
  | .amin sc d a b imm => Sys2Proof.Machine.execAmin sc d a b imm s
  | .aminT4 sc d a b imm => Sys2Proof.Machine.execAminT4 sc d a b imm s
  | .amax sc d a b imm => Sys2Proof.Machine.execAmax sc d a b imm s
  | .amaxT4 sc d a b imm => Sys2Proof.Machine.execAmaxT4 sc d a b imm s
  | .aand sc d a b imm => Sys2Proof.Machine.execAand sc d a b imm s
  | .aandT4 sc d a b imm => Sys2Proof.Machine.execAandT4 sc d a b imm s
  | .aor sc d a b imm => Sys2Proof.Machine.execAor sc d a b imm s
  | .aorT4 sc d a b imm => Sys2Proof.Machine.execAorT4 sc d a b imm s
  | .axor sc d a b imm => Sys2Proof.Machine.execAxor sc d a b imm s
  | .axorT4 sc d a b imm => Sys2Proof.Machine.execAxorT4 sc d a b imm s
  | .aswp sc d a b imm => Sys2Proof.Machine.execAswp sc d a b imm s
  | .aswpT4 sc d a b imm => Sys2Proof.Machine.execAswpT4 sc d a b imm s
  | .acas sc d a b imm => Sys2Proof.Machine.execAcas sc d a b imm s
  | .acasT4 sc d a b imm => Sys2Proof.Machine.execAcasT4 sc d a b imm s
  | .afadd sc d a b imm => Sys2Proof.Machine.execAfadd sc d a b imm s
  | .afaddT4 sc d a b imm => Sys2Proof.Machine.execAfaddT4 sc d a b imm s
  | .fence sc => Sys2Proof.Machine.execFence sc s
  | .bhintPf d a imm => Sys2Proof.Machine.execBhintPf d a imm s
  | .bhintPfT4 d a imm => Sys2Proof.Machine.execBhintPfT4 d a imm s
  | .bhintPin d a imm => Sys2Proof.Machine.execBhintPin d a imm s
  | .bhintPinT4 d a imm => Sys2Proof.Machine.execBhintPinT4 d a imm s
  | .bhintUnpin d a imm => Sys2Proof.Machine.execBhintUnpin d a imm s
  | .bhintUnpinT4 d a imm => Sys2Proof.Machine.execBhintUnpinT4 d a imm s
  | .bhintEv d a imm => Sys2Proof.Machine.execBhintEv d a imm s
  | .bhintEvT4 d a imm => Sys2Proof.Machine.execBhintEvT4 d a imm s
  | .spawn p d a b => Sys2Proof.Machine.execSpawn p d a b s
  | .spawnLabel p d a target => Sys2Proof.Machine.execSpawnLabel p d a target s
  | .launch d a => Sys2Proof.Machine.execLaunch d a s
  | .migrate d a => Sys2Proof.Machine.execMigrate d a s
  | .migrateNear d a => Sys2Proof.Machine.execMigrateNear d a s
  | .send ch d a b => Sys2Proof.Machine.execSend ch d a b s
  | .sendLoopback ch d a b => Sys2Proof.Machine.execSendLoopback ch d a b s
  | .sendEndOverflow ch d a b => Sys2Proof.Machine.execSendEndOverflow ch d a b s
  | .recv d a => Sys2Proof.Machine.execRecv d a s
  | .recvArrival d a => Sys2Proof.Machine.execRecvArrival d a s
  | .bar sc d a => Sys2Proof.Machine.execBar sc d a s
  | .bara sc d a b => Sys2Proof.Machine.execBara sc d a b s
  | .trigarm d a b => Sys2Proof.Machine.execTrigarm d a b s
  | .sendx ch d a b => Sys2Proof.Machine.execSendx ch d a b s
  | .tqpush d a b => Sys2Proof.Machine.execTqpush d a b s
  | .tqstat d a => Sys2Proof.Machine.execTqstat d a s
  | .tkill d a => Sys2Proof.Machine.execTkill d a s
  | .tcont d a b => Sys2Proof.Machine.execTcont d a b s
  | .accal d a => Sys2Proof.Machine.execAccal d a s
  | .accfr d a => Sys2Proof.Machine.execAccfr d a s
  | .accld d a b imm => Sys2Proof.Machine.execAccld d a b imm s
  | .accst d a b imm => Sys2Proof.Machine.execAccst d a b imm s
  | .accz a b => Sys2Proof.Machine.execAccz a b s
  | .ssmrun d a b => Sys2Proof.Machine.execSsmrun d a b s
  | .ssmstat d a => Sys2Proof.Machine.execSsmstat d a s
  | .tseq d a => Sys2Proof.Machine.execTseq d a s
  | .jinit d a b => Sys2Proof.Machine.execJinit d a b s
  | .jarrive d => Sys2Proof.Machine.execJarrive d s
  | .jcontrib d a b => Sys2Proof.Machine.execJcontrib d a b s
  | .jwait d a => Sys2Proof.Machine.execJwait d a s
  | .jqrySt d a => Sys2Proof.Machine.execJqrySt d a s
  | .jqryWt d a => Sys2Proof.Machine.execJqryWt d a s
  | .jkill d a b => Sys2Proof.Machine.execJkill d a b s
  | .jroster d a b => Sys2Proof.Machine.execJroster d a b s
  | .jreplay d a b => Sys2Proof.Machine.execJreplay d a b s
  | .jclose d a => Sys2Proof.Machine.execJclose d a s
  | .jbind d a b => Sys2Proof.Machine.execJbind d a b s
  | .jrel d a => Sys2Proof.Machine.execJrel d a s
  | .copy mb d => Sys2Proof.Machine.execCopy mb d s
  | .copys mb d => Sys2Proof.Machine.execCopys mb d s
  | .deal mb d => Sys2Proof.Machine.execDeal mb d s
  | .enck mb d => Sys2Proof.Machine.execEnck mb d s
  | .deck mb d => Sys2Proof.Machine.execDeck mb d s
  | .redc mb d => Sys2Proof.Machine.execRedc mb d s
  | .bcast mb d => Sys2Proof.Machine.execBcast mb d s
  | .lease d a => Sys2Proof.Machine.execLease d a s
  | .unlease d a => Sys2Proof.Machine.execUnlease d a s
  | .mbxst mb d a w => Sys2Proof.Machine.execMbxst mb d a w s
  | .trigset d a b => Sys2Proof.Machine.execTrigset d a b s
  | .trigrd d a => Sys2Proof.Machine.execTrigrd d a s
  | .trap m => Sys2Proof.Machine.execTrap m s
  | .svc n => Sys2Proof.Machine.execSvc n s
  | .tlbiG a b => Sys2Proof.Machine.execTlbiG a b s
  | .tlbiH a => Sys2Proof.Machine.execTlbiH a s
  | .tlbiAsid b => Sys2Proof.Machine.execTlbiAsid b s
  | .fqpop d a b => Sys2Proof.Machine.execFqpop d a b s
  | .fqrepReplay d a b => Sys2Proof.Machine.execFqrepReplay d a b s
  | .fqrepGiveup d a b => Sys2Proof.Machine.execFqrepGiveup d a b s
  | .pgmap d a => Sys2Proof.Machine.execPgmap d a s
  | .slice d a b => Sys2Proof.Machine.execSlice d a b s
  | .prtnQry d a => Sys2Proof.Machine.execPrtnQry d a s
  | .prtnSplit d a => Sys2Proof.Machine.execPrtnSplit d a s
  | .prtnMerge d a => Sys2Proof.Machine.execPrtnMerge d a s
  | .reservedOpcode op m tl t => Sys2Proof.Machine.execReservedOpcode op m tl t s
  | .illT1 => Sys2Proof.Machine.execIllT1 s
  | .illT2 => Sys2Proof.Machine.execIllT2 s
  | .illT4 => Sys2Proof.Machine.execIllT4 s
  | .nop => Sys2Proof.Machine.execNop s
  | .nopT1 => Sys2Proof.Machine.execNopT1 s
  | .nopT2 => Sys2Proof.Machine.execNopT2 s
  | .nopT4 => Sys2Proof.Machine.execNopT4 s
  | .ret => Sys2Proof.Machine.execRet s
  | .save => Sys2Proof.Machine.execSave s
  | .restore => Sys2Proof.Machine.execRestore s
  | .kpt => Sys2Proof.Machine.execKpt s
  | .rlx => Sys2Proof.Machine.execRlx s
  | .vdrop => Sys2Proof.Machine.execVdrop s
  | .waita => Sys2Proof.Machine.execWaita s
  | .quit => Sys2Proof.Machine.execQuit s
  | .yield => Sys2Proof.Machine.execYield s
  | .waitm => Sys2Proof.Machine.execWaitm s
  | .kmaskOff => Sys2Proof.Machine.execKmaskOff s
  | .kmaskOn => Sys2Proof.Machine.execKmaskOn s
  | .tret => Sys2Proof.Machine.execTret s
  | .lend => Sys2Proof.Machine.execLend s
  | .smove => Sys2Proof.Machine.execSmove s
  | .sreg => Sys2Proof.Machine.execSreg s
  | .sret => Sys2Proof.Machine.execSret s
  | .pspill => Sys2Proof.Machine.execPspill s
  | .sstep => Sys2Proof.Machine.execSstep s
  | .flog => Sys2Proof.Machine.execFlog s
  | .gstop => Sys2Proof.Machine.execGstop s
  | .gres => Sys2Proof.Machine.execGres s
  | .tlbiAll => Sys2Proof.Machine.execTlbiAll s
  | .wfe => Sys2Proof.Machine.execWfe s
  | .queuePortLaunch => Sys2Proof.Machine.execQueuePortLaunch s
  | .queuePortOtherKind => Sys2Proof.Machine.execQueuePortOtherKind s
  | .launchStrandCreate => Sys2Proof.Machine.execLaunchStrandCreate s
  | .strandArrival => Sys2Proof.Machine.execStrandArrival s
  | .wordRequestAnswer => Sys2Proof.Machine.execWordRequestAnswer s
  | .postedWriteDrain => Sys2Proof.Machine.execPostedWriteDrain s
  | .spillSector => Sys2Proof.Machine.execSpillSector s
  | .slotPatienceExpiry => Sys2Proof.Machine.execSlotPatienceExpiry s
  | .wordWaiterRetry => Sys2Proof.Machine.execWordWaiterRetry s
  | .fetchStart => Sys2Proof.Machine.execFetchStart s
  | .fetchDone => Sys2Proof.Machine.execFetchDone s
  | .fetchFault => Sys2Proof.Machine.execFetchFault s
  | .writeBackDone => Sys2Proof.Machine.execWriteBackDone s
  | .launchSweep => Sys2Proof.Machine.execLaunchSweep s
  | .messageArrival => Sys2Proof.Machine.execMessageArrival s
  | .arrivalQueueAdmit => Sys2Proof.Machine.execArrivalQueueAdmit s
  | .movementDispatch => Sys2Proof.Machine.execMovementDispatch s
  | .movementSegmentEnd => Sys2Proof.Machine.execMovementSegmentEnd s
  | .movementComplete => Sys2Proof.Machine.execMovementComplete s
  | .movementFault => Sys2Proof.Machine.execMovementFault s
  | .leasePeriodEnd => Sys2Proof.Machine.execLeasePeriodEnd s
  | .triggeredEnqueue => Sys2Proof.Machine.execTriggeredEnqueue s
  | .taskKblockEnd => Sys2Proof.Machine.execTaskKblockEnd s
  | .taskFault => Sys2Proof.Machine.execTaskFault s
  | .taskComplete => Sys2Proof.Machine.execTaskComplete s
  | .engineFailure => Sys2Proof.Machine.execEngineFailure s
  | .ssmUnitEnd => Sys2Proof.Machine.execSsmUnitEnd s
  | .ssmUnitFault => Sys2Proof.Machine.execSsmUnitFault s
  | .joinDeferredArrival => Sys2Proof.Machine.execJoinDeferredArrival s
  | .joinFoldDone => Sys2Proof.Machine.execJoinFoldDone s
  | .joinFoldFault => Sys2Proof.Machine.execJoinFoldFault s
  | .faultPostRetry => Sys2Proof.Machine.execFaultPostRetry s
  | .sliceExpiry => Sys2Proof.Machine.execSliceExpiry s
  | .sliceOverrun => Sys2Proof.Machine.execSliceOverrun s
  | .ldxTimeout => Sys2Proof.Machine.execLdxTimeout s
  | .rtaArm => Sys2Proof.Machine.execRtaArm s
  | .rtaActRead => Sys2Proof.Machine.execRtaActRead s
  | .rtaArmExpiry => Sys2Proof.Machine.execRtaArmExpiry s
  | .writeBackScan => Sys2Proof.Machine.execWriteBackScan s
  | .flashWriteComplete => Sys2Proof.Machine.execFlashWriteComplete s
  | .hostAccess => Sys2Proof.Machine.execHostAccess s
  | .linkPortFailure => Sys2Proof.Machine.execLinkPortFailure s
  | .dieReset => Sys2Proof.Machine.execDieReset s
  | .dieReturn => Sys2Proof.Machine.execDieReturn s
  | .hbmStackLoss => Sys2Proof.Machine.execHbmStackLoss s
  | .rowRemapFailure => Sys2Proof.Machine.execRowRemapFailure s
  | .scrubPass => Sys2Proof.Machine.execScrubPass s
  | .clockStretch => Sys2Proof.Machine.execClockStretch s
  | .vfReplan => Sys2Proof.Machine.execVfReplan s
  | .imageVerify => Sys2Proof.Machine.execImageVerify s
  | .moduleMemoryInit => Sys2Proof.Machine.execModuleMemoryInit s
  | .crst => Sys2Proof.Machine.execCrst s
  | .msrWrite => Sys2Proof.Machine.execMsrWrite s
  | .ahashWrite => Sys2Proof.Machine.execAhashWrite s
  | .pewcfgWrite => Sys2Proof.Machine.execPewcfgWrite s
  | .stackCounterClear => Sys2Proof.Machine.execStackCounterClear s
  | .partitionRecordCommit => Sys2Proof.Machine.execPartitionRecordCommit s
  | .partitionDissolve => Sys2Proof.Machine.execPartitionDissolve s
  | .serviceSpaceWrite => Sys2Proof.Machine.execServiceSpaceWrite s
  | .hmapStore => Sys2Proof.Machine.execHmapStore s
  | .pinqStore => Sys2Proof.Machine.execPinqStore s
  | .controlRegionWrite => Sys2Proof.Machine.execControlRegionWrite s
  | .movementEngineFailure => Sys2Proof.Machine.execMovementEngineFailure s
  | .remoteAccessArrival => Sys2Proof.Machine.execRemoteAccessArrival s
  | .remoteBarrierArrival => Sys2Proof.Machine.execRemoteBarrierArrival s
  | .storagePortAccess => Sys2Proof.Machine.execStoragePortAccess s
  | .backgroundClearing => Sys2Proof.Machine.execBackgroundClearing s
  | .virtualFunctionReset => Sys2Proof.Machine.execVirtualFunctionReset s
  | .moduleReset => Sys2Proof.Machine.execModuleReset s
  | .podFormation => Sys2Proof.Machine.execPodFormation s
  | .queuePortAssignment => Sys2Proof.Machine.execQueuePortAssignment s

end Sys2Proof.Machine
end

