-- ==== Sys2Proof/Machine/Step.lean ====
section
/-! DEFINITION. One step: the next move, the instruction or event it runs, and the end of the step. -/

namespace Sys2Proof.Machine

/-- Runs one move. -/
def State.runTurn (s : State) : Option Turn → Host.Outcome State Fault Refusal
  | none => .next s
  | some (.issue c) =>
    match s.prepare c with
    | .inr t => .next (if s.ready c then t.noteTrap c (c.coreIn s) else t)
    | .inl (i, s) => exec i (s.noteStep c s.cpu.core)
  | some (.idle core) => exec .spillSector ({ s with turn := none, subject := some (.spillSector core) }.cycle core)
  | some (.event e) => exec e.row (s.takeEvent e)

/-- One step of the module (R8). -/
def step (s : State) : Host.Outcome State Fault Refusal :=
  match s.runTurn s.nextTurn with
  | .next s => .next s.serveWords.finish
  | .fault f => .fault f
  | .refused r => .refused r

/-- The partition that `withFetchWord` makes live: number 1, all of die 0. -/
def probePart : Part :=
  { num := 1, pric := 0, hyp := true, whole := true, dies := [0], node := 0, zsz := 0, mquota := 16, squota := 65536,
    spbase := 0#64, hroot := 0, groots := 0, flogr := 0, wbr := 0, tquota := 4096, jquota := 1024, pquota := 256, trign := 4096,
    sasid := 0, sentry := 0x100000000000001#64 }

/-- The state with one instruction placed where the next step fetches it: a line at offset 0 of core 0's local store, whose
supervisor context runs there for a live partition, and whose turn it is, in a module that holds an image (log 13). -/
def State.withFetchWord (s : State) (nbits w : Nat) : State :=
  let h := BitVec.ofNat 16 (w >>> (nbits - 16))
  let t := BitVec.ofNat 64 (w % 2 ^ (nbits - 16))
  let s := s.focus (.sup 0)
  let s := { s with lstore := s.lstore.write 0 (natOfBytes (oneLine h t)) 64, parts := [probePart], turn := some (.issue (.sup 0)),
                    image := some 0 }
  let s := s.modCore 0 (fun k => { k with supMode := .running })
  s.modCpu (fun c => { c with pc := 0x100000000000001#64, part := 1, place := .slot, wait := .none, hold := 0, trapDue := none, fresh := false,
                              lines := [], curLine := none, staleCur := false })

end Sys2Proof.Machine
end

