-- ==== Sys2Proof/Safety.lean ====
section
/-! DEFINITION. The terms in which claims about a run are made: what a safe run is, what an instruction that completes leaves as
it was, and the tables of results that the rules give, written apart from the meanings. -/

namespace Sys2Proof.Machine

/-! ### Safe runs -/

/-- Every bank of the state is in canonical form. -/
def State.banksWf (s : State) : Prop :=
  s.hbm.wf = true ∧ s.lstore.wf = true ∧ (∀ d ∈ s.dies, d.2.acc.wf = true ∧ ∀ b ∈ d.2.blocks, b.data.wf = true)

/-- No step of a run stops with a fault. -/
def Safe (s : State) : Prop := ∀ n, ∀ f, Host.Core.run Sys2Proof.core n s ≠ .fault f

/-! ### What an instruction that completes leaves as it was -/

/-- A register of R59's numbering, g0 reading as zero. -/
def Thread.reg (t : Thread) (n : Nat) : Nat :=
  if n = 0 then 0
  else if h : n < 32 then (t.regs.get ⟨n, h⟩).toNat
  else if h : n - 32 < 8 then (t.vregs.get ⟨n - 32, h⟩).toNat
  else if h : n - 40 < 4 then (t.kregs.get ⟨n - 40, h⟩).toNat
  else 0

/-- A context without its register files and its results in flight. -/
def Thread.rest (t : Thread) : Thread :=
  { t with regs := Vector.replicate 32 0#64, vregs := Vector.replicate 8 0#512, kregs := Vector.replicate 4 0#16, older := [], fly := [] }

/-- A register as it reads once every fixed-latency result is in place (R57). -/
def Thread.settled (t : Thread) (n : Nat) : Nat := t.commit.reg n

/-- No prefix is pending (R196, R220). -/
def State.noPrefix (s : State) : Prop := s.cpu.pfxf = false ∧ s.cpu.pfxr = false

/-- Sequential flow stays below bit 57 (R47). -/
def State.flows (s : State) : Prop := field (nextPc s.cpu.pc s.cpu.lineN) 63 57 = 0

/-- The PC that follows in sequential flow (R47). -/
def State.seqPc (s : State) : Word := nextPc s.cpu.pc s.cpu.lineN

/-- The instruction in issue completes from `s` in `t` (R47, R54): flow goes to `pc`; the next issue waits the stall count and `h`
further cycles; the prefixes are consumed; bits `sets` of STS are set and `reqs` added to the outstanding answers. Nothing else of
the module changes but the core's count of retired instructions, no byte of memory, and, once every result is in place, no
register but those of `ds`, in this window or an older one. `pfx` holds the prefix bits left pending. -/
structure Leaves (s t : State) (h : Nat) (pc : Word) (ds : List Nat) (sets : Word) (reqs : List Req) (pfx : Word) : Prop where
  module : t = { s.countRetired with cpu := t.cpu }
  context : t.cpu.rest = { s.cpu with
    pc, hold := headStall s.cpu.head + h, wait := .none
    sts := ((s.cpu.sts ||| sets) &&& ~~~0x1F4#64) ||| pfx, outs := s.cpu.outs ++ reqs }.rest
  others : ∀ n, n ∉ ds → t.cpu.settled n = s.cpu.settled n
  windows : t.cpu.commit.older = s.cpu.commit.older
  bytes : ∀ d l, t.byteAt d l = s.byteAt d l

/-- The instruction completes and leaves no prefix pending. -/
abbrev Completes (s t : State) (h : Nat) (pc : Word) (ds : List Nat) (sets : Word) (reqs : List Req) : Prop :=
  Leaves s t h pc ds sets reqs 0#64

/-- The prefix bits of a state's STS: PFXF, PFXC and PFXR (R130). -/
def State.pending (s : State) : Word := s.cpu.sts &&& 0x1F4#64

/-! ### Rows 1 to 3 (R146 to R153) -/

/-- A signed integer read from the low `w` bits of a number. -/
def signedOf (w n : Nat) : Int := if n / 2 ^ (w - 1) % 2 = 1 then (n % 2 ^ w : Nat) - 2 ^ w else (n % 2 ^ w : Nat)

/-- The order that a condition of R83 tests. -/
def condHolds : Cond → Word → Word → Bool
  | .eq, a, b => decide (a = b)
  | .ne, a, b => decide (a ≠ b)
  | .lt, a, b => decide (a.toInt < b.toInt)
  | .ge, a, b => decide (b.toInt ≤ a.toInt)
  | .le, a, b => decide (a.toInt ≤ b.toInt)
  | .gt, a, b => decide (b.toInt < a.toInt)
  | .lo, a, b => decide (a.toNat < b.toNat)
  | .hs, a, b => decide (b.toNat ≤ a.toNat)
  | .ls, a, b => decide (a.toNat ≤ b.toNat)
  | .hi, a, b => decide (b.toNat < a.toNat)

/-- A value extended from the size of a load size code (R86). -/
def extended : LdSize → Nat → Word
  | .d, v => word v
  | .wz, v => word (v % 2 ^ 32)
  | .ws, v => wordInt (signedOf 32 v)
  | .hz, v => word (v % 2 ^ 16)
  | .hs, v => wordInt (signedOf 16 v)
  | .bz, v => word (v % 2 ^ 8)
  | .bs, v => wordInt (signedOf 8 v)

/-- An immediate as the number that its two's complement names (R51). -/
def immInt {w : Nat} (i : BitVec w) : Int := i.toInt

/-- The result of a logic operation (R148). -/
def bitwise : LogOp → Word → Word → Word
  | .and, a, b => a &&& b
  | .or, a, b => a ||| b
  | .xor, a, b => a ^^^ b
  | .andn, a, b => a &&& ~~~b

/-- What rows 1 to 3 compute: the register written, its value as exact arithmetic gives it, and the built-in hold (R141). None for
the forms that raise the illegal-operand trap, and for the special registers. -/
def intResult (s : State) : Instr → Option (Reg × Word × Nat)
  | .add d a b => some (d, wordInt ((s.rd a).toInt + (s.rd b).toInt), 0)
  | .sub d a b => some (d, wordInt ((s.rd a).toInt - (s.rd b).toInt), 0)
  | .addi d a i => some (d, wordInt ((s.rd a).toInt + immInt i), 0)
  | .addiT4 d a i => some (d, wordInt ((s.rd a).toInt + immInt i), 0)
  | .mul d a b => some (d, word ((s.rd a).toNat * (s.rd b).toNat), 0)
  | .mulh false d a b => some (d, wordInt ((s.rd a).toInt * (s.rd b).toInt / 2 ^ 64), 0)
  | .mulh true d a b => some (d, word ((s.rd a).toNat * (s.rd b).toNat / 2 ^ 64), 0)
  | .div us d a b => some (d, if (s.rd b).toNat = 0 then word (2 ^ 64 - 1)
      else if us then word ((s.rd a).toNat / (s.rd b).toNat) else wordInt ((s.rd a).toInt.tdiv (s.rd b).toInt), 15)
  | .rem us d a b => some (d, if (s.rd b).toNat = 0 then s.rd a
      else if us then word ((s.rd a).toNat % (s.rd b).toNat) else wordInt ((s.rd a).toInt.tmod (s.rd b).toInt), 15)
  | .min false d a b => some (d, wordInt (min (s.rd a).toInt (s.rd b).toInt), 0)
  | .min true d a b => some (d, word (min (s.rd a).toNat (s.rd b).toNat), 0)
  | .max false d a b => some (d, wordInt (max (s.rd a).toInt (s.rd b).toInt), 0)
  | .max true d a b => some (d, word (max (s.rd a).toNat (s.rd b).toNat), 0)
  | .slt false d a b => some (d, if (s.rd a).toInt < (s.rd b).toInt then 1#64 else 0#64, 0)
  | .slt true d a b => some (d, if (s.rd a).toNat < (s.rd b).toNat then 1#64 else 0#64, 0)
  | .slti false d a i => some (d, if (s.rd a).toInt < immInt i then 1#64 else 0#64, 0)
  | .slti true d a i => some (d, if (s.rd a).toNat < (wordInt (immInt i)).toNat then 1#64 else 0#64, 0)
  | .sltiT4 false d a i => some (d, if (s.rd a).toInt < immInt i then 1#64 else 0#64, 0)
  | .sltiT4 true d a i => some (d, if (s.rd a).toNat < (wordInt (immInt i)).toNat then 1#64 else 0#64, 0)
  | .madd d a b => some (d, word ((s.rd d).toNat + (s.rd a).toNat * (s.rd b).toNat), 0)
  | .and d a b => some (d, bitwise .and (s.rd a) (s.rd b), 0)
  | .or d a b => some (d, bitwise .or (s.rd a) (s.rd b), 0)
  | .xor d a b => some (d, bitwise .xor (s.rd a) (s.rd b), 0)
  | .andn d a b => some (d, bitwise .andn (s.rd a) (s.rd b), 0)
  | .logi op d a i => some (d, bitwise op (s.rd a) (wordInt (immInt i)), 0)
  | .logiT4 op d a i => some (d, bitwise op (s.rd a) (wordInt (immInt i)), 0)
  | .shl d a b => some (d, word ((s.rd a).toNat * 2 ^ ((s.rd b).toNat % 64)), 0)
  | .shlImm d a n => some (d, word ((s.rd a).toNat * 2 ^ n.toNat), 0)
  | .shr d a b => some (d, word ((s.rd a).toNat / 2 ^ ((s.rd b).toNat % 64)), 0)
  | .shrImm d a n => some (d, word ((s.rd a).toNat / 2 ^ n.toNat), 0)
  | .sar d a b => some (d, wordInt ((s.rd a).toInt / 2 ^ ((s.rd b).toNat % 64)), 0)
  | .sarImm d a n => some (d, wordInt ((s.rd a).toInt / 2 ^ n.toNat), 0)
  | .rot d a b => some (d, word ((s.rd a).toNat * 2 ^ ((s.rd b).toNat % 64) + (s.rd a).toNat / 2 ^ (64 - (s.rd b).toNat % 64)), 0)
  | .rotImm d a n => some (d, word ((s.rd a).toNat * 2 ^ n.toNat + (s.rd a).toNat / 2 ^ (64 - n.toNat)), 0)
  | .clz d a => some (d, word ((List.range 64).reverse.takeWhile (fun i => !(s.rd a).getLsbD i)).length, 0)
  | .popc d a => some (d, word (((List.range 64).filter (s.rd a).getLsbD).length), 0)
  | .bfx sx d a p w =>
    if 1 ≤ w.toNat ∧ p.toNat + w.toNat ≤ 64 then
      some (d, if sx then wordInt (signedOf w.toNat ((s.rd a).toNat / 2 ^ p.toNat)) else word ((s.rd a).toNat / 2 ^ p.toNat % 2 ^ w.toNat), 0)
    else none
  | .mov d a => some (d, s.rd a, 0)
  | .movi d i => some (d, wordInt (immInt i), 0)
  | .moviT4 d i => some (d, wordInt (immInt i), 0)
  | .movhi k d i => some (d, word ((s.rd d).toNat / 2 ^ (16 * k.toNat + 16) * 2 ^ (16 * k.toNat + 16) + i.toNat * 2 ^ (16 * k.toNat)
      + (s.rd d).toNat % 2 ^ (16 * k.toNat)), 0)
  | .sel d a b => some (d, if (s.rd d).toNat = 0 then s.rd b else s.rd a, 0)
  | .lea d a i => some (d, wordInt ((if a = 0#5 then (lineAddr s.cpu.pc).toInt else (s.rd a).toInt) + immInt i), 0)
  | .leaT4 d a i => some (d, wordInt ((if a = 0#5 then (lineAddr s.cpu.pc).toInt else (s.rd a).toInt) + immInt i), 0)
  | .ids .core d => some (d, word s.cpu.core, 0)
  | .ids .die d => some (d, word (dieOf s.cpu.core), 0)
  | .ids .slot d => some (d, word (if isUtell s.cpu.core then 0 else s.cpu.slot), 0)
  | .ids .part d => some (d, word s.cpu.part, 0)
  | .ids .mod d => some (d, word s.modNum, 0)
  | .clk d => some (d, word s.now, 0)
  | .rng d a b => some (d, word (philox (s.rd a) (s.rd d) (s.rd b)), 7)
  | .cmp c d a b => some (d, if condHolds c (s.rd a) (s.rd b) then 1#64 else 0#64, 0)
  | .cmpImm c d a i => some (d, if condHolds c (s.rd a) (wordInt (immInt i)) then 1#64 else 0#64, 0)
  | .ext sz d a => if sz = .d then none else some (d, extended sz (s.rd a).toNat, 0)
  | _ => none

/-! ### Special registers (R128 to R138, R151) -/

/-- What `MOVS` reads of a special register other than WPTR and SSP, by its number (R128). -/
def specialReads (s : State) : List (Nat × Word) :=
  let k := s.core s.cpu.core
  [(0, s.cpu.sts), (1, s.cpu.tpc), (2, s.cpu.tcause), (3, s.cpu.tval), (6, word s.cpu.sid), (7, s.cpu.lid), (8, s.cpu.jmem),
   (9, s.cpu.khnd), (10, k.cyc), (11, k.msent), (12, k.mrecv), (13, k.icnt), (14, k.slb)]
    ++ k.lspa.toList.zipIdx.map (fun x => (16 + x.2, x.1))

/-- The state after `MOVT` has written a special register (R128, R129): the registers of a core are those of the current core, and
a write that R128 discards changes nothing. -/
def specialWritten (s : State) (sp : Nat) (v : Word) : State :=
  let c := s.cpu.core
  if sp = 1 then { s with cpu := { s.cpu with tpc := v } }
  else if sp = 2 then { s with cpu := { s.cpu with tcause := s.cpu.tcause &&& ~~~0xFF#64 ||| v &&& 0xFF#64 } }
  else if sp = 3 then { s with cpu := { s.cpu with tval := v } }
  else if sp = 7 then (if s.cpu.sup then { s with cpu := { s.cpu with lid := word (field v 31 0) } } else s)
  else if sp = 8 then { s with cpu := { s.cpu with jmem := v &&& 0xFF00FFFFFFFFFFFF#64 } }
  else if sp = 9 then { s with cpu := { s.cpu with khnd := v } }
  else if sp = 14 then s.setCore c { s.core c with slb := v }
  else if 16 ≤ sp ∧ sp < 24 then s.setCore c { s.core c with lspa := (s.core c).lspa.setIfInBounds (sp - 16) v }
  else s

/-- The special registers that need SUP (R93, R128). -/
def needsSup (sp : Nat) : Prop := sp = 14 ∨ (16 ≤ sp ∧ sp < 24)

/-! ### Row 4 and vector floating point (R162 to R175, R195 to R202) -/

/-- What row 4 computes: the register, its value with the flags raised, and the built-in hold (R157, R168 to R170). -/
def floatResult (s : State) : Instr → Option (Reg × (Nat × FFlags) × Nat)
  | .fadd r p d a b => some (d, (precFmt p).add (s.rmode r) (s.fpRd p a) (s.fpRd p b), 0)
  | .fsub r p d a b => some (d, (precFmt p).add (s.rmode r) (s.fpRd p a) ((precFmt p).flip (s.fpRd p b)), 0)
  | .fmul r p d a b => some (d, (precFmt p).mul (s.rmode r) (s.fpRd p a) (s.fpRd p b), 0)
  | .ffma r p d a b => some (d, (precFmt p).fma (s.rmode r) (s.fpRd p a) (s.fpRd p b) (s.fpRd p d), 0)
  | .fdiv r .s d a b => some (d, f32.div (s.rmode r) (s.fpRd .s a) (s.fpRd .s b), 7)
  | .fdiv r .d d a b => some (d, f64.div (s.rmode r) (s.fpRd .d a) (s.fpRd .d b), 15)
  | .fsqrt r .s d a => some (d, f32.sqrt (s.rmode r) (s.fpRd .s a), 7)
  | .fsqrt r .d d a => some (d, f64.sqrt (s.rmode r) (s.fpRd .d a), 15)
  | .fmin p d a b => some (d, (precFmt p).minmax false (s.fpRd p a) (s.fpRd p b), 0)
  | .fmax p d a b => some (d, (precFmt p).minmax true (s.fpRd p a) (s.fpRd p b), 0)
  | .fcmp c p d a b =>
    let r := (precFmt p).cmp c.toCode.toNat (s.fpRd p a) (s.fpRd p b)
    some (d, (if r.1 then 1 else 0, r.2), 0)
  | .fcvt k d a => some (d, fcvt k (rmOfCode s.cpu.rm) (s.rd a), 0)
  | .fsgn .cpy p d a b => some (d, (if (precFmt p).sign (s.fpRd p b) then s.fpRd p a % 2 ^ ((precFmt p).bits - 1) + 2 ^ ((precFmt p).bits - 1)
      else s.fpRd p a % 2 ^ ((precFmt p).bits - 1), 0#5), 0)
  | .fsgn .ncpy p d a b => some (d, (if (precFmt p).sign (s.fpRd p b) then s.fpRd p a % 2 ^ ((precFmt p).bits - 1)
      else s.fpRd p a % 2 ^ ((precFmt p).bits - 1) + 2 ^ ((precFmt p).bits - 1), 0#5), 0)
  | .fsgn .xsg p d a b => some (d, (if (precFmt p).sign (s.fpRd p a) = (precFmt p).sign (s.fpRd p b) then s.fpRd p a % 2 ^ ((precFmt p).bits - 1)
      else s.fpRd p a % 2 ^ ((precFmt p).bits - 1) + 2 ^ ((precFmt p).bits - 1), 0#5), 0)
  | .fcls p d a => some (d, (2 ^ (precFmt p).classBit (s.fpRd p a), 0#5), 0)
  | _ => none

/-- The OR of the flags of some results. -/
def flagsOf (l : List (Nat × FFlags)) : FFlags := l.foldl (fun acc x => acc ||| x.2) 0#5

/-- Lane `i`, of `w` bits, of a vector register of a state. -/
def State.lane (s : State) (w : Nat) (v : VReg) (i : Nat) : Nat := (s.vrd v).toNat / 2 ^ (w * i) % 2 ^ w

/-- Is lane `i` written under a vec operation's mask (R156)? -/
def State.writes (s : State) (m : VecM) (i : Nat) : Prop := ∀ k, m.mask = some k → (s.krd k).getLsbD i = true

/-- What row 5 computes, lane by lane (R171): the vec operation it counts as, its destination, and lane `i`. -/
def vectorLane (s : State) : Instr → Option (VecM × VReg × (Nat → Nat))
  | .vadd m d a b => some (m, d, fun i => s.lane (laneBits m.wide) a i + s.lane (laneBits m.wide) b i)
  | .vsub m d a b => some (m, d, fun i => 2 ^ laneBits m.wide + s.lane (laneBits m.wide) a i - s.lane (laneBits m.wide) b i)
  | .vmul m d a b => some (m, d, fun i => s.lane (laneBits m.wide) a i * s.lane (laneBits m.wide) b i)
  | .vand m d a b => some (m, d, fun i => s.lane (laneBits m.wide) a i &&& s.lane (laneBits m.wide) b i)
  | .vor m d a b => some (m, d, fun i => s.lane (laneBits m.wide) a i ||| s.lane (laneBits m.wide) b i)
  | .vxor m d a b => some (m, d, fun i => s.lane (laneBits m.wide) a i ^^^ s.lane (laneBits m.wide) b i)
  | .vshift .shl w d a b => some (⟨w, none⟩, d, fun i => s.lane (laneBits w) a i * 2 ^ (s.lane (laneBits w) b i % laneBits w))
  | .vshift .shr w d a b => some (⟨w, none⟩, d, fun i => s.lane (laneBits w) a i / 2 ^ (s.lane (laneBits w) b i % laneBits w))
  | .vshift .sar w d a b => some (⟨w, none⟩, d, fun i =>
      (signedOf (laneBits w) (s.lane (laneBits w) a i) / 2 ^ (s.lane (laneBits w) b i % laneBits w) % 2 ^ laneBits w).toNat)
  | .vshift .rot w d a b => some (⟨w, none⟩, d, fun i => s.lane (laneBits w) a i * 2 ^ (s.lane (laneBits w) b i % laneBits w)
      + s.lane (laneBits w) a i / 2 ^ (laneBits w - s.lane (laneBits w) b i % laneBits w))
  | .vminmax false true w d a b => some (⟨w, none⟩, d, fun i => min (s.lane (laneBits w) a i) (s.lane (laneBits w) b i))
  | .vminmax true true w d a b => some (⟨w, none⟩, d, fun i => max (s.lane (laneBits w) a i) (s.lane (laneBits w) b i))
  | .vminmax false false w d a b => some (⟨w, none⟩, d, fun i =>
      if signedOf (laneBits w) (s.lane (laneBits w) a i) < signedOf (laneBits w) (s.lane (laneBits w) b i)
      then s.lane (laneBits w) a i else s.lane (laneBits w) b i)
  | .vminmax true false w d a b => some (⟨w, none⟩, d, fun i =>
      if signedOf (laneBits w) (s.lane (laneBits w) a i) < signedOf (laneBits w) (s.lane (laneBits w) b i)
      then s.lane (laneBits w) b i else s.lane (laneBits w) a i)
  | .vsel w k d a b => some (⟨w, none⟩, d, fun i => if (s.krd k).getLsbD i then s.lane (laneBits w) a i else s.lane (laneBits w) b i)
  | .vbcast w d a => some (⟨w, none⟩, d, fun _ => (s.rd a).toNat)
  | .vperm w d a b => some (⟨w, none⟩, d, fun i => s.lane (laneBits w) a (s.lane (laneBits w) b i % laneCount w))
  | _ => none

/-- What the lane-wise forms of row 6 and of row 7 compute (R172, R173, R200): the vec operation, the destination, lane `i` with its
flags, and the built-in hold (R157). -/
def vectorFloatLane (s : State) : Instr → Option (VecM × VReg × (Nat → Nat × FFlags) × Nat)
  | .vfadd m d a b => some (m, d, fun i => (laneFmt m.wide).add s.rm (s.lane (laneBits m.wide) a i) (s.lane (laneBits m.wide) b i), 0)
  | .vfsub m d a b => some (m, d, fun i => (laneFmt m.wide).add s.rm (s.lane (laneBits m.wide) a i)
      ((laneFmt m.wide).flip (s.lane (laneBits m.wide) b i)), 0)
  | .vfmul m d a b => some (m, d, fun i => (laneFmt m.wide).mul s.rm (s.lane (laneBits m.wide) a i) (s.lane (laneBits m.wide) b i), 0)
  | .vffma m d a b => some (m, d, fun i => (laneFmt m.wide).fma s.rm (s.lane (laneBits m.wide) a i) (s.lane (laneBits m.wide) b i)
      (s.lane (laneBits m.wide) d i), 0)
  | .vfmin m d a b => some (m, d, fun i => (laneFmt m.wide).minmax false (s.lane (laneBits m.wide) a i) (s.lane (laneBits m.wide) b i), 0)
  | .vfmax m d a b => some (m, d, fun i => (laneFmt m.wide).minmax true (s.lane (laneBits m.wide) a i) (s.lane (laneBits m.wide) b i), 0)
  | .vfrcp m d a => some (m, d, fun i => (laneFmt m.wide).recip s.rm (s.lane (laneBits m.wide) a i), if m.wide then 15 else 7)
  | .vfrsq m d a => some (m, d, fun i => (laneFmt m.wide).rsqrt s.rm (s.lane (laneBits m.wide) a i), if m.wide then 15 else 7)
  | .vfexp m d a => some (m, d, fun i => (laneFmt m.wide).exp2 s.rm (s.lane (laneBits m.wide) a i), if m.wide then 19 else 11)
  | .vscale m d a b => some (m, d, fun i => (laneFmt m.wide).scale s.rm (s.lane (laneBits m.wide) a i)
      (signedOf (laneBits m.wide) (s.lane (laneBits m.wide) b i)), 0)
  | .vclamp m d a b => some (m, d, fun i => (laneFmt m.wide).clamp (s.lane (laneBits m.wide) a i) (s.lane (laneBits m.wide) b i), 0)
  | _ => none

/-- What the other vector-producing forms of rows 6 and 7 compute (R175, R198, R199, R201): the destination, the lane width, the lanes from
lane 0 on with their flags, those above being zero, and the built-in hold. -/
def vectorForm (s : State) : Instr → Option (VReg × Nat × List (Nat × FFlags) × Nat)
  | .vrng un d a b =>
    let ws := (List.range 16).map (fun i => philox (s.rd a) (s.rd b) (word (i / 4)) / 2 ^ (32 * (i % 4)) % 2 ^ 32)
    some (d, 32, ws.map (fun w => (if un then unif w else w, 0#5)), 7)
  | .vcvt f d a =>
    match s.cpu.srcFmt with
    | none => none
    | some src => (vcvt f src s.rm (s.vrd a)).map (fun r => (d, r.1, r.2, 0))
  | .vq8 f d a b =>
    let q := quantise32 f s.qmode (s.lane 32 d 0) none (lanes 32 16 (s.vrd a) ++ lanes 32 16 (s.vrd b))
    some (d, 8, (q.2.1 ++ [q.1]).zip (q.2.2 :: List.replicate 32 0#5), 7)
  | .vdq8 f d a b =>
    some (d, 32, (List.range 16).map (fun i =>
      rne32 (scaledNum f (s.lane 8 a 32) (s.lane 8 a (16 * ((s.rd b).toNat % 2) + i)))), 0)
  | .vpack f d a b => some (d, 8 * packSize f, (lanes 32 16 (s.vrd a) ++ lanes 32 16 (s.vrd b)).map (narrow f s.rm), 0)
  | .vunpk f d a b =>
    let w := 8 * packSize f
    some (d, 32, (List.range 16).map (fun i => widen f (s.lane w a (16 * ((s.rd b).toNat % (32 / w)) + i))), 0)
  | _ => none

/-- What the forms of rows 5 to 7 that write a scalar register compute (R161, R171, R174): the register, its value and flags, the
built-in hold. VLIVE stays as it was (R155). -/
def vectorScalar (s : State) : Instr → Option (Reg × (Nat × FFlags) × Nat)
  | .vextr w d a b => some (d, (s.lane (laneBits w) a ((s.rd b).toNat % laneCount w), 0#5), 0)
  | .vextrImm w d a j => if j.toNat < laneCount w then some (d, (s.lane (laneBits w) a j.toNat, 0#5), 0) else none
  | .vfred op w d a => some (d, redTree (redNode op (laneFmt w) s.rm) (if w then 3 else 4)
      ((List.range (laneCount w)).map (s.lane (laneBits w) a)), 8)
  | .kmovTx d a => some (d, ((s.krd a).toNat, 0#5), 0)
  | _ => none

/-- What the forms that write a mask register compute (R160, R161, R172): the mask, its bits from bit 0 on with their flags. -/
def maskResult (s : State) : Instr → Option (KReg × (Nat → Bool) × FFlags)
  | .vfcmp c w d a b =>
    let r (i : Nat) := (laneFmt w).cmp c.toCode.toNat (s.lane (laneBits w) a i) (s.lane (laneBits w) b i)
    some (d, fun i => decide (i < laneCount w) && (r i).1, flagsOf ((List.range (laneCount w)).map (fun i => (0, (r i).2))))
  | .kand .and d a b => some (d, fun i => (s.krd a).getLsbD i && (s.krd b).getLsbD i, 0#5)
  | .kand .or d a b => some (d, fun i => (s.krd a).getLsbD i || (s.krd b).getLsbD i, 0#5)
  | .kand .xor d a b => some (d, fun i => (s.krd a).getLsbD i != (s.krd b).getLsbD i, 0#5)
  | .kand .andn d a b => some (d, fun i => (s.krd a).getLsbD i && !(s.krd b).getLsbD i, 0#5)
  | .kmov d a => some (d, fun i => (s.krd a).getLsbD i, 0#5)
  | .kmovFx d a => some (d, fun i => (s.rd a).getLsbD i, 0#5)
  | _ => none

/-! ### Transfers and windows (R48, R53, R142 to R145) -/

/-- A transfer's target passes the check of R48: bits 63:57 clear, its line fetched, and an instruction of it named. -/
structure State.Target (s : State) (target : Word) (src : Option Found) (is : List Slotted) : Prop where
  high : field target 63 57 = 0
  line : s.lineOf (lineAddr target) = .ok src is
  first : 1 ≤ field target 5 0
  last : field target 5 0 ≤ is.length

/-- No slice end and no end of its launch takes the context at a safe point (R119, R257, R258). -/
def State.keepsSlot (s : State) : Prop := s.isSup = true ∨ (s.cpu.ending = false ∧ s.preempts = false)

/-- The target of a branch immediate: lines of 64 bytes forward or back, and an instruction of the line (R53). -/
def branchGoal (pc : Word) (imm : BrImm) : Word :=
  wordInt ((lineAddr pc).toInt + 64 * signedOf 11 (imm.toNat / 32) + imm.toNat % 32)

/-- A transfer that is taken (R142, R143): its target, and the register it writes. -/
def takenTransfer (s : State) : Instr → Option (Word × Option (Reg × Word))
  | .br target => some (branchGoal s.cpu.pc target, none)
  | .brc c a b target => if condHolds c (s.rd a) (s.rd b) then some (branchGoal s.cpu.pc target, none) else none
  | .jmp a => some (s.rd a, none)
  | .call target => some (branchGoal s.cpu.pc target, some (15#5, s.seqPc))
  | .callr a => some (s.rd a, some (15#5, s.seqPc))
  | .loop d target => if (s.rd d).toNat = 1 then none else some (branchGoal s.cpu.pc target, some (d, s.rd d - 1#64))
  | _ => none

/-- A conditional transfer that is not taken (R142, R143): the register it writes. -/
def untakenTransfer (s : State) : Instr → Option (Option (Reg × Word))
  | .brc c a b _ => if condHolds c (s.rd a) (s.rd b) then none else some none
  | .loop d _ => if (s.rd d).toNat = 1 then some (some (d, 0#64)) else none
  | _ => none

/-- The register numbers an optional write names. -/
def written (w : Option (Reg × Word)) : List Nat := w.toList.map (·.1.toNat)

/-- A register holds the value of an optional write, g0 reading as zero. -/
def holdsWrite (t : State) (w : Option (Reg × Word)) : Prop := ∀ d v, w = some (d, v) → t.rd d = if d = 0#5 then 0#64 else v

/-! ### Instructions that answer a register (R58, R94) -/

/-- An instruction whose effect leads to `s1` completes from there in `t`, with `v` as the answer to register `d` (R58). -/
def Answers (s1 t : State) (d : Reg) (v : Word) : Prop :=
  Completes s1 t 0 s1.seqPc [d.toNat] 0#64 [⟨[d.toNat].filter (· != 0), false, false, 0⟩] ∧ t.rd d = if d = 0#5 then 0#64 else v

/-- The refusal with a reason (R94): bit 63 and the reason in the low bits. -/
def refused (reason : Nat) : Word := (1#64 <<< 63) ||| word reason

/-! ### Strands, launches and messages (R96 to R125, R291 to R299) -/

/-- The level that a `SPAWN` asks for (R108). -/
def askedLevel (s : State) : SpawnPri → Nat
  | .inherit => field s.cpu.sts 10 9
  | .p0 => 0
  | .p1 => 1
  | .p2 => 2
  | .p3 => 3

/-- What `SPAWN` with a legal start PC and a legal destination does (R100, R106, R108): the state it leads to and the answer. -/
def spawned (s : State) (m : SpawnPri) (pl : Placed) (start : Word) : State × Word :=
  match s.part? s.cpu.part with
  | none => (s, refused 4)
  | some p =>
    if p.allows pl = false then (s, refused 4)
    else if p.squota ≤ s.quotaUsed p.num ∨ s.mayCreate pl.die p = false ∨ s.journalFull pl.die = true then (s, refused 1)
    else
      let sts := (s.cpu.sts &&& 0xD001#64) ||| word (512 * (max (askedLevel s m) p.pric % 4))
      let c := (s.release .part).create p pl.die pl.bound s.cpu.asid start s.cpu.lid sts
        [s.cpu.regs.get 8, s.cpu.regs.get 9, s.cpu.regs.get 10, s.cpu.regs.get 11]
      (c.1.journal pl.die 1 c.2, word c.2)

/-- What `LAUNCH` does once its record is read (R113). -/
def launched (s : State) (ws : List Word) : State × Word :=
  match s.part? s.cpu.part with
  | none => (s, refused 4)
  | some p =>
    match p.descRefusal ws s.here (some s.cpu.core) with
    | some r => (s, r)
    | none =>
      if s.launchBusy p s.here ws then (s, refused 1)
      else (s.release .part).acceptLaunch p s.here s.cpu.asid ws (some s.cpu.core) none s.cpu.sid s.cpu.lid

/-- A legal destination word without LOOP (R294), with the first payload register in range. -/
def legalDest (w : Word) (remote : Bool) (b : Reg) : Prop :=
  field w 63 32 = 0 ∧ bitOf w 31 = false ∧ field w 23 21 = 0 ∧ field w 15 13 = 0 ∧ field w 20 16 ≤ 24 ∧ field w 12 0 < 6240 ∧
    bitOf w 30 = false ∧ (remote = false → field w 29 24 = 0) ∧ b.toNat ≤ 29

/-- The header word of a message (R291, R295). -/
def headerWord (len kind ch smod core sid : Nat) : Word :=
  word (len * 2 ^ 59 + kind % 8 * 2 ^ 56 + ch % 4 * 2 ^ 54 + smod % 64 * 2 ^ 48 + 2 ^ 47 + core % 2 ^ 13 * 2 ^ 24 + sid % 2 ^ 24)

/-- The payload of a message: the first `n` bytes of three registers, zero above (R292, R295). -/
def payloadWords (n : Nat) (x y z : Word) : List Word :=
  let v := (x.toNat + y.toNat * 2 ^ 64 + z.toNat * 2 ^ 128) % 2 ^ (8 * n)
  [word v, word (v / 2 ^ 64), word (v / 2 ^ 128)]

/-- What `SEND` or `SENDX` with a legal destination does (R295): it is posted to this module's network, or to the links. -/
def sent (s : State) (remote : Bool) (ch : Nat) (w : Word) (x y z : Word) : State × Word :=
  let far := remote && decide (field w 29 24 ≠ s.modNum)
  let owned := match s.part? s.cpu.part with
    | some p => p.owns (field w 12 0)
    | none => false
  if far = true ∧ (s.pod.contains (field w 29 24) = false ∨ Config.farDenied s.tick = true) then (s, refused 4)
  else if far = false ∧ owned = false then (s, refused 4)
  else if far = true ∧ 256 ≤ s.linkOut.length ∧ Config.linkFull s.tick = true then (s, refused 1)
  else
    let ws := headerWord (field w 20 16) (if far then 1 else 0) ch s.modNum s.cpu.core s.cpu.sid :: payloadWords (field w 20 16) x y z
    let r := s.release .pod
    let r := if far then { r with linkOut := r.linkOut ++ [w :: ws] }
      else { r with wire := r.wire ++ [{ words := ws, ch, src := s.cpu.core, dst := field w 12 0, lid := s.cpu.lid, part := s.cpu.part }] }
    let r := r.modCore s.cpu.core (fun k => { k with msent := k.msent + 1#64 })
    (if far then r else r.modLaunch s.cpu.lid (fun l => if l.lost.contains (dieOf s.cpu.core) then l else { l with sent := l.sent + 1 }.on (dieOf s.cpu.core)), 0#64)

/-- What `SEND` with LOOP does in a supervisor context (R299): it replays a message, or ends overflow. -/
def looped (s : State) (w : Word) (b : Reg) : Option (State × Word) :=
  let c := s.cpu.core
  let k := s.core c
  if k.overflow = false then some (s, refused 3)
  else if bitOf w 30 then
    (if k.arrivals ≠ [] then some (s, refused 1) else some (s.setCore c { k with overflow := false }, 0#64))
  else if 64 ≤ k.inbox.length then some (s, refused 1)
  else
    let r (i : Nat) : Word := s.cpu.rdNum (b.toNat + i)
    if bitOf (r 0) 47 then
      some (s.placeMsg c { words := [r 0, r 1, r 2, r 3], ch := field (r 0) 55 54, src := field (r 0) 36 24, dst := c, lid := 0#64, part := s.cpu.part }, 0#64)
    else none

/-- The message that `RECV` takes (R296): the oldest in the inbox on an accepted channel, or the oldest of the arrival queue. -/
def receivable (s : State) (w : Word) : Option Msg :=
  if bitOf w 4 then (s.core s.cpu.core).arrivals.head? else (s.core s.cpu.core).inbox.find? (fun m => bitOf w m.ch)

/-- The state once `RECV` has taken its message (R296, R300). -/
def received (s : State) (w : Word) : State :=
  let c := s.cpu.core
  match receivable s w with
  | none => s
  | some m =>
    if bitOf w 4 then (s.setCore c { s.core c with arrivals := (s.core c).arrivals.tail }).countReceived c m
    else s.setCore c { s.core c with inbox := (s.core c).inbox.erase m }

/-! ### Barriers (R239, R240) -/

/-- The instance of a barrier that a descriptor names, for the issuing context, with its die (R239). -/
def barrierOf (s : State) (sc : Scope) (desc : Word) : Option (Nat × Barrier) :=
  (s.barUnit sc).map (fun u => (u.1, (s.die u.1).bar s.cpu.part (Scope.num sc) u.2 (field desc 27 24)))

/-- A legal descriptor that fits the open episode (R239). -/
def barrierFits (b : Barrier) (desc : Word) (bara : Bool) : Prop :=
  field desc 63 28 = 0 ∧ field desc 23 0 ≠ 0 ∧ (b.arrived = 0 ∨ (b.count = field desc 23 0 ∧ b.bara = bara))

/-- The instance after an arrival: the episode is opened or goes on, and the contribution is added (R239, R240). -/
def arrivedAt (b : Barrier) (desc : Word) (bara : Bool) (c : Word) : Barrier :=
  { b with count := field desc 23 0, bara, arrived := b.arrived + 1, sum := if b.arrived = 0 then c else b.sum + c }

/-- What the participants of an episode receive (R240): its generation, or the sum of the contributions. -/
def barrierAnswer (b : Barrier) : Word := if b.bara then b.sum else word b.gen

/-! ### Accesses (R207, R212, R219 to R228, R287) -/

/-- The value of `n` bytes from a location, low byte first, as an agent of die `d` reads them (R20, R207). -/
def State.value (s : State) (d : Nat) (l : Loc) (n : Nat) : Nat :=
  ((List.range n).map (fun i => (s.byteAt d (l.plus i)).toNat * 256 ^ i)).sum

/-- The effective address `Ra` + immediate, modulo 2^64 (R222). -/
def eaOf {w : Nat} (s : State) (a : Reg) (i : BitVec w) : Word := wordInt ((s.rd a).toInt + immInt i)

/-- Every address of an access is found, as a word of memory (R221). -/
structure Finds (find : Word → Found) (vas : List Word) (fs : List Found) : Prop where
  found : vas.map find = fs
  words : ∀ f ∈ fs, ∃ l va c, f = .at_ l va c

/-- No word that an element of `n` bytes touches is poisoned (R212). -/
def State.clean (s : State) (n : Nat) (fs : List Found) : Prop :=
  ∀ f ∈ fs, ∀ l va c, f = .at_ l va c → s.anyPoison l n = false

/-- The answer that an access leaves outstanding: ordinary, or relaxed after `RLX` (R58, R219, R220). -/
def accessReq (s : State) (ds : List Nat) : List Req := [⟨ds.filter (· != 0), !s.cpu.pfxr, s.cpu.pfxr, if s.cpu.pfxr then s.tick else 0⟩]

/-- The one-register loads (R222, R223, R224, R287): the size code, the destination, and what the address finds; the register of
a never-parking load's status. `LDX` and `STX` with the current module's number are `LD` and `ST`. -/
def scalarLoad (s : State) : Instr → Option (LdSize × Reg × Found × Option Reg)
  | .ld sz d a i => some (sz, d, s.locate (eaOf s a i) (ldBytes sz) .read, none)
  | .ldT4 sz d a i => some (sz, d, s.locate (eaOf s a i) (ldBytes sz) .read, none)
  | .ldl sz d a i => some (sz, d, s.locateLocal (eaOf s a i) (ldBytes sz) .read, none)
  | .ldx sz d a b i => if (s.rd b).toNat = s.modNum ∧ s.modNum < 64 then some (sz, d, s.locate (eaOf s a i) (ldBytes sz) .read, none) else none
  | .ldxT4 sz d a b i => if (s.rd b).toNat = s.modNum ∧ s.modNum < 64 then some (sz, d, s.locate (eaOf s a i) (ldBytes sz) .read, none) else none
  | .ldnp sz d a b i => some (sz, d, s.locate (eaOf s a i) (ldBytes sz) .read, some b)
  | .ldnpT4 sz d a b i => some (sz, d, s.locate (eaOf s a i) (ldBytes sz) .read, some b)
  | _ => none

/-- The one-register stores: the bytes, the value, what the address finds, and the register of a status. -/
def scalarStore (s : State) : Instr → Option (Nat × Word × Found × Option Reg)
  | .st sz a b i => some (stBytes sz, s.rd b, s.locate (eaOf s a i) (stBytes sz) .write, none)
  | .stT4 sz a b i => some (stBytes sz, s.rd b, s.locate (eaOf s a i) (stBytes sz) .write, none)
  | .stl sz a b i => some (stBytes sz, s.rd b, s.locateLocal (eaOf s a i) (stBytes sz) .write, none)
  | .stx sz d a b i =>
    if (s.rd d).toNat = s.modNum ∧ s.modNum < 64 then some (stBytes sz, s.rd b, s.locate (eaOf s a i) (stBytes sz) .write, none) else none
  | .stxT4 sz d a b i =>
    if (s.rd d).toNat = s.modNum ∧ s.modNum < 64 then some (stBytes sz, s.rd b, s.locate (eaOf s a i) (stBytes sz) .write, none) else none
  | .stnp sz d a b i => some (stBytes sz, s.rd b, s.locate (eaOf s a i) (stBytes sz) .write, some d)
  | .stnpT4 sz d a b i => some (stBytes sz, s.rd b, s.locate (eaOf s a i) (stBytes sz) .write, some d)
  | _ => none

/-- What an address that is not found does to its instruction (R203, R204, R393, R398, R399, R411): a trap, a wait as a fault waiter, the
conflict trap, or a wait for the write-back of its leaf. -/
def Unfound (s : State) (i : Instr) (f : Found) (k : Kind) : Prop :=
  (∀ cause v, f = .trap cause v → exec i s = .next (s.trap cause v)) ∧
  (∀ va w, f = .fail va w → exec i s = .next (s.faultWait va k w)) ∧
  (∀ va, f = .conflict va → exec i s = .next (s.conflictTrap va)) ∧
  ∀ l, f = .writeBack l → exec i s = .next { s with cpu := { s.cpu with wait := .writeBack l } }

/-- The multiples (R222): is it a store, the first register, how many more, and the address. -/
def multiple (s : State) : Instr → Option (Bool × Reg × Nat × Word)
  | .ldm n d a i => some (false, d, n.toNat, eaOf s a i)
  | .ldmT4 n d a i => some (false, d, n.toNat, eaOf s a i)
  | .stm n a b i => some (true, b, n.toNat, eaOf s a i)
  | .stmT4 n a b i => some (true, b, n.toNat, eaOf s a i)
  | _ => none

/-- The vector loads (R222): the vec operation, the destination, the address of lane `i` for elements of `e` bytes, and whether the
form is local. -/
def vectorLoad (s : State) : Instr → Option (VecM × VReg × (Nat → Nat → Word) × Bool)
  | .ldv m d a i => some (m, d, fun e j => eaOf s a i + word (e * j), false)
  | .ldvT4 m d a i => some (m, d, fun e j => eaOf s a i + word (e * j), false)
  | .ldvs m d a b i => some (m, d, fun _ j => eaOf s a i + word (j * (s.rd b).toNat), false)
  | .ldvsT4 m d a b i => some (m, d, fun _ j => eaOf s a i + word (j * (s.rd b).toNat), false)
  | .ldvg m d a b i => some (m, d, fun _ j => eaOf s a i + wordInt (signedOf (laneBits m.wide) (s.lane (laneBits m.wide) b j)), false)
  | .ldvgT4 m d a b i => some (m, d, fun _ j => eaOf s a i + wordInt (signedOf (laneBits m.wide) (s.lane (laneBits m.wide) b j)), false)
  | .ldlv m d a i => some (m, d, fun e j => eaOf s a i + word (e * j), true)
  | _ => none

/-- The vector stores (R222): the vec operation, the source, the address of lane `i`, and whether the form is local. -/
def vectorStore (s : State) : Instr → Option (VecM × VReg × (Nat → Nat → Word) × Bool)
  | .stv m a b i => some (m, b, fun e j => eaOf s a i + word (e * j), false)
  | .stvT4 m a b i => some (m, b, fun e j => eaOf s a i + word (e * j), false)
  | .stvs m d a b i => some (m, b, fun _ j => eaOf s a i + word (j * (s.rd d).toNat), false)
  | .stvsT4 m d a b i => some (m, b, fun _ j => eaOf s a i + word (j * (s.rd d).toNat), false)
  | .stvg m d a b i => some (m, b, fun _ j => eaOf s a i + wordInt (signedOf (laneBits m.wide) (s.lane (laneBits m.wide) d j)), false)
  | .stvgT4 m d a b i => some (m, b, fun _ j => eaOf s a i + wordInt (signedOf (laneBits m.wide) (s.lane (laneBits m.wide) d j)), false)
  | .stlv m a b i => some (m, b, fun e j => eaOf s a i + word (e * j), true)
  | _ => none

/-- Where a lane of a vector access is found. -/
def State.laneFound (s : State) (isLocal : Bool) (e : Nat) (k : Kind) (va : Word) : Found :=
  if isLocal then s.locateLocal va e k else s.locate va e k

/-- The elements of a vector access: their size and, for narrow elements, their format. No pending format, FP32 and INT32 leave the
lane's own size (R197). -/
def elementOf (s : State) (m : VecM) : Option (Nat × Option PackFmt) :=
  if s.cpu.pfxf = false then some (if m.wide then 8 else 4, none)
  else if m.wide then none
  else match s.cpu.pfxc with
    | 0 => some (4, none)
    | 9 => some (4, none)
    | 2 => some (2, some .bf16)
    | 3 => some (1, some .e4m3)
    | 4 => some (1, some .e5m2)
    | 7 => some (1, some .i8)
    | 8 => some (2, some .i16)
    | _ => none

/-- The lanes that a vector access transfers, lowest first (R223). -/
def State.transferred (s : State) (m : VecM) : List Nat := (List.range (laneCount m.wide)).filter (s.active m)

/-- What a full/empty access does to its word (R225). -/
inductive FullEmpty where
  /-- Loads of a full word; `empties` leaves it empty. -/
  | load (empties : Bool) (d : Reg)
  /-- A load with the bit itself in a second register. -/
  | status (d b : Reg)
  /-- A store that leaves the word full; `waits` for it to be empty. -/
  | store (waits : Bool) (v : Word)
  | set (full : Bool)

/-- The full/empty instructions (R225): what they do and the address. -/
def fullEmpty (s : State) : Instr → Option (FullEmpty × Word)
  | .ldfe d a i => some (.load true d, eaOf s a i)
  | .ldfeT4 d a i => some (.load true d, eaOf s a i)
  | .ldff d a i => some (.load false d, eaOf s a i)
  | .ldffT4 d a i => some (.load false d, eaOf s a i)
  | .ldfs d a b i => some (.status d b, eaOf s a i)
  | .ldfsT4 d a b i => some (.status d b, eaOf s a i)
  | .stef a b i => some (.store true (s.rd b), eaOf s a i)
  | .stefT4 a b i => some (.store true (s.rd b), eaOf s a i)
  | .stff a b i => some (.store false (s.rd b), eaOf s a i)
  | .stffT4 a b i => some (.store false (s.rd b), eaOf s a i)
  | .fesetE a i => some (.set false, eaOf s a i)
  | .fesetET4 a i => some (.set false, eaOf s a i)
  | .fesetF a i => some (.set true, eaOf s a i)
  | .fesetFT4 a i => some (.set true, eaOf s a i)
  | _ => none

/-- The atomics (R228): the scope, the destination, the address, and the new word from the old one. -/
def atomicForm (s : State) : Instr → Option (Scope × Reg × Word × (Word → Word))
  | .aadd sc d a b i => some (sc, d, eaOf s a i, fun o => word (o.toNat + (s.rd b).toNat))
  | .aaddT4 sc d a b i => some (sc, d, eaOf s a i, fun o => word (o.toNat + (s.rd b).toNat))
  | .amin sc d a b i => some (sc, d, eaOf s a i, fun o => wordInt (min o.toInt (s.rd b).toInt))
  | .aminT4 sc d a b i => some (sc, d, eaOf s a i, fun o => wordInt (min o.toInt (s.rd b).toInt))
  | .amax sc d a b i => some (sc, d, eaOf s a i, fun o => wordInt (max o.toInt (s.rd b).toInt))
  | .amaxT4 sc d a b i => some (sc, d, eaOf s a i, fun o => wordInt (max o.toInt (s.rd b).toInt))
  | .aand sc d a b i => some (sc, d, eaOf s a i, fun o => o &&& s.rd b)
  | .aandT4 sc d a b i => some (sc, d, eaOf s a i, fun o => o &&& s.rd b)
  | .aor sc d a b i => some (sc, d, eaOf s a i, fun o => o ||| s.rd b)
  | .aorT4 sc d a b i => some (sc, d, eaOf s a i, fun o => o ||| s.rd b)
  | .axor sc d a b i => some (sc, d, eaOf s a i, fun o => o ^^^ s.rd b)
  | .axorT4 sc d a b i => some (sc, d, eaOf s a i, fun o => o ^^^ s.rd b)
  | .aswp sc d a b i => some (sc, d, eaOf s a i, fun _ => s.rd b)
  | .aswpT4 sc d a b i => some (sc, d, eaOf s a i, fun _ => s.rd b)
  | .acas sc d a b i => some (sc, d, eaOf s a i, fun o => if o = s.rd d then s.rd b else o)
  | .acasT4 sc d a b i => some (sc, d, eaOf s a i, fun o => if o = s.rd d then s.rd b else o)
  | .afadd sc d a b i => some (sc, d, eaOf s a i, fun o => word (f64.add .rne o.toNat (s.rd b).toNat).1)
  | .afaddT4 sc d a b i => some (sc, d, eaOf s a i, fun o => word (f64.add .rne o.toNat (s.rd b).toNat).1)
  | _ => none

/-- The dirty bits of a written word's translation are set (R394, R396). -/
def State.dirtied (s : State) (c : Option (Comp × List Nat)) : State :=
  match c with
  | some (x, _) => s.setDirty x
  | none => s

/-- The hints (R288): the register, the address, and what is asked of the block. -/
inductive Hint where
  | pf | pin | unpin | ev
  deriving DecidableEq, Repr

/-- The eight forms of `BHINT` (R288). -/
def hintForm (s : State) : Instr → Option (Hint × Reg × Word)
  | .bhintPf d a i => some (.pf, d, eaOf s a i)
  | .bhintPfT4 d a i => some (.pf, d, eaOf s a i)
  | .bhintPin d a i => some (.pin, d, eaOf s a i)
  | .bhintPinT4 d a i => some (.pin, d, eaOf s a i)
  | .bhintUnpin d a i => some (.unpin, d, eaOf s a i)
  | .bhintUnpinT4 d a i => some (.unpin, d, eaOf s a i)
  | .bhintEv d a i => some (.ev, d, eaOf s a i)
  | .bhintEvT4 d a i => some (.ev, d, eaOf s a i)
  | _ => none

/-! ### Rows B to E: instructions that answer a register -/

/-- The instruction answers `v` in register `d`, from the state `s1` that its effect leads to. -/
def Gives (s : State) (i : Instr) (s1 : State) (d : Reg) (v : Word) : Prop :=
  s1.flows → ∃ t, exec i s = .next t ∧ Answers s1 t d v

/-- The instruction refuses with a reason and has no other effect (R94). -/
def Refuses (s : State) (i : Instr) (d : Reg) (reason : Nat) : Prop := Gives s i s d (refused reason)

/-- What the read of a record of `n` bytes does to its instruction where it does not read it: it ends where the read stops, and a record in
walked memory, or in a device page, is BADSHAPE. -/
def RecordStops (s : State) (i : Instr) (d : Reg) (va : Word) (n : Nat) : Prop :=
  (∀ s1, s.readRecord va n = .stopped s1 → exec i s = .next s1) ∧ (s.readRecord va n = .walked → Refuses s i d 2)

/-- Every access of the context in issue is performed and every result of it in place (R57, R121). -/
def State.performed (s : State) : State :=
  let s1 := s.drain (fun p => p.ctx == s.cur)
  { s1 with cpu := { s1.cpu.commit with outs := [] } }

/-- The instruction leads from `s` to `s1` and moves its strand to a core, or to the pool of a die (R121, R136, R380): it takes a kill that is
pending once the strand's accesses are performed, goes on in place, or completes, is flushed and leaves; a spill that faults stops it. -/
def Moves (s : State) (i : Instr) (s1 : State) (d : Reg) (die : Nat) (core : Option Nat) : Prop :=
  let s2 := s1.performed
  (s1.cpu.killable = true → exec i s = .next (s2.setPend d 0#64).killHere) ∧
  (s1.cpu.killable = false → core = some s1.cpu.core → Gives s i s2 d 0#64) ∧
  (s1.cpu.killable = false → core ≠ some s1.cpu.core → s2.flows →
    (∀ t, (s2.answerDone d 0#64).flush = .ok t →
      exec i s = .next (if die = s1.here then t.giveFlushed core else t.ship die core none)) ∧
    ∀ t u, (s2.answerDone d 0#64).flush = .stopped t → s2.flush = .stopped u → exec i s = .next u)

/-- The instruction leads from `s` to `s1` and waits there (R28 to R30, R140, R257, R380), `arrives` being what its wait leaves in the module:
in its slot, where a kill that is pending is taken; parked on its die with a CAUSE, once its registers are spilled; or, where no record is
free and no slot may be held, it takes the parking-full trap. -/
def Waits (s : State) (i : Instr) (s1 : State) (cause : Nat) (held : Wait) (arrives : State → State) (s2 : State) : Prop :=
  let t := arrives { s1 with cpu := { s1.cpu with wait := held } }
  (s1.longWait s1.here = .inSlot →
    (s1.isSup = true ∨ s1.cpu.killable = false → exec i s = .next t) ∧
    (s1.isSup = false → s1.cpu.killable = true → exec i s = .next t.killWait)) ∧
  (s1.longWait s1.here = .park →
    (s1.cpu.killable = true → exec i s = .next (arrives s1).killWait) ∧
    (∀ sid, s1.cur = .strand sid → s1.cpu.killable = false → s1.cpu.ending = true → exec i s = .next ((arrives s1).retire sid)) ∧
    (s1.cpu.killable = false → s1.cpu.ending = false →
      (s1.flush = .ok s2 → exec i s = .next ((arrives s2).parkOn cause s2.here)) ∧
      (s1.flush = .stopped s2 → exec i s = .next s2))) ∧
  (s1.longWait s1.here = .full → exec i s = .next (s1.trap 0x21 (word s1.here)))

/-- The movement instructions that submit a mailbox (R306): the kind, the mailbox, the register. -/
def moveForm : Instr → Option (Nat × BitVec 2 × Reg)
  | .copy mb d => some (0, mb, d)
  | .copys mb d => some (1, mb, d)
  | .deal mb d => some (2, mb, d)
  | .enck mb d => some (3, mb, d)
  | .deck mb d => some (4, mb, d)
  | .redc mb d => some (5, mb, d)
  | .bcast mb d => some (6, mb, d)
  | _ => none

/-- A request enters the journal and the queue of the current die, with the next number of its core (R304, R305). -/
def queued (s : State) (kind : Nat) (words prm : List Word) : State × Nat :=
  let n := (s.core s.cpu.core).seq + 1
  let s1 := s.modCore s.cpu.core (fun k => { k with seq := n })
  ((s1.journal s.here 5 (s.cpu.core * 2 ^ 48 + n)).modDie s.here (fun (x : Die) => { x with requests := x.requests ++
    [{ from_ := s.origin, kind, words, seq := n, prm }] }), n)

/-- A transfer armed by `TRIGARM` (R319): its counter, its threshold, and the request that fires. -/
def armedOf (s : State) (w : Word) (ws prm : List Word) (n : Nat) : Armed :=
  { cnum := field w 16 0, thresh := field w 63 24, move := { from_ := s.origin, kind := field w 19 17, words := ws, seq := n, prm } }

/-- A mailbox becomes free (R303, R305). -/
def mailFreed (s : State) (mb : BitVec 2) : State := s.modCore s.cpu.core (fun k => { k with mail := k.mail.set mb.toNat {} })

/-- A well-formed lease word (R316). -/
def LeaseWord (w : Word) (unlease : Bool) : Prop :=
  field w 63 48 = 0 ∧ field w 31 13 = 0 ∧ field w 7 5 = 0 ∧ field w 4 0 < 24 ∧ 1 ≤ field w 12 8 ∧ field w 12 8 ≤ 16 ∧
    (field w 47 32 = 0 ∨ (unlease = false ∧ 10 ≤ field w 47 32 ∧ field w 47 32 ≤ 10000))

/-- A task that is accepted (R336, R343): its number in its chain, its place in the die's order, the dependences that are decided. -/
def accepted (s : State) (die : Nat) (t : Task) : Task :=
  { t with seq := (chainOf (s.die die).chains t.part).next, order := (s.die die).orders, deps := s.decidedDeps ((t.words.drop 12).take t.ndep) }

/-- The state once a task is in its queue and in the journal (R336, R343). -/
def enqueued (s : State) (die : Nat) (t : Task) : State :=
  let c := chainOf (s.die die).chains t.part
  let s1 := s.modDie die (fun (x : Die) => { x with
    orders := x.orders + 1, tasks := x.tasks ++ [accepted s die t], chains := setChain x.chains { c with next := (c.next + 1) % 2 ^ 48 } })
  (s1.journal die 3 (chainName t.part c.next)).release .part

/-- The state once a run is in its queue and in the journal (R363). -/
def runQueued (s : State) (die : Nat) (r : Run) : State :=
  let c := chainOf (s.die die).runChains r.part
  let s1 := s.modDie die (fun (x : Die) => { x with
    orders := x.orders + 1, runChains := setChain x.runChains { c with next := (c.next + 1) % 2 ^ 48 }
    runs := x.runs ++ [{ r with seq := c.next, order := x.orders, deps := if r.depv then s.decidedDeps [r.w 9] else [] }] })
  ((s1.journal die 4 (chainName r.part c.next)).release .part)

/-- The task that a record describes for the issuing context (R328). -/
def taskOf (s : State) (ws prm : List Word) : Task :=
  { part := s.cpu.part, seq := 0, order := 0, from_ := s.origin, words := ws, prm, kb := field (ws.getD 11 0#64) 31 0 }

/-- The run that a control block describes for the issuing context (R350). -/
def runOf (s : State) (ws : List Word) : Run :=
  let r : Run := { part := s.cpu.part, seq := 0, order := 0, from_ := s.origin, words := ws, done := [] }
  { r with done := List.replicate r.nq 0 }

/-- A join that a live handle of the issuing context's partition names (R366). -/
def State.joinOf (s : State) (h : Nat) (die : Nat) (j : Join) : Prop := s.liveJoin h = some (die, j) ∧ j.from_.part = s.cpu.part

/-- The member that JMEM names may still act: it is the strand's own, and neither it nor its join is over (R373, R374). -/
def State.memberActs (s : State) (die : Nat) (j : Join) (m : Nat) : Prop :=
  s.joinOf (field s.cpu.jmem 47 0) die j ∧ m = field s.cpu.jmem 63 56 ∧ (j.member m).strand = some s.cpu.sid ∧
    (j.member m).state ≠ .arrived ∧ (j.member m).state ≠ .killed ∧ (j.member m).failed = false ∧ j.state = 0

/-- A strand has taken a synchronous trap (R243, R244, R246): its accesses are performed and its results in place, its registers, windows and
STS as they were, and it waits, suspended, with its PC unchanged; its core's queue has one event more, and its supervisor context goes on
where it waited for one. -/
structure TrapTaken (s t : State) (sid cause : Nat) (pc val : Word) : Prop where
  core : t.core s.cpu.core = { s.core s.cpu.core with
    events := (s.core s.cpu.core).events ++ [{ cause, slot := s.cpu.slot, pc, val }] }
  cores : ∀ c, c ≠ s.cpu.core → t.core c = s.core c
  cur : t.cur = .strand sid
  wait : t.cpu.wait = .suspended ∧ t.cpu.hold = 0 ∧ t.cpu.outs = []
  place : t.cpu.pc = s.cpu.pc ∧ t.cpu.core = s.cpu.core ∧ t.cpu.slot = s.cpu.slot ∧ t.cpu.place = s.cpu.place
  regs : (∀ n, t.cpu.reg n = s.cpu.settled n) ∧ t.cpu.fly = []
  windows : t.cpu.older = s.cpu.commit.older ∧ t.cpu.depth = s.cpu.depth ∧ t.cpu.ssp = s.cpu.ssp
  special : t.cpu.sts = s.cpu.sts ∧ t.cpu.lid = s.cpu.lid ∧ t.cpu.jmem = s.cpu.jmem ∧ t.cpu.khnd = s.cpu.khnd ∧ t.cpu.tpc = s.cpu.tpc ∧
    t.cpu.tcause = s.cpu.tcause ∧ t.cpu.tval = s.cpu.tval ∧ t.cpu.kill = s.cpu.kill
  posted : ∀ p ∈ t.posted, p.ctx ≠ .strand sid
  wakes : ∀ u, s.thread? (.sup s.cpu.core) = some u → (s.core s.cpu.core).supMode = .running → u.wait = .idle →
    ∃ v, t.thread? (.sup s.cpu.core) = some v ∧ v.wait = .none ∧ v.pc = u.pc

/-- A service answers `r` in o0, from the state `s1` that its effect leads to (R252). -/
def Serves (s : State) (i : Instr) (s1 : State) (r : Word) : Prop :=
  s1.flows → ∃ t, exec i s = .next t ∧ Completes s1 t 0 s1.seqPc [8] 0#64 [] ∧ t.rd 8#5 = r

/-- The instruction completes with no result, from the state `s1` that its effect leads to. -/
def Ends (s : State) (i : Instr) (s1 : State) : Prop := s1.flows → ∃ t, exec i s = .next t ∧ Completes s1 t 0 s1.seqPc [] 0#64 []

/-- `FQPOP` answers four words in consecutive registers (R403). -/
def GivesFour (s : State) (i : Instr) (s1 : State) (d : Reg) (ws : List Word) : Prop :=
  let ds := [d.toNat, d.toNat + 1, d.toNat + 2, d.toNat + 3]
  s1.flows → ∃ t, exec i s = .next t ∧ Completes s1 t 0 s1.seqPc ds 0#64 [⟨ds.filter (· != 0), false, false, 0⟩] ∧
    ∀ k < 4, d.toNat + k ≠ 0 → t.cpu.rdNum (d.toNat + k) = ws.getD k 0#64

/-- A valid node word (R429). -/
def NodeWord (w : Word) : Prop := field w 63 12 = 0 ∧ field w 4 0 < 24 ∧ field w 7 5 ≤ 4 ∧ field w 11 8 < 2 ^ field w 7 5

/-! ### Events of the module (R8): what each does, where it is due -/

/-- Does a piece of work wait at a fault (R399)? -/
def Hold.atEntry : Hold → Bool
  | .fault .. => true
  | _ => false

/-- What a queue port answers the write of a tag whose turn it is (R114, R430): a launch of the tag's ASID, a retry while the die is down or has
no room, and a log entry for another kind or for a descriptor that is not legal. -/
def servedWrite (s : State) (port : Nat) (q : QPort) (pasid : Nat) (ws : List Word) : State :=
  let answer (t : State) (a : Nat) : State := { t with qanswers := t.qanswers ++ [(port, pasid, a)] }
  match lookup pasid q.tags, s.part? q.part with
  | some asid, some p =>
    let d := p.dies.headD 0
    let desc := ws.take 8
    let entry := desc.headD 0#64
    if (s.die d).down = true ∨ s.journalFull d = true then answer s 1
    else if ws.getD 15 0#64 ≠ 0#64 then
      answer (s.faultLog p.num [logWord0 0x03 0 0xFFFF d 0x06, 0#64, word (field (ws.getD 15 0#64) 7 0), word port]) 0
    else if ((ws.drop 8).take 7).any (· != 0#64) = true ∨ field entry 63 57 ≠ 0 ∨ field entry 5 0 = 0 ∨ 31 < field entry 5 0 then
      answer (s.badDescriptor p d asid port desc (refused 2)) 0
    else match p.descRefusal desc d none with
      | some r => answer (s.badDescriptor p d asid port desc r) 0
      | none =>
        if s.launchBusy p d desc then answer s 1 else answer (s.acceptLaunch p d asid desc none (some port) 0xFFFFFF 0#64).1 0
  | _, _ => (answer s 2).mgmt 0x430 (word port) (word pasid)

/-- A queue port takes the write whose turn it is (R430), where that is a launch, or is none. -/
def servedNext (s : State) (port : Nat) (launch : Bool) : Option State :=
  (lookup port s.qports).bind (fun q => q.next.bind (fun (w, j) =>
    if (w.2.getD 15 0#64 = 0#64 ↔ launch = true) then
      let q1 := { q with waiting := q.waiting.erase w, last := j }
      some (servedWrite { s with qports := insert port q1 s.qports } port q1 w.1 w.2)
    else none))

/-- Launches, strands, messages, barriers and accesses from outside (R58, R111 to R117, R224, R240, R273, R298, R430, R433, R434). -/
def contactEvent (s : State) : Event → Option State
  | .queuePortLaunch port pasid off ws | .queuePortOtherKind port pasid off ws =>
    some (match (lookup port s.qports).filter (fun q => (lookup pasid q.tags).isSome && off == 0 && ws.length == 16) with
      | none => { s with qanswers := s.qanswers ++ [(port, pasid, 2)] }.mgmt 0x430 (word port) (word pasid)
      | some q =>
        if 64 ≤ (q.waiting.filter (fun w => w.1 == pasid)).length then { s with qanswers := s.qanswers ++ [(port, pasid, 1)] }
        else { s with qports := insert port { q with waiting := q.waiting ++ [(pasid, ws)] } s.qports })
  | .queuePortServe port => servedNext s port true
  | .queuePortServeOther port => servedNext s port false
  | .queuePortAssignment port part tags =>
    if tags.length ≤ 64 ∧ ∀ t ∈ tags, t.2 < 256 then
      some { s with qports := insert port { part, tags, waiting := ((lookup port s.qports).map (·.waiting)).getD [] } s.qports }
    else none
  | .launchStrandCreate lid =>
    (s.launch? (word lid)).bind (fun l => (s.part? l.part).bind (fun p =>
      if l.ended = false ∧ l.made < descCount l.desc ∧ (s.die (lid / 2 ^ 27)).portTurn l = true then some (s.createNext (lid / 2 ^ 27) l p) else none))
  | .launchSweep lid =>
    (s.launch? (word lid)).bind (fun l =>
      if s.now < l.sweptAt + 250 then none
      else if s.sweptClean l (word lid) = false then some (s.modLaunch (word lid) (fun l => { l with swept := none, sweptAt := s.now }))
      else if l.swept = some (l.sent, l.departed) then some (s.endLaunch (lid / 2 ^ 27) l)
      else some (s.modLaunch (word lid) (fun l => { l with swept := some (l.sent, l.departed), sweptAt := s.now })))
  | .strandArrival sid =>
    (s.thread? (.strand sid)).bind (fun t => match t.place with
      | .transit d bound block =>
        if (s.die d).down then none
        else
          let s1 := s.modLaunch t.lid (fun l => { l with arrived := l.arrived + 1 }.on d)
          if t.ending = true then some (s1.retire sid)
          else if t.doomed = some d then some ((s1.loseLaunch t.lid d).retire sid)
          else some (match block with
            | none => s1.enterPool d sid bound
            | some (k, stamp) =>
              let home := ((s1.part? k.part).map (fun p => p.homeDie k.blk)).getD d
              if t.killable = true then s1.enterPool (dieOf t.core) sid (some t.core)
              else if home ≠ d then s1.sendOn sid t d home bound block
              else if s1.resident d k = true then (s1.grantUse (.strand sid) k).releaseWaiter d ⟨.strand sid, stamp, .parked⟩
              else (s1.modThread (.strand sid) (fun t => { t with
                place := .parked (if ((s1.block? d k).map (·.faultPending)).getD false then 0x08 else 0x01) d
                parkedAt := s.tick })).joinQueue d k ⟨.strand sid, stamp, .parked⟩)
      | _ => none)
  | .messageArrival i =>
    (s.wire[i]?).bind (fun m =>
      if (s.die (dieOf m.dst)).down ∨ ∃ o ∈ s.wire.take i, o.src = m.src ∧ o.dst = m.dst ∧ o.ch = m.ch then none
      else some (({ s with wire := s.wire.eraseIdx i }.reach m.dst m).unlocked m))
  | .remoteMessage words src ch dst =>
    some { s with wire := s.wire ++ [{ words, ch, src, dst, lid := 0#64, part := ((s.owner dst).map (·.num)).getD 0 }] }
  | .arrivalQueueAdmit core =>
    let k := s.core core
    match k.netWait with
    | [] => none
    | m :: rest =>
      if 16 ≤ k.arrivals.length ∨ (s.die (dieOf core)).down then none
      else
        let s := s.setCore core { k with netWait := rest }
        some ((if k.overflow = false ∧ k.inbox.length < 64 then (s.placeMsg core m).countReceived core m
          else (s.modCore core (fun k => { k with overflow := true })).enterQueue core m).unlocked m)
  | .remoteBarrierArrival part scope unit bid n bara c =>
    let b := (s.die 0).bar part scope unit bid
    if n = 0 ∨ ¬ (b.arrived = 0 ∨ (b.count = n ∧ b.bara = bara)) ∨ ¬ (scope = 6 ∨ scope = 7) then none
    else
      let b := { b with count := n, bara, arrived := b.arrived + 1, sum := if b.arrived = 0 then c else b.sum + c }
      some (if b.arrived = n then s.releaseBar 0 b else s.modDie 0 (fun x => x.setBar b))
  | .remoteAccessArrival src part asid va size write =>
    some (s.arriveOutside { id := 0, from_ := 0, tag := src, die := ((s.part? part).map (fun p => p.dies.headD 0)).getD 0, part, asid, va := word va, size, write })
  | .hostAccess port pasid va size write =>
    (s.pasidOf port pasid).map (fun q =>
      s.arriveOutside { id := 0, from_ := 1, tag := port, die := if port = 0 then 0 else 5, part := q.1, asid := q.2, va := word va, size, write })
  | .storagePortAccess part asid va size write =>
    some (s.arriveOutside { id := 0, from_ := 2, tag := 0, die := 12, part, asid, va := word va, size, write })
  | .remoteAccessRetry id => some (s.retryOutside 0 id)
  | .hostAccessRetry id => some (s.retryOutside 1 id)
  | .storagePortRetry id => some (s.retryOutside 2 id)
  | .wordRequestAnswer c i =>
    let cause := Config.remoteCause s.tick
    (s.thread? c).map (fun t => match t.wait with
      | .remote _ va none => if cause ∈ [0x11, 0x12, 0x13, 0x14, 0x16] then s.trapWait c cause va else s.completeWait c []
      | .remote _ va (some (r, n, sx)) =>
        if cause ∈ [0x11, 0x12, 0x13, 0x14, 0x16] then s.trapWait c cause va else s.completeWait c [(r, if sx then wordInt (signedOf (8 * n) ((Config.remoteWord s.tick).toNat % 2 ^ (8 * n)))
          else word ((Config.remoteWord s.tick).toNat % 2 ^ (8 * n)))]
      | _ => s.modThread c (fun t => { t with outs := t.outs.eraseIdx i }))
  | .ldxTimeout c =>
    (s.thread? c).bind (fun t => match t.wait with
      | .remote sent va _ => if sent + 200000 ≤ s.now then some (s.trapWait c 0x13 va) else none
      | _ => none)
  | _ => none

/-- Memory, blocks, faults and read-to-act pages (R134, R229, R276 to R285, R402, R409 to R411, R414). -/
def memoryEvent (s : State) : Event → Option State
  | .postedWriteDrain d i =>
    (s.posted[i]?).bind (fun w =>
      if w.die ≠ d ∨ ∃ o ∈ s.posted.take i, o.die = d ∧ o.at_.overlaps o.size w.at_ w.size = true then none
      else
        let t := ({ s with posted := s.posted.eraseIdx i }.noteStore w.by_ w.at_ w.val w.size).writeCopy w.at_ w.val w.size
        some (if w.size = 32 then t.freshAtom w.at_ else t))
  | .spillSector core => (s.spillTarget core).map (fun c => ((s.focus c).spillSector).focus s.cur)
  | .slotPatienceExpiry c =>
    (s.thread? c).bind (fun t => match t.wait with
      | .word d until_ =>
        if s.now < until_ then none
        else
          let s1 := s.focus c
          let unqueued (t : State) : State := t.modDie d (fun x => { x with words := x.words.filter (fun w => w.ctx != c) })
          let s2 := match s1.longWait d with
            | .inSlot => s1
            | .full => (unqueued s1).parkingFull d
            | .park => (match s1.atWait with
              | some s2 => s2
              | none => (match s1.flush with
                | .stopped s2 => unqueued s2
                | .ok s2 => s2.parkOn 0x02 d))
          some (if (s2.thread? s.cur).isSome then s2.focus s.cur else s2)
      | _ => none)
  | .wordWaiterRetry c =>
    (s.thread? c).bind (fun t => if t.wait = .wordRetry then some (s.modThread c (fun t => { t with wait := .none })) else none)
  | .fetchStart d =>
    let x := s.die d
    if x.down ∨ field x.pewcfg 7 0 ≤ (x.blocks.filter (fun b => b.frame == .fetching)).length then none
    else (choose s.now (field x.pewcfg 51 32) (field x.pewcfg 31 16) x.blocks).bind (fun b =>
      if (x.blocks.filter (fun b => b.frame != .absent)).length < 6144 then some (s.setBlock d { b with frame := .fetching })
      else (bestOf (fun a b => a.idleSince < b.idleSince) (x.blocks.filter s.candidate)).map (fun v =>
        (s.setBlock d { b with frame := .fetching, victim := some v.key }).startEvict d v.key))
  | .fetchDone d k =>
    (s.block? d k).bind (fun b => (s.part? k.part).bind (fun p =>
      let comps := goodPages (s.fetchPages d p k)
      if b.frame ≠ .fetching ∨ b.victim.isSome ∨ badPages (s.fetchPages d p k) ≠ [] then none
      else
        let s1 := s.drain (fun w => comps.any (fun c => w.at_.overlaps w.size (.direct c.2.1.pa) 4096))
        let s2 := comps.foldl (fun (s : State) c => s.cacheComp d k.part k.asid c.1 c.2.1 c.2.2) s1
        let b2 := { b with
          frame := .resident, dirty := [], outs := comps.map (fun c => c.2.1.pa), queue := [], mark := none, idleSince := s2.now
          walks := comps.map (fun c => (c.2.1.gsize, c.2.2)) }
        let s3 := (s2.setBlock d { b2 with data := s2.frameData b2 }).mapDies (fun _ x => { x with words := x.words.map (fun w =>
          if w.part = k.part then { w with at_ := toFrame d b2 w.at_ } else w) })
        some (b.queue.foldl (fun (s : State) w => (s.grantUse w.ctx k).releaseWaiter d w) s3)))
  | .fetchFault d k =>
    (s.block? d k).bind (fun b => (s.part? k.part).bind (fun p =>
      let bad := badPages (s.fetchPages d p k)
      if b.frame ≠ .fetching ∨ bad = [] then none
      else
        let s1 := (s.setBlock d { b with frame := .absent, victim := none }).postPages d b bad
        let s2 := bad.foldl (fun (s : State) x => match s.lookupComp d p k.asid x.1 with
          | .conflict => s.logConflict d 0xFFFF k.part k.asid x.1 1
          | _ => s) s1
        some (s2.markParked b.queue 0x08)))
  | .writeBackDone d k =>
    (s.block? d k).bind (fun b => if b.frame = .writingBack then some ((s.backAtoms b).freeFrame d b).poisonWaiters else none)
  | .faultPostRetry d => if (s.die d).faults.length < 2048 then some (s.repost d) else none
  | .rtaArm c page v =>
    let t := (s.thread? c).getD {}
    let tok := (s.rtaPage page).1
    let s1 := s.setRta page (freshToken s.tick tok)
    some (if v.toNat = tok then s1 (some (c, s.now + 10000))
      else (s1 (s.rtaPage page).2).faultLog t.part [logWord0 0x03 0 t.core (dieOf t.core) 0x08, word (page + 0xFF8), v, 0#64])
  | .rtaActRead c page off =>
    let (tok, arm) := s.rtaPage page
    let answers (t : State) (v : Word) : State := { t with replies := t.replies ++ [v] }
    some (if off / 8 = 0x1FE then answers s (word tok)
      else if off / 8 = 0x1FF then answers s 0#64
      else match arm with
        | some (who, until_) =>
          if who = c ∧ s.now ≤ until_ then answers (s.setRta page tok none) (Config.deviceRead s.tick (page + off)) else answers s (refused 4)
        | none => answers s (refused 4))
  | .rtaArmExpiry page =>
    (s.rtaPage page).2.bind (fun a => if a.2 < s.now then some (s.setRta page (s.rtaPage page).1 none) else none)
  | .writeBackScan part asid va =>
    (s.part? part).bind (fun p =>
      match s.scanWait.find? (fun w => w.1 == part) with
      | some w => if w.2.1 = asid ∧ w.2.2.1 = va then some (s.scanEnd p asid va w.2.2.2.1 w.2.2.2.2) else none
      | none => (s.guestLeaf p asid va).bind (fun l =>
          if p.wbr ≠ 0 ∧ l.2.1.testBit 7 ∧ l.2.1.testBit 6 ∧ l.2.1.testBit 11 = false then some (s.scanLeaf p asid va l.2.2 l.1 l.2.1) else none))
  | .flashWriteComplete tag ok =>
    (s.wbTags.find? (fun t => t.2.1 == tag)).map (fun t =>
      let e := s.hbmWord t.2.2.1
      let e := if e.testBit 11 then e - 2 ^ 11 else e
      let e := if ok ∧ e.testBit 6 then e - 2 ^ 6 else e
      let s := { s with wbTags := s.wbTags.filter (fun t => t.2.1 != tag) }.writeLeaf t.2.2.2 t.2.2.1 e
      (s.dies.map (·.1)).foldl State.retryLate s)
  | _ => none

/-- Movement engines, matrix engines, joins and slices (R303 to R310, R316 to R319, R334 to R349, R358 to R381, R408). -/
def engineEvent (s : State) : Event → Option State
  | .movementDispatch d part =>
    let x := s.die d
    (x.requests.find? (fun m => m.from_.part == part && m.free)).bind (fun m =>
      ((x.held part).find? (fun e => (x.engine e).work.isNone && !x.down && !x.replan)).map (fun e =>
        let m1 := { m with qmode := some (m.qmode.getD (field s.msr 1 0)) }
        s.setDie d ({ x with requests := x.requests.erase m }.setEngine e { x.engine e with work := some m1 })))
  | .movementSegmentEnd d e =>
    (((s.die d).engine e).work).bind (fun m =>
      if m.over = true ∨ m.hold ≠ .none then none
      else match s.moveGo (m.agent d) m m.segLeft with
        | .ok t n => some (t.afterSegment d e n).serveWords
        | .stop t n k f => (match t.engineStop (n.agent d) k f with
          | (u, .end_ code detail) => some (u.afterSegment d e { n with err := some (code, detail) }).serveWords
          | (_, .wait _) => none))
  | .movementFault d e =>
    (((s.die d).engine e).work).bind (fun m =>
      if m.over = true ∨ m.hold ≠ .none then none
      else match s.moveGo (m.agent d) m m.segLeft with
        | .ok _ _ => none
        | .stop t n k f => (match t.engineStop (n.agent d) k f with
          | (_, .end_ _ _) => none
          | (u, .wait h) => some (u.modDie d (fun x => if h = .none then x.setEngine e { x.engine e with work := some n }
              else { x.idleEngine u.now e with requests := { n with hold := h } :: (x.idleEngine u.now e).requests })).serveWords))
  | .movementComplete d e =>
    let x := s.die d
    ((x.engine e).work).bind (fun m =>
      if m.over = false then none
      else
        let s1 := s.setDie d (x.idleEngine s.now e)
        let r := m.error.getD (0, 0#64)
        let status := word (boolNat (r.1 != 0) * 2 ^ 63 + r.1 * 2 ^ 48 + m.seq)
        some (s1.deliver {
          die := d, from_ := m.from_, form := m.form, chan := field (m.w 6) 3 2, target := m.w 7, kind := 2, src := 3
          seq := word m.seq, status, detail := r.2, flags := word m.flags, val := if r.1 = 0 then m.w 9 else status
          entry := some (5, moveName m.from_.core m.seq) }))
  | .leasePeriodEnd d e =>
    let x := s.die d
    let g := x.engine e
    if g.part.isNone ∨ s.now < g.until_ then none
    else if ∃ r ∈ x.standing, some r.1 ≠ g.part then
      some (s.setDie d (if g.work.isNone then x.freeEngine s.now e else x.setEngine e { g with giveBack := true }))
    else some (s.setDie d (x.setEngine e { g with until_ := s.now + g.period }))
  | .triggeredEnqueue d part =>
    let x := s.die d
    (x.armed.find? (fun a => a.fired && a.move.from_.part == part)).bind (fun a =>
      if 64 ≤ x.waiting part then none
      else some (s.setDie d { x with armed := x.armed.erase a, requests := x.requests ++ [a.move] }))
  | .movementEngineFailure d e =>
    let x := s.die d
    let lost := (x.engine e).work.toList.map (fun m => if m.over = true then m else { m with
      pos := m.pos / m.segUnits * m.segUnits, hold := .none, sec := 0, buf := if m.kind = 6 then m.buf else [] })
    some (s.setDie d { x.setEngine e { failed := true } with requests := lost ++ x.requests })
  | .taskKblockEnd d part seq =>
    (s.task? d part seq).bind (fun t =>
      if t.running = false ∨ t.nkb ≤ t.kb ∨ t.hold.atEntry = true then none
      else match s.engineWork d t with
        | .ok s1 t1 => some (s1.afterBlock d t1).reschedule
        | .bad s1 t1 code detail => some (s1.endTask d { t1 with loaded := [] } code detail).reschedule
        | .stop s1 t1 k f => (match s1.engineStop (t.agent d) k f with
          | (s2, .end_ code detail) => some (s2.endTask d { t1 with loaded := [] } code detail).reschedule
          | (_, .wait _) => none))
  | .taskFault d part seq =>
    (s.task? d part seq).bind (fun t =>
      if t.running = false ∨ t.hold ≠ .none then none
      else match s.engineWork d t with
        | .stop s1 t1 k f => (match s1.engineStop (t.agent d) k f with
          | (_, .end_ _ _) => none
          | (s2, .wait h) =>
            let t2 := { t1 with hold := h }
            let s3 := s2.modTask d part seq (fun _ => t2)
            some (match t2.killed with
              | some w => if t2.atFault then (s3.endTask d t2 7 w).reschedule else s3
              | none => s3.schedule d))
        | _ => none)
  | .taskComplete d part seq =>
    (s.task? d part seq).bind (fun t =>
      if t.running = false ∨ t.kb < t.nkb ∨ t.hold.atEntry = true then none
      else match s.engineWork d t with
        | .ok s1 t1 =>
          let r := if t1.malformed then (4, Config.malformedDetail s1.tick) else (0, 0#64)
          some ((s1.finishTask d t1 r.1 r.2 false).reschedule).serveWords
        | .bad s1 t1 code detail => some (s1.endTask d t1 code detail).reschedule
        | .stop s1 t1 k f => (match s1.engineStop (t.agent d) k f with
          | (s2, .end_ code detail) => some (s2.endTask d t1 code detail).reschedule
          | (_, .wait _) => none))
  | .engineFailure d quad =>
    let hit (r : Run) (u : SsmUnit) : Bool :=
      decide ((s.die d).engineOf (r.q0 + u.quad) = quad) && (match u.ops with | none => true | some o => decide (o.ys ≠ []))
    let s1 := (s.die d).runs.foldl (fun (s : State) r =>
      r.active.foldl (fun (s : State) u => if hit r u then s.leaveHold d u.hold else s) s) s
    some (s1.modDie d (fun x => { x with
      engFail := if x.engFail.contains quad then x.engFail else x.engFail ++ [quad]
      runs := x.runs.map (fun r => { r with active := r.active.map (fun u => if hit r u then { quad := u.quad, back := true } else u) }) }))
  | .ssmUnitEnd d part seq quad =>
    (s.run? d part seq).bind (fun r => (r.unitOf quad).bind (fun u =>
      if u.hold ≠ .none then none
      else match s.unitWork d r u with
        | .stop .. => none
        | .ok s1 st fl =>
          let r1 := { r with
            flags := r.flags ||| fl, states := insert (r.unitAt u).2 st r.states, active := r.active.filter (fun v => v.quad != u.quad)
            done := r.done.modify u.quad (· + 1) }
          some (if r1.done.sum = r1.units then s1.finishRun d r1 0 0#64 else s1.modRun d part seq (fun _ => r1)).reschedule.serveWords))
  | .ssmUnitFault d part seq quad =>
    (s.run? d part seq).bind (fun r => (r.unitOf quad).bind (fun u => match u.hold with
      | .fault .. => none
      | .gaveUp va => some (s.finishRun d r 1 (word va)).reschedule
      | .none => (match s.unitWork d r u with
        | .ok .. => none
        | .stop s1 u1 fl k f =>
          let r1 := { r with flags := r.flags ||| fl }
          (match s1.engineStop (r.agent d) k f with
          | (s2, .end_ code detail) => some (s2.finishRun d r1 code detail).reschedule.serveWords
          | (s2, .wait h) => some (s2.modRun d part seq (fun _ =>
              { r1 with active := r1.active.map (fun v => if v.quad = u.quad then { u1 with hold := h } else v) })).serveWords))))
  | .joinDeferredArrival d idx m =>
    ((s.die d).joins.find? (fun j => j.idx == idx)).bind (fun j =>
      let mem := j.member m
      if j.state ≠ 0 ∨ mem.state = .arrived ∨ mem.state = .killed then none
      else if mem.failed then some (s.straggle (j.handle d) m 4).reschedule
      else if mem.state = .arriving ∧ mem.waits = [] ∧ (j.replay = none ∨ j.inReplay m = true) then some (s.arrive d j m)
      else none)
  | .joinFoldDone d idx =>
    ((s.die d).joins.find? (fun j => j.idx == idx)).bind (fun j =>
      if j.state ≠ 1 then none
      else match j.hold with
        | .fault .. => none
        | .gaveUp va => some (s.foldEnd d j 1 (word va)).serveWords
        | .none => (match s.fold d j j.count with
          | .ok s1 j1 => some (s1.foldEnd d j1 0 0#64).serveWords
          | .stop s1 j1 k f => (match s1.engineStop (j.agent d) k f with
            | (s2, .end_ code detail) => some (s2.foldEnd d j1 code detail).serveWords
            | (_, .wait _) => none)))
  | .joinFoldFault d idx =>
    ((s.die d).joins.find? (fun j => j.idx == idx)).bind (fun j =>
      if j.state ≠ 1 ∨ j.hold ≠ .none then none
      else match s.fold d j j.count with
        | .ok .. => none
        | .stop s1 j1 k f => (match s1.engineStop (j.agent d) k f with
          | (_, .end_ _ _) => none
          | (s2, .wait h) => some (s2.modJoin (j.handle d) (fun _ => { j1 with hold := h })).serveWords))
  | .sliceExpiry core =>
    let k := s.core core
    if k.slicing = true ∧ k.sliceEnd = false ∧ k.slb.toInt ≤ 0 ∧ s.gangStopped core = false then some (s.endSlice core) else none
  | .sliceOverrun core =>
    let k := s.core core
    if k.sliceEnd = true ∧ k.overrun = false ∧ k.slots ≠ [] ∧ k.slb.toInt ≤ -(k.sliceLen : Int) ∧ s.gangStopped core = false then
      some ((s.modCore core (fun k => { k with overrun := true })).queueEvent core { cause := 0x43, val := word k.heldSlots })
    else none
  | _ => none

/-- Failures, resets and the module's own upkeep (R34 to R40, R123, R210 to R218, R248, R412, R435, R438). -/
def failureEvent (s : State) : Event → Option State
  | .linkPortFailure port => if port < 36 ∧ s.linkDown.contains port = false then some { s with linkDown := s.linkDown ++ [port] } else none
  | .dieReset d => if d < 24 ∧ (s.die d).down = false then some (s.resetDie d) else none
  | .dieReturn d => if (s.die d).down then some (s.returnDie d) else none
  | .hbmStackLoss n => if n < 32 ∧ s.lostStacks.contains n = false then some { s with lostStacks := s.lostStacks ++ [n] } else none
  | .rowRemapFailure stack bank base len bad =>
    let die := stackDie base
    some (if bad then
      (((s.ownersOf base len).foldl (fun (s : State) p => (s.faultLog p.num [logWord0 0x03 0 0xFFFF die 0x03, word stack, word bank, word base]).machineCheck
        p.num 0x214) ({ s with retired := s.retired ++ [(stack, bank, base, len)] }.countError stack 3)).poisonWaiters)
    else (s.ownersOf base len).foldl (fun (s : State) p => s.faultLog p.num [logWord0 0x03 0 0xFFFF die 0x02, word stack, word bank, 0#64]) s)
  | .scrubPass atom errors =>
    if dataPa (32 * atom) = false ∨ errors = 0 then none
    else some (if errors ≤ 2 then s.countError (32 * atom / 2 ^ 36) (errors - 1) else s.poisonHbm (32 * atom))
  | .accError d off =>
    if d < 24 ∧ off < 2 ^ 26 then
      let s1 := s.modDie d (fun x => { x with acc := x.acc.spoil s.tick off })
      some (match s1.owner (256 * d + 4 * (off / 2 ^ 20)) with
        | some p => s1.logPoison p.num d 0xFFFF 0 0
        | none => s1)
    else none
  | .parkError sid i =>
    (s.thread? (.strand sid)).bind (fun t => if t.place = .slot then none
      else some ((s.modThread (.strand sid) (fun t => t.spoilRecord s.tick i)).logPoison t.part t.standsOn 0xFFFF 0 0))
  | .localError core off =>
    if core < 6144 ∧ off < 2 ^ 18 then some (s.poisonWord (.loc core off) ((s.owner core).map (·.num)) (2 ^ 56 + off)) else none
  | .frameError d k off => if off < 32768 then some (s.poisonWord (.frame d k off) (some k.part) (k.blk + off)) else none
  | .clockStretch d sector =>
    some (s.modDie d (fun x => { x with
      stretched := if sector ∈ x.stretched then x.stretched.filter (· != sector) else x.stretched ++ [sector] }))
  | .vfReplan d =>
    if (s.die d).replan then some ((s.modDie d (fun x => { x with replan := false })).fillDie d).reschedule
    else if s.dieQuiet d then some (s.modDie d (fun x => { x with replan := true })) else none
  | .imageVerify img rsaOk slhOk =>
    some (if rsaOk ∧ slhOk then { s with image := some img }
      else { s with reports := s.reports ++ [img] }.mgmt 0x438 (word img) (word ((if rsaOk then 1 else 0) + if slhOk then 2 else 0)))
  | .moduleMemoryInit =>
    if s.memInited then none
    else some { s.drain (fun p => match p.at_ with | .direct _ => true | _ => false) with
      hbm := {}, ahashForce := s.ahash, memInited := true, clearing := [] }
  | .moduleReset => some s.moduleReset
  | .backgroundClearing atom => some { s with clearing := s.clearing.flatMap (clearAtom atom) }
  | .virtualFunctionReset base len _ => some (s.handOn base len)
  | .podFormation n members =>
    some (if n < 64 ∧ n ∈ members ∧ ∀ m ∈ members, m < 64 then { s with modNum := n, pod := members } else s.mgmt 0x435 (word n) 0#64)
  | _ => none

/-- Writes to registers of the module and of partitions (R217, R218, R248, R269, R276, R283, R425 to R427, R436, R437). -/
def controlEvent (s : State) : Event → Option State
  | .crst core v => if v = 1#64 ∧ core < 6240 then some (s.resetCore core) else some s
  | .msrWrite v => some (if field v 63 2 = 0 then { s with msr := v } else s.mgmt 0x436 0#64 v)
  | .ahashWrite j v =>
    some (if j < 6 ∧ s.memInited = false ∧ field v 63 36 = 0 ∧ field v 12 0 = 0 then { s with ahash := s.ahash.set j v } else s.mgmt 0x218 (word j) v)
  | .pewcfgWrite d v =>
    some (if d < 24 ∧ field v 63 52 = 0 ∧ field v 15 8 = 0 ∧ 1000 ≤ field v 51 32 ∧ field v 51 32 ≤ 1000000 ∧ 100 ≤ field v 31 16
      ∧ 1 ≤ field v 7 0 ∧ field v 7 0 ≤ 128 then s.modDie d (fun x => { x with pewcfg := v }) else s.mgmt 0x276 (word d) v)
  | .stackCounterClear stack i v => some (if v = 0#64 then { s with stackErr := erase (4 * stack + i) s.stackErr } else s)
  | .partitionRecordCommit p w15 =>
    let t : State := { s with prec := insert (16 * p + 15) w15 s.prec }
    let ws := (List.range 15).map (fun i => (lookup (16 * p + i) s.prec).getD 0#64) ++ [w15]
    let q := partOf ws
    if recordShape ws p ∧ t.part? p = none ∧ t.nodesFree q = true ∧ ∀ d ∈ q.dies, t.sumsAllow q d = true then
      (match t.trigRanges q q.dies with
      | some l =>
        let q := { q with trigBase := l }
        some (q.cores.foldl (fun s c => s.startCore q c) { t.takeNodes q with parts := s.parts ++ [q] })
      | none => some (t.mgmt 0x425 (word p) (ws.headD 0#64)))
    else some (t.mgmt 0x425 (word p) (ws.headD 0#64))
  | .partitionDissolve p v =>
    (match s.part? p with
    | some q => some (if v = 0#64 ∧ s.partIdle p = true then s.dissolve q else s.mgmt 0x426 (word p) v)
    | none => some (s.mgmt 0x426 (word p) v))
  | .hmapStore a p off size v =>
    (s.part? p).map (fun q =>
      let bs := (List.range 8).map (fun i => v.toNat / 256 ^ i % 256)
      if size = 8 ∧ ∀ b ∈ bs, q.dies.contains b = true then bs.zipIdx.foldl (fun s x => s.changeHome p (off / 8 * 8 + x.2) x.1) s
      else s.logControl a p off v)
  | .pinqStore a p off size v =>
    (s.part? p).map (fun q =>
      let d := (off - 0x1000) / 8
      if size = 8 ∧ q.dies.contains d = true ∧ v.toNat ≤ q.pquota ∧ s.pinned d p ≤ v.toNat then
        s.modPart p (fun q => { q with pinq := insert d v.toNat q.pinq })
      else s.logControl a p off v)
  | .controlRegionWrite a p off size v =>
    (s.part? p).map (fun _ =>
      if size ≠ 8 then s.logControl a p off v
      else if off = 0x1108 then s.modPart p (fun q => { q with flHead := v.toNat % (ringOf q.flogr).2 })
      else if off = 0x1208 then s.modPart p (fun q => { q with wbHead := v.toNat % (ringOf q.wbr).2 })
      else s)
  | _ => none

/-- The register of the service space at an offset, as the write of it (R217, R218, R248, R276, R426, R427, R437). -/
def serviceRegister (off : Nat) (v : Word) : Option Event :=
  if off % 8 ≠ 0 then none
  else if off = 0 then some (.msrWrite v)
  else if 0x1000 ≤ off ∧ off < 0x1030 then some (.ahashWrite ((off - 0x1000) / 8) v)
  else if 0x10000 ≤ off ∧ off < 0x12000 ∧ off % 0x100 < 32 then some (.stackCounterClear ((off - 0x10000) / 0x100) (off % 0x100 / 8) v)
  else if 0x20000 ≤ off ∧ off < 0x21800 ∧ off % 0x100 = 0 then some (.pewcfgWrite ((off - 0x20000) / 0x100) v)
  else if 0x100000 ≤ off ∧ off < 0x10C300 then some (.crst ((off - 0x100000) / 8) v)
  else if 0x1000080 ≤ off ∧ off < 0x1020000 ∧ off % 128 = 120 then some (.partitionRecordCommit ((off - 0x1000000) / 128) v)
  else if 0x2000008 ≤ off ∧ off < 0x2002000 then some (.partitionDissolve ((off - 0x2000000) / 8) v)
  else none

/-! ### The machine as a whole -/

/-- Memory is in order: every bank is in canonical form, and no local store's write is posted (R205, R229). -/
def State.memoryOk (s : State) : Prop := s.banksWf ∧ ∀ p ∈ s.posted, ∀ core off, p.at_ ≠ .loc core off

/-- The issue cycle of the context in issue as it begins (R16, R54): a cycle of its core passes, and the rotation stands at its slot. -/
def State.entering (s : State) : State :=
  let s1 := { s with turn := none }.cycle s.cpu.core
  (s1.modCore s.cpu.core (fun (k : Core) => { k with rr := s1.cpu.slot })).modCpu (fun t => { t with
    wait := .none, again := false, refetch := false, fresh := false })

/-- The instruction at the PC stands in the issue latch (R43, R44): `is` is its line, held from now on where `src` is where it was found,
and `sl` its head and tail. -/
def State.entered (s : State) (src : Option Found) (is : List Slotted) (sl : Slotted) : State :=
  (s.entering.holdLine (lineAddr s.cpu.pc) src is).modCpu (fun t => { t with
    head := sl.head, tail := sl.tail, lineN := is.length, curLine := some (t.lineKey (lineAddr s.cpu.pc)), issued := some (dieOf t.core) })

/-- Nothing keeps an instruction from issuing (R60): its opcode is illegal, which is the instruction's own effect, or none of the
other checks of R60 applies and no register it touches is pending (R58). -/
def State.issues (s : State) (sl : Slotted) (i : Instr) : Prop :=
  let op := (headOp sl.head).toNat
  op = 0 ∨ opReserved (headOp sl.head) = true ∨
    ((opNeedsSup op = true → s.cpu.sup = true) ∧ (opBarrelOnly op = true → isUtell s.cpu.core = false) ∧ badScope s.cpu.core i = false ∧
      s.cpu.prefixFits op = true ∧ (s.cpu.chk = true → s.cpu.undersized (s.cpu.sources s.isSup i) = none) ∧
      s.cpu.mustWait s.isSup op i = false)

/-- The end of a step: completion words that wait are served, and time passes (R152, R312). -/
def ended : Host.Outcome State Fault Refusal → Host.Outcome State Fault Refusal
  | .next t => .next t.serveWords.finish
  | .fault f => .fault f
  | .refused r => .refused r

/-- The worked line of R53's example: `add l0, o1, o2`, `addi o0, o0, #-3`, `nop !1`, `br top`. -/
def workedLine : List Byte :=
  [0x04#8, 0x00#8, 0x40#8, 0x10#8, 0x80#8, 0x12#8, 0x10#8, 0x01#8, 0x40#8, 0x02#8] ++ List.replicate 46 0x00#8
    ++ [0xE1#8, 0xFF#8, 0x08#8, 0x01#8, 0xFD#8, 0xFF#8, 0x30#8, 0x29#8]

/-- The worked loop line of the vector chapter, from `ldv v1, [l0+0]` to `loop l2, top`. -/
def workedLoop : List Byte :=
  [0x07#8, 0x00#8, 0x80#8, 0x81#8, 0x80#8, 0x81#8, 0x50#8, 0x63#8, 0x80#8, 0x12#8, 0x80#8, 0x12#8, 0x80#8, 0x91#8, 0x80#8, 0x0A#8]
    ++ List.replicate 22 0x00#8
    ++ [0x12#8, 0x00#8, 0x01#8, 0x00#8, 0x20#8, 0x0A#8, 0xC0#8, 0xFF#8, 0x31#8, 0x02#8]
    ++ [0x40#8, 0x00#8, 0x10#8, 0x02#8, 0x40#8, 0x00#8, 0x02#8, 0x04#8, 0x22#8, 0x02#8, 0x00#8, 0x00#8, 0x01#8, 0x02#8, 0x00#8, 0x00#8]

/-- The instructions of a line, as `DecodeLine` and the checks of R60 read them. -/
def lineInstrs (bytes : List Byte) : Option (List Decoded) :=
  (decodeLine bytes).map (fun l => l.map (fun sl => decodeInstr sl.head sl.tail))

end Sys2Proof.Machine
end

