-- ==== Sys2Proof/Certificates/Slice0/Obligations.lean ====
section
/-! DEFINITION. What is to be proved of the machine, each statement from the rules of the manual. -/

open Sys2Proof Sys2Proof.Machine

/-! ### Rows 0 to 3 -/

/-- R146 to R150, R152 and R153: for every form of rows 1 to 3 but those of the special registers, and every operand, the instruction
completes, its register holds what exact arithmetic gives, and nothing else changes (R141). R149 and R150: a bit field of no width or past
bit 63, and `EXT` of the whole register, raise the illegal-operand trap. -/
def Obligations.IntegerInstructions : Prop :=
  (∀ (s : State) (i : Instr) (d : Reg) (v : Word) (h : Nat), s.noPrefix → s.flows → intResult s i = some (d, v, h) →
     ∃ t, exec i s = .next t ∧ Completes s t h s.seqPc [d.toNat] 0#64 [] ∧ t.rd d = if d = 0#5 then 0#64 else v) ∧
  (∀ (s : State) (d a : Reg), s.noPrefix →
     (∀ (sx : Bool) (p : BitVec 6) (w : BitVec 7), w.toNat = 0 ∨ 64 < p.toNat + w.toNat →
       exec (.bfx sx d a p w) s = .next (s.trap 0x03 s.cpu.operandVal)) ∧
     exec (.ext .d d a) s = .next (s.trap 0x03 s.cpu.operandVal))

/-- R147: division by zero and the one signed overflow. -/
def Obligations.DivisionCorners : Prop :=
  ∀ (s : State) (us : Bool) (d a b : Reg), s.noPrefix → s.flows → d ≠ 0#5 →
    ∃ q r, exec (.div us d a b) s = .next q ∧ exec (.rem us d a b) s = .next r ∧
      (s.rd b = 0#64 → q.rd d = word (2 ^ 64 - 1) ∧ r.rd d = s.rd a) ∧
      (us = false → s.rd a = word (2 ^ 63) → s.rd b = word (2 ^ 64 - 1) → q.rd d = word (2 ^ 63) ∧ r.rd d = 0#64) ∧
      (s.rd b ≠ 0#64 → us = true → (s.rd a).toNat = (q.rd d).toNat * (s.rd b).toNat + (r.rd d).toNat) ∧
      (s.rd b ≠ 0#64 → us = false → ¬ (s.rd a = word (2 ^ 63) ∧ s.rd b = word (2 ^ 64 - 1)) →
        (s.rd a).toInt = (q.rd d).toInt * (s.rd b).toInt + (r.rd d).toInt)

/-- R128 and R151: `MOVS` reads every special register that R128 lists; SLB and the LSPAs need SUP, and a reserved number is illegal. A
pending prefix stays pending (R131). R128, R129, R151 and R205: `MOVT` to a register without a form of its own. A value of an LSPA with a
reserved bit set, or a LIM above 1,024, is illegal. -/
def Obligations.SpecialRegisters : Prop :=
  (∀ (s : State) (d : Reg) (sp : BitVec 6), s.flows → sp.toNat ≠ 4 → sp.toNat ≠ 5 →
     (∀ v, (sp.toNat, v) ∈ specialReads s → (needsSup sp.toNat → s.cpu.sup = true) →
       ∃ t, exec (.movs d sp) s = .next t ∧ Leaves s t 0 s.seqPc [d.toNat] 0#64 [] s.pending ∧ t.rd d = if d = 0#5 then 0#64 else v) ∧
     (needsSup sp.toNat → s.cpu.sup = false → exec (.movs d sp) s = .next (s.trap 0x07 (s.cpu.head.setWidth 64))) ∧
     (sp.toNat = 15 ∨ 24 ≤ sp.toNat → exec (.movs d sp) s = .next (s.trap 0x03 s.cpu.operandVal))) ∧
  (∀ (s : State) (a : Reg) (sp : BitVec 6), s.flows → sp.toNat ≠ 0 → sp.toNat ≠ 4 → sp.toNat ≠ 5 →
     let lspa : Prop := field (s.rd a) 45 27 = 0 ∧ field (s.rd a) 15 10 = 0 ∧ field (s.rd a) 26 16 ≤ 1024
     (sp.toNat < 24 → sp.toNat ≠ 15 → sp.toNat ≠ 6 → (needsSup sp.toNat → s.cpu.sup = true) →
       (16 ≤ sp.toNat → lspa) →
       ∃ t, exec (.movt sp a) s = .next t ∧ Leaves (specialWritten s sp.toNat (s.rd a)) t 0 s.seqPc [] 0#64 [] s.pending) ∧
     (sp.toNat = 6 ∨ (needsSup sp.toNat ∧ s.cpu.sup = false) →
       exec (.movt sp a) s = .next (s.trap 0x07 (s.cpu.head.setWidth 64))) ∧
     (sp.toNat = 15 ∨ 24 ≤ sp.toNat ∨ (16 ≤ sp.toNat ∧ s.cpu.sup = true ∧ ¬ lspa) →
       exec (.movt sp a) s = .next (s.trap 0x03 s.cpu.operandVal)))

/-- R131: `MOVT` to STS writes CHK, PRI down to the ceiling, ANUL, RM and the five flags, and SUP only where it is set; a reserved bit set
in the value is illegal. R131: a written PRI takes effect as the strand next joins a pool: a strand, flushed or not, joins at the level that
STS then holds, its entry waiting there unless it takes a slot at once; and neither `MOVS` nor `MOVT` consumes or clears a pending prefix,
whether it completes or traps. -/
def Obligations.WriteStatus : Prop :=
  (∀ (s : State) (a : Reg), s.flows →
     (field (s.rd a) 63 21 = 0 → bitOf (s.rd a) 3 = false →
       ∃ t w, exec (.movtSts a) s = .next t ∧ Leaves { s with cpu := { s.cpu with sts := w } } t 0 s.seqPc [] 0#64 [] s.pending ∧
         (∀ i < 64, i = 0 ∨ i = 12 ∨ i = 14 ∨ i = 15 ∨ (16 ≤ i ∧ i ≤ 20) → bitOf w i = bitOf (s.rd a) i) ∧
         (∀ i < 64, i ∈ [1, 2, 3, 4, 5, 6, 7, 8, 13] ∨ 21 ≤ i → bitOf w i = bitOf s.cpu.sts i) ∧
         bitOf w 11 = (s.cpu.sup && bitOf (s.rd a) 11) ∧
         field w 10 9 = (match s.part? s.cpu.part with
           | some p => max p.pric (field (s.rd a) 10 9) % 4
           | none => field (s.rd a) 10 9)) ∧
     (field (s.rd a) 63 21 ≠ 0 ∨ bitOf (s.rd a) 3 = true → exec (.movtSts a) s = .next (s.trap 0x03 s.cpu.operandVal))) ∧
  ((∀ (s : State) (d sid : Nat) (bound : Option Nat) (t : Thread), s.thread? (.strand sid) = some t →
     let e : PoolEntry := ⟨sid, field t.sts 10 9, bound, t.part⟩
     let u := s.enterPool d sid bound
     (∀ x ∈ (u.die d).pool, x ∈ (s.die d).pool ∨ x = e) ∧
     (t.doomed ≠ some d → e ∈ (u.die d).pool ∨ ∃ c sl, lookup sl (u.core c).slots = some sid)) ∧
   ∀ (s t : State) (d a : Reg) (sp : BitVec 6),
     exec (.movs d sp) s = .next t ∨ exec (.movt sp a) s = .next t ∨ exec (.movtSts a) s = .next t → t.pending = s.pending)

/-- R138: `MOVS` and `MOVT` of WPTR and SSP, once every window but the current one is spilled. The order of its effects is DEDUCED (log 94).
-/
def Obligations.StackSpecial : Prop :=
  ∀ (s s1 : State) (r : Reg), s.spillAllButCurrent = .ok s1 → s1.flows →
    (∃ t, exec (.movsWptr r) s = .next t ∧ Leaves s1 t 0 s1.seqPc [r.toNat] 0#64 [] s1.pending ∧
      t.rd r = if r = 0#5 then 0#64 else word (s1.cpu.depth * 2 ^ 16 + s1.cpu.zsz * 2 ^ 8 + (s1.cpu.older.length + 1))) ∧
    (∃ t, exec (.movsSsp r) s = .next t ∧ Leaves s1 t 0 s1.seqPc [r.toNat] 0#64 [] s1.pending ∧
      t.rd r = if r = 0#5 then 0#64 else s1.cpu.ssp) ∧
    ((s.rd r).toNat % 128 = 0 →
      ∃ t, exec (.movtSsp r) s = .next t ∧ Leaves { s1 with cpu := { s1.cpu with ssp := s.rd r } } t 0 s1.seqPc [] 0#64 [] s1.pending) ∧
    ((s.rd r).toNat % 128 ≠ 0 → exec (.movtSsp r) s = .next (s1.trap 0x10 (s.rd r))) ∧
    (field (s.rd r) 63 32 = 0 → field (s.rd r) 15 12 = 0 → field (s.rd r) 7 3 = 0 → (s1.cpu.sup = true → field (s.rd r) 11 8 ≤ 6) →
      ∃ t, exec (.movtWptr r) s = .next t ∧ Leaves { s1 with cpu := { s1.cpu with
        depth := field (s.rd r) 31 16, zsz := if s1.cpu.sup then field (s.rd r) 11 8 else s1.cpu.zsz } } t 0 s1.seqPc [] 0#64 [] s1.pending) ∧
    (field (s.rd r) 63 32 ≠ 0 ∨ field (s.rd r) 15 12 ≠ 0 ∨ field (s.rd r) 7 3 ≠ 0 ∨ (s1.cpu.sup = true ∧ 6 < field (s.rd r) 11 8) →
      exec (.movtWptr r) s = .next (s1.trap 0x03 s1.cpu.operandVal))

/-- R62, R61, R60: the four forms of `ILL` and the reserved opcodes raise the illegal-opcode trap. R63: `NOP` in its four forms changes
nothing but the PC. -/
def Obligations.IllegalAndNop : Prop :=
  (∀ (s : State) (i : Instr),
     ((∃ m, i = .ill m) ∨ i = .illT1 ∨ i = .illT2 ∨ i = .illT4 ∨ ∃ op m tl t, i = .reservedOpcode op m tl t) →
     exec i s = .next (s.trap 0x01 (s.cpu.head.setWidth 64))) ∧
  (∀ (s : State) (i : Instr), s.noPrefix → s.flows → i ∈ [.nop, .nopT1, .nopT2, .nopT4] →
     ∃ t, exec i s = .next t ∧ Completes s t 0 s.seqPc [] 0#64 [])

/-- R142 and R143: `BR`, `BRC`, `JMP`, `CALL`, `CALLR` and `LOOP` whose transfer is taken go to a target that passes the check of R48; a
call writes Rtn to o7, from a target read before. R142 and R143: a `BRC` whose condition fails changes nothing, and a `LOOP` that counts
down to zero leaves zero. R48: a taken transfer whose target has a high bit set, names no instruction of its line, or lies in bytes that are
no line or cannot be read has no effect but its trap, and one whose line fails its walk waits. It rests on log 103 of the model. -/
def Obligations.Transfers : Prop :=
  (∀ (s : State) (i : Instr) (target : Word) (w : Option (Reg × Word)) (src : Option Found) (is : List Slotted), s.noPrefix → s.keepsSlot →
     takenTransfer s i = some (target, w) → s.Target target src is →
     ∃ t, exec i s = .next t ∧ Completes (s.holdLine (lineAddr target) src is) t 0 target (written w) 0#64 [] ∧ holdsWrite t w) ∧
  (∀ (s : State) (i : Instr) (w : Option (Reg × Word)), s.noPrefix → s.flows → untakenTransfer s i = some w →
     ∃ t, exec i s = .next t ∧ Completes s t 0 s.seqPc (written w) 0#64 [] ∧ holdsWrite t w) ∧
  (∀ (s : State) (i : Instr) (target : Word) (w : Option (Reg × Word)), s.noPrefix → takenTransfer s i = some (target, w) →
     (field target 63 57 ≠ 0 → exec i s = .next (s.trap 0x05 target)) ∧
     (field target 63 57 = 0 → s.lineOf (lineAddr target) = .illegal → exec i s = .next (s.trap 0x02 target)) ∧
     (∀ c v, field target 63 57 = 0 → s.lineOf (lineAddr target) = .trap c v → exec i s = .next (s.trap c v)) ∧
     (∀ f, field target 63 57 = 0 → s.lineOf (lineAddr target) = .fail f → exec i s = .next (s.faultWait (lineAddr target) .exec f)) ∧
     (field target 63 57 = 0 → s.lineOf (lineAddr target) = .conflict → exec i s = .next (s.conflictTrap (lineAddr target))) ∧
     (∀ src is, field target 63 57 = 0 → s.lineOf (lineAddr target) = .ok src is → field target 5 0 = 0 ∨ is.length < field target 5 0 →
       exec i s = .next (s.trap 0x05 target)))

/-- R144: `SAVE`, with its forced spill where four windows are resident: the window below is the old one, its l and i registers kept with
what is in flight to them, and those below it are as they were. A stack that is full traps, and a spill that faults leaves nothing done.
R145: `RESTORE` and `RET` close a window, once the window below is resident: the old i registers are the o registers, and l and i are that
window's. `RET` goes to the target that i7 held, checked first (R48): a target that names no instruction, and a line that traps, fails its
walk or conflicts, stops it. The target's line is held once the transfer is made (R44). With no window below, both trap; a fill that cannot
be reached stops them. It rests on logs 27, 33 and 100 of the model. -/
def Obligations.Windows : Prop :=
  (∀ (s : State), s.noPrefix →
     (1024 * 2 ^ s.cpu.zsz < 128 * (s.cpu.depth + 2) + 192 →
       exec .save s = .next (s.trap 0x13 (s.cpu.ssp + word (128 * (s.cpu.depth - s.cpu.older.length)) - word (128 * (s.cpu.depth + 2) + 192)))) ∧
     (∀ s1 : State, 128 * (s.cpu.depth + 2) + 192 ≤ 1024 * 2 ^ s.cpu.zsz →
       (if s.cpu.older.length = 3 then s.spillOldest else .ok s) = .ok s1 → s1.flows →
       ∃ t, exec .save s = .next t ∧ t = { s1.countRetired with cpu := t.cpu } ∧ t.cpu.pc = s1.seqPc ∧ t.cpu.sts = s1.cpu.clearPrefix.sts ∧
         t.cpu.depth = s.cpu.depth + 1 ∧ t.cpu.ssp = s1.cpu.ssp ∧
         (∃ w : Window, t.cpu.commit.older = w :: s1.cpu.commit.older ∧
           ∀ k < 8, (w.l.toList.getD k 0#64).toNat = s1.cpu.settled (16 + k) ∧ (w.i.toList.getD k 0#64).toNat = s1.cpu.settled (24 + k)) ∧
         (∀ k < 8, t.cpu.settled k = s1.cpu.settled k ∧ t.cpu.settled (24 + k) = s1.cpu.settled (8 + k) ∧
           t.cpu.settled (8 + k) = 0 ∧ t.cpu.settled (16 + k) = 0) ∧
         ∀ n, 32 ≤ n → t.cpu.settled n = s1.cpu.settled n) ∧
     (∀ s1 : State, 128 * (s.cpu.depth + 2) + 192 ≤ 1024 * 2 ^ s.cpu.zsz → s.cpu.older.length = 3 → s.spillOldest = .stopped s1 →
       exec .save s = .next s1)) ∧
  (∀ (s : State), s.noPrefix →
     let closed (s1 t : State) (w : Window) (rest : List Window) : Prop :=
       t = { s1.countRetired with cpu := t.cpu } ∧ t.cpu.depth = s1.cpu.depth - 1 ∧ t.cpu.ssp = s1.cpu.ssp ∧
         t.cpu.commit.older = rest ∧ t.cpu.sts = s1.cpu.clearPrefix.sts ∧
         (∀ k < 8, t.cpu.settled k = s1.cpu.settled k ∧ t.cpu.settled (8 + k) = s1.cpu.settled (24 + k) ∧
           t.cpu.settled (16 + k) = (w.l.toList.getD k 0#64).toNat ∧ t.cpu.settled (24 + k) = (w.i.toList.getD k 0#64).toNat) ∧
         ∀ n, 32 ≤ n → t.cpu.settled n = s1.cpu.settled n
     (s.cpu.depth = 0 → exec .restore s = .next (s.trap 0x13 (word (s.cpu.wptr.toNat % 2 ^ 32)))) ∧
     (∀ va f, s.cpu.depth ≠ 0 → s.cpu.older = [] → s.firstStop .read [s.cpu.ssp] = some (va, f) →
       exec .restore s = .next (s.spillStop va .read f)) ∧
     (∀ s1 w rest, s.readyOlder = .ok s1 → s1.cpu.commit.older = w :: rest → s1.flows →
       ∃ t, exec .restore s = .next t ∧ closed s1 t w rest ∧ t.cpu.pc = s1.seqPc) ∧
     let target := s.rd 31#5
     (∀ s1 w rest src is, s.Target target src is → s.readyOlder = .ok s1 → s1.cpu.commit.older = w :: rest → s1.keepsSlot →
       ∃ t, exec .ret s = .next t ∧ closed (s1.holdLine (lineAddr target) src is) t w rest ∧ t.cpu.pc = target) ∧
     (∀ src is, s.Target target src is → s.cpu.depth = 0 →
       exec .ret s = .next (s.trap 0x13 (word (s.cpu.wptr.toNat % 2 ^ 32)))) ∧
     (field target 63 57 ≠ 0 → exec .ret s = .next (s.trap 0x05 target)) ∧
     (field target 63 57 = 0 → s.lineOf (lineAddr target) = .illegal → exec .ret s = .next (s.trap 0x02 target)) ∧
     (∀ c v, field target 63 57 = 0 → s.lineOf (lineAddr target) = .trap c v → exec .ret s = .next (s.trap c v)) ∧
     (∀ f, field target 63 57 = 0 → s.lineOf (lineAddr target) = .fail f → exec .ret s = .next (s.faultWait (lineAddr target) .exec f)) ∧
     (field target 63 57 = 0 → s.lineOf (lineAddr target) = .conflict → exec .ret s = .next (s.conflictTrap (lineAddr target))) ∧
     (∀ src is, field target 63 57 = 0 → s.lineOf (lineAddr target) = .ok src is → field target 5 0 = 0 ∨ is.length < field target 5 0 →
       exec .ret s = .next (s.trap 0x05 target)) ∧
     ∀ src is va f, s.Target target src is → s.cpu.depth ≠ 0 → s.cpu.older = [] → s.firstStop .read [s.cpu.ssp] = some (va, f) →
       exec .ret s = .next (s.spillStop va .read f))

/-! ### Rows 4 to 7 -/

/-- R157 and R168 to R170: for every form of row 4, the flags are raised at issue, the result is in place in the end, and nothing else
changes. -/
def Obligations.FloatResults : Prop :=
  ∀ (s : State) (i : Instr) (d : Reg) (r : Nat × FFlags) (h : Nat), s.noPrefix → s.flows → floatResult s i = some (d, r, h) →
    ∃ t, exec i s = .next t ∧ Completes s t h s.seqPc [d.toNat] (r.2.setWidth 64 <<< 16) [] ∧
      t.cpu.settled d.toNat = if d = 0#5 then 0 else r.1 % 2 ^ 64

/-- R155, R156 and R171: row 5, lane by lane, with its masks. -/
def Obligations.VectorIntegerLanes : Prop :=
  ∀ (s : State) (i : Instr) (m : VecM) (d : VReg) (f : Nat → Nat), s.noPrefix → isUtell s.cpu.core = false → s.flows →
    vectorLane s i = some (m, d, f) →
    ∃ t, exec i s = .next t ∧ Completes s t 0 s.seqPc [vNum d] 2#64 [] ∧
      ∀ j < laneCount m.wide,
        (s.writes m j → t.cpu.settled (vNum d) / 2 ^ (laneBits m.wide * j) % 2 ^ laneBits m.wide = f j % 2 ^ laneBits m.wide) ∧
        (¬ s.writes m j → t.cpu.settled (vNum d) / 2 ^ (laneBits m.wide * j) % 2 ^ laneBits m.wide = s.lane (laneBits m.wide) d j)

/-- R155, R156, R157, R165, R172, R173 and R200: the lane-wise floating-point forms, with their masks, flags and holds. It rests on log 10
of the model. -/
def Obligations.VectorFloatLanes : Prop :=
  ∀ (s : State) (i : Instr) (m : VecM) (d : VReg) (f : Nat → Nat × FFlags) (h : Nat), s.noPrefix → isUtell s.cpu.core = false →
    s.flows → vectorFloatLane s i = some (m, d, f, h) →
    ∃ (t : State) (fl : FFlags), exec i s = .next t ∧ Completes s t h s.seqPc [vNum d] ((fl.setWidth 64 <<< 16) ||| 2#64) [] ∧
      (∀ b < 5, fl.getLsbD b = true ↔ ∃ j < laneCount m.wide, s.writes m j ∧ (f j).2.getLsbD b = true) ∧
      ∀ j < laneCount m.wide,
        (s.writes m j → t.cpu.settled (vNum d) / 2 ^ (laneBits m.wide * j) % 2 ^ laneBits m.wide = (f j).1 % 2 ^ laneBits m.wide) ∧
        (¬ s.writes m j → t.cpu.settled (vNum d) / 2 ^ (laneBits m.wide * j) % 2 ^ laneBits m.wide = s.lane (laneBits m.wide) d j)

/-- R175, R198, R199 and R201: the other forms that write a vector register. `VCVT` takes a pending format as its source (R196). The scale
byte of a block with no finite element is DEDUCED (log 34). It also rests on log 110. -/
def Obligations.VectorForms : Prop :=
  ∀ (s : State) (i : Instr) (d : VReg) (w : Nat) (l : List (Nat × FFlags)) (h : Nat), isUtell s.cpu.core = false →
    s.cpu.pfxr = false → ((∃ f d a, i = .vcvt f d a) ∨ s.cpu.pfxf = false) → s.flows → vectorForm s i = some (d, w, l, h) →
    ∃ t, exec i s = .next t ∧ Completes s t h s.seqPc [vNum d] (((flagsOf l).setWidth 64 <<< 16) ||| 2#64) [] ∧
      t.cpu.settled (vNum d) = packNat w (l.map (·.1)) % 2 ^ 512

/-- R155, R161, R171 and R174: the forms of rows 5 to 7 that write a scalar register leave VLIVE as it was. -/
def Obligations.VectorScalars : Prop :=
  ∀ (s : State) (i : Instr) (d : Reg) (r : Nat × FFlags) (h : Nat), s.noPrefix → isUtell s.cpu.core = false → s.flows →
    vectorScalar s i = some (d, r, h) →
    ∃ t, exec i s = .next t ∧ Completes s t h s.seqPc [d.toNat] (r.2.setWidth 64 <<< 16) [] ∧
      t.cpu.settled d.toNat = if d = 0#5 then 0 else r.1 % 2 ^ 64

/-- R155, R160, R161 and R167: the forms that write a mask register. -/
def Obligations.MaskResults : Prop :=
  ∀ (s : State) (i : Instr) (d : KReg) (f : Nat → Bool) (fl : FFlags), s.noPrefix → isUtell s.cpu.core = false → s.flows →
    maskResult s i = some (d, f, fl) →
    ∃ t, exec i s = .next t ∧ Completes s t 0 s.seqPc [kNum d] ((fl.setWidth 64 <<< 16) ||| 2#64) [] ∧
      ∀ b < 16, (t.cpu.settled (kNum d)).testBit b = f b

/-- R159: `VDROP` zeroes every vector and mask register, cancels their results in flight and clears VLIVE. R195, R196 and R220: `FMT` marks
a format, replacing one that is pending, and `RLX` a relaxed access; each leaves the other pending. -/
def Obligations.VectorState : Prop :=
  (∀ (s : State), s.noPrefix → isUtell s.cpu.core = false → s.flows →
     ∃ t, exec .vdrop s = .next t ∧ Completes { s with cpu := { s.cpu with sts := s.cpu.sts &&& ~~~2#64 } } t 0 s.seqPc
         (List.range' 32 12) 0#64 [] ∧ ∀ n, 32 ≤ n → t.cpu.settled n = 0) ∧
  (∀ (s : State), isUtell s.cpu.core = false → s.flows →
     (∀ f : Fmt, ∃ t, exec (.fmt f) s = .next t ∧
       Leaves s t 0 s.seqPc [] 0#64 [] (word (f.toCode.toNat * 16 + 4) ||| s.cpu.sts &&& 0x100#64)) ∧
     ∃ t, exec .rlx s = .next t ∧ Leaves s t 0 s.seqPc [] 0#64 [] (s.cpu.sts &&& 0xF4#64 ||| 0x100#64))

/-! ### Strands, messages and barriers -/

/-- R94, R98, R100 and R108: `SPAWN`, from a register or a label. A start PC with bits 63:57 set or an index outside 1 to 31 traps, then a
destination that is none; a destination outside the partition is denied, and a full quota, a die without a record to give and a full journal
answer BUSY. Else a strand of the issuing context's launch, partition and address space starts at the PC with the four arguments in its i0
to i3, and its number is the answer. R106 and R107: the context of a new strand. It rests on logs 23 and 52 of the model. -/
def Obligations.Spawns : Prop :=
  (∀ (s : State) (m : SpawnPri) (d a : Reg) (start : Word) (i : Instr), s.noPrefix →
     ((∃ b, i = .spawn m d a b ∧ start = s.rd b) ∨ ∃ l, i = .spawnLabel m d a l ∧ start = branchGoal s.cpu.pc l) →
     (field start 63 57 ≠ 0 ∨ field start 5 0 < 1 ∨ 31 < field start 5 0 → exec i s = .next (s.trap 0x05 start)) ∧
     (field start 63 57 = 0 → 1 ≤ field start 5 0 → field start 5 0 ≤ 31 →
       (place (s.rd a) s.cpu.core = none → exec i s = .next (s.trap 0x03 s.cpu.operandVal)) ∧
       ∀ pl, place (s.rd a) s.cpu.core = some pl →
         (s.part? s.cpu.part = none → Refuses s i d 4) ∧
         ∀ p, s.part? s.cpu.part = some p →
           let busy := p.squota ≤ s.quotaUsed p.num ∨ s.mayCreate pl.die p = false ∨ s.journalFull pl.die = true
           (p.allows pl = false → Refuses s i d 4) ∧
           (p.allows pl = true → busy → Refuses s i d 1) ∧
           (p.allows pl = true → ¬ busy → (spawned s m pl start).1.flows →
             let x := s.die pl.die
             let sid := pl.die * 2 ^ 19 + x.freeRecs.headD x.nextRec
             ∃ t, exec i s = .next t ∧ Answers (spawned s m pl start).1 t d (word sid) ∧
               (s.cur ≠ .strand sid → ∃ c, t.thread? (.strand sid) = some c ∧ c.pc = start ∧ c.lid = s.cpu.lid ∧ c.part = p.num ∧
                 c.asid = s.cpu.asid ∧ c.sts = (s.cpu.sts &&& 0xD001#64) ||| word (512 * (max (askedLevel s m) p.pric % 4)) ∧
                 c.home = pl.bound ∧ ∀ k < 4, c.reg (24 + k) = s.cpu.reg (8 + k))))) ∧
  (∀ (p : Part) (sid asid : Nat) (pc lid sts a b c e : Word),
     let t := newThread p sid asid pc lid sts [a, b, c, e]
     (∀ k, t.settled k = if k = 24 then a.toNat else if k = 25 then b.toNat else if k = 26 then c.toNat else if k = 27 then e.toNat else 0) ∧
       t.pc = pc ∧ t.sts = sts ∧ t.lid = lid ∧ t.sid = sid ∧ t.jmem = 0#64 ∧ t.khnd = 0#64 ∧ t.tpc = 0#64 ∧ t.tcause = 0#64 ∧ t.tval = 0#64 ∧
       t.depth = 0 ∧ t.older = [] ∧
       t.ssp = p.spbase + word (((p.dies.takeWhile (· != sid / 2 ^ 19)).length * 524288 + sid % 2 ^ 19 + 1) * (1024 * 2 ^ p.zsz)))

/-- R94, R109, R110, R112 and R113: `LAUNCH` reads its descriptor. A misaligned address traps, one of walked memory or of a device is
BADSHAPE, and what stops the read stops the instruction; an ENTRY with bits 63:57 set or an index outside 1 to 31 is BADSHAPE, as is any
other field outside its rule, and places outside the partition are denied; no room answers BUSY. Else the launch has an entry, and its id is
the answer. It rests on logs 15, 47, 52, 95, 106, 107 and 125 of the model. -/
def Obligations.Launches : Prop :=
  ∀ (s : State) (d a : Reg), s.noPrefix →
    let i : Instr := .launch d a
    ((s.rd a).toNat % 64 ≠ 0 → exec i s = .next (s.trap 0x10 (s.rd a))) ∧
    ((s.rd a).toNat % 64 = 0 →
      RecordStops s i d (s.rd a) 64 ∧
      ∀ s1 ws, s.readRecord (s.rd a) 64 = .ok s1 ws →
        (s1.part? s1.cpu.part = none → Gives s i s1 d (refused 4)) ∧
        ∀ p, s1.part? s1.cpu.part = some p →
          let entry := ws.headD 0#64
          let refusal := p.descRefusal ws s1.here (some s1.cpu.core)
          (field entry 63 57 ≠ 0 ∨ field entry 5 0 < 1 ∨ 31 < field entry 5 0 → Gives s i s1 d (refused 2)) ∧
          (∀ r, refusal = some r → Gives s i s1 d r) ∧
          (refusal = none → s1.launchBusy p s1.here ws = true → Gives s i s1 d (refused 1)) ∧
          (refusal = none → s1.launchBusy p s1.here ws = false → s1.cpu.core < 6240 →
            Gives s i (launched s1 ws).1 d (launched s1 ws).2 ∧
            ∃ l, (launched s1 ws).1.launch? (launched s1 ws).2 = some l ∧ l.desc = ws ∧ l.part = p.num ∧ l.asid = s1.cpu.asid ∧
              l.by_ = some s1.cpu.core ∧ l.sid = s1.cpu.sid ∧ l.parent = s1.cpu.lid ∧ l.made = 0 ∧ l.ended = false))

/-- R57, R100, R121 and R380: `MIGRATE`. It is denied in a supervisor context and for a core outside the partition; a destination that names
no core is an illegal operand. Else every access of the strand is performed and every result is in place; a kill is taken then; the strand
goes on in place at its own core with the answer zero, or completes, is flushed, and leaves its slot for the pool of its die or as a tiny
context for another. A spill that faults leaves nothing done. R121 and R203: `MIGRATE.near` to an address of the local-store aperture goes
to the pool of the current die, to a walked address to that of its home die, to a direct address to that of its stack's die, and to a
device's to that of its port's die. It is denied in a supervisor context and for a die outside the partition; a bad address traps, a walk
that fails waits, and two cached translations that disagree trap. It rests on logs 14, 36 and 55 of the model. -/
def Obligations.Migrations : Prop :=
  (∀ (s : State) (d a : Reg), s.noPrefix →
     (s.isSup = true → Refuses s (.migrate d a) d 4) ∧
     (s.isSup = false →
       (field (s.rd a) 15 13 = 1 ∨ field (s.rd a) 15 13 = 2 ∨ place (s.rd a) s.cpu.core = none →
         exec (.migrate d a) s = .next (s.trap 0x03 s.cpu.operandVal)) ∧
       ∀ core, place (s.rd a) s.cpu.core = some (.core core) →
         ((∀ p, s.part? s.cpu.part = some p → p.owns core = false) → Refuses s (.migrate d a) d 4) ∧
         ∀ p, s.part? s.cpu.part = some p → p.owns core = true → Moves s (.migrate d a) s d (dieOf core) (some core))) ∧
  (∀ (s : State) (d a : Reg), s.noPrefix →
     let i : Instr := .migrateNear d a
     let va := s.rd a
     (s.isSup = true → Refuses s i d 4) ∧
     (s.isSup = false → field va 63 57 ≠ 0 ∨ (bitOf va 56 = true ∧ field va 55 18 ≠ 0) → exec i s = .next (s.trap 0x13 va)) ∧
     (s.isSup = false → field va 63 57 = 0 → (bitOf va 56 = true → field va 55 18 = 0) →
       (s.part? s.cpu.part = none → Refuses s i d 4) ∧
       ∀ p, s.part? s.cpu.part = some p →
         let goes (s1 : State) (die : Nat) : Prop :=
           (p.dies.contains die = false → Gives s i s1 d (refused 4)) ∧ (p.dies.contains die = true → Moves s i s1 d die none)
         (bitOf va 56 = true → goes s s.here) ∧
         (bitOf va 56 = false →
           (∀ f, s.lookupComp s.here p s.cpu.asid va.toNat = .fail f → exec i s = .next (s.faultWait va .read f)) ∧
           (s.lookupComp s.here p s.cpu.asid va.toNat = .conflict → exec i s = .next (s.conflictTrap va)) ∧
           ∀ c ipas, s.lookupComp s.here p s.cpu.asid va.toNat = .ok c ipas →
             let s1 := s.cacheComp s.here p.num s.cpu.asid va.toNat c ipas
             let pa := c.pa + va.toNat % 4096
             (c.w = true → goes s1 (p.homeDie va.toNat)) ∧
             (c.w = false → pa < 2 ^ 41 → goes s1 (stackDie pa)) ∧
             (c.w = false → 2 ^ 41 ≤ pa → goes s1 (deviceDie s.here pa)))))

/-- R115, R119, R120, R136, R257, R258 and R261: `QUIT` retires its strand, `YIELD` and `KPT` go on where nothing takes the slot, and
`YIELD` gives it up to an entry of its level or above. Both are safe points: a strand whose launch is being ended is retired there, and one
whose core's slice has ended is flushed and gives its slot up; a flush that faults leaves nothing done. That an instruction at which a kill
is taken counts as retired is DEDUCED (log 55). It also rests on log 131. -/
def Obligations.StrandEnds : Prop :=
  ∀ (s : State), s.noPrefix →
    (∀ c, s.cur = .sup c → exec .quit s = .next (s.trap 0x01 (s.cpu.head.setWidth 64))) ∧
    (∀ sid, s.cur = .strand sid → exec .quit s = .next (s.countRetired.retire sid)) ∧
    (s.flows → s.keepsSlot → (s.isSup = true ∨ s.cpu.vlive = true ∨ s.yieldsTo = false) →
      ∃ t, exec .yield s = .next t ∧ Completes s t 0 s.seqPc [] 0#64 []) ∧
    (∀ i sid, s.cur = .strand sid → s.flows → i = .yield ∨ (i = .kpt ∧ s.cpu.killable = false) →
      (s.cpu.ending = true → exec i s = .next (s.done.retire sid)) ∧
      (s.cpu.ending = false → s.preempts = true ∨ (i = .yield ∧ s.cpu.vlive = false ∧ s.yieldsTo = true) →
        (∀ s2, s.done.flush = .ok s2 → exec i s = .next (s2.giveFlushed (some s2.cpu.core))) ∧
        ∀ s2 s3, s.done.flush = .stopped s2 → s.flush = .stopped s3 → exec i s = .next s3)) ∧
    (s.flows → s.keepsSlot → s.cpu.killable = false → ∃ t, exec .kpt s = .next t ∧ Completes s t 0 s.seqPc [] 0#64 []) ∧
    (s.cpu.killable = true → exec .kpt s = .next s.killHere)

/-- R292, R294 and R295: `SEND` in its table's three forms and `SENDX`, with a destination word without LOOP. What the sums of a launch
count, when the queue to the links is full, and the order of refusals are the model's (logs 48, 49, 50). R299: `SEND` with LOOP replays a
message into its core's inbox or, with END, ends overflow; it needs SUP. -/
def Obligations.Sends : Prop :=
  (∀ (s : State) (ch : BitVec 2) (d a b : Reg) (i : Instr) (remote : Bool), s.noPrefix →
     (if remote then i = .sendx ch d a b else i ∈ [.send ch d a b, .sendLoopback ch d a b, .sendEndOverflow ch d a b]) →
     legalDest (s.rd a) remote b →
     let r := sent s remote ch.toNat (s.rd a) (s.cpu.rdNum b.toNat) (s.cpu.rdNum (b.toNat + 1)) (s.cpu.rdNum (b.toNat + 2))
     r.1.flows → ∃ t, exec i s = .next t ∧ Answers r.1 t d r.2) ∧
  (∀ (s : State) (ch : BitVec 2) (d a b : Reg) (i : Instr), s.noPrefix →
     i ∈ [.send ch d a b, .sendLoopback ch d a b, .sendEndOverflow ch d a b] →
     field (s.rd a) 63 32 = 0 → bitOf (s.rd a) 31 = true → field (s.rd a) 29 21 = 0 → field (s.rd a) 15 0 = 0 →
     field (s.rd a) 20 16 ≤ 24 → b.toNat ≤ 28 →
     (s.cpu.sup = false → exec i s = .next (s.trap 0x07 (s.cpu.head.setWidth 64))) ∧
     (∀ s1 v, s.cpu.sup = true → looped s (s.rd a) b = some (s1, v) → s1.flows → ∃ t, exec i s = .next t ∧ Answers s1 t d v))

/-- R296 and R300: `RECV`, from the inbox or, with mask 0x10 in a supervisor context, from the arrival queue. R28 to R30, R257, R297 and
R380: `WAITM` goes on where the core's inbox holds a message; where it does not, the context waits in its slot, takes a kill that is
pending, or parks, or takes the parking-full trap. -/
def Obligations.Receives : Prop :=
  (∀ (s : State) (d a : Reg) (i : Instr), s.noPrefix → i ∈ [.recv d a, .recvArrival d a] → s.rd a ≠ 0#64 → field (s.rd a) 63 5 = 0 →
     d.toNat ≤ 28 → (bitOf (s.rd a) 4 = true → s.isSup = true ∧ field (s.rd a) 3 0 = 0) → (received s (s.rd a)).flows →
     let ds := [d.toNat, d.toNat + 1, d.toNat + 2, d.toNat + 3]
     ∃ t, exec i s = .next t ∧ Completes (received s (s.rd a)) t 0 (received s (s.rd a)).seqPc ds 0#64 [⟨ds.filter (· != 0), false, false, 0⟩] ∧
       ∀ k < 4, d.toNat + k ≠ 0 → t.cpu.rdNum (d.toNat + k) = match receivable s (s.rd a) with
         | some m => m.words.getD k 0#64
         | none => 0#64) ∧
  (∀ (s s2 : State), s.noPrefix →
     ((s.core s.cpu.core).inbox ≠ [] → s.flows → ∃ t, exec .waitm s = .next t ∧ Completes s t 0 s.seqPc [] 0#64 []) ∧
     ((s.core s.cpu.core).inbox = [] → Waits s .waitm s 0x03 .message (fun t => t) s2))

/-- R25, R82, R239 and R240: `BAR` and `BARA`. A scope that has no unit for the core, and a descriptor that is none, are illegal operands,
and one that does not fit the open episode traps. The last arrival releases every waiter and answers the generation or the sum; another
waits, in its slot or parked with CAUSE 0x04, with its arrival counted. It rests on logs 51 and 114 of the model. -/
def Obligations.Barriers : Prop :=
  ∀ (s s2 : State) (bara : Bool) (sc : Scope) (d a b : Reg), s.noPrefix →
    let i : Instr := if bara then .bara sc d a b else .bar sc d a
    let c : Word := if bara then s.rd b else 0#64
    let n := field (s.rd a) 23 0
    (sc ∈ [.str, .core, .sys] ∨ (sc ∈ [.quad, .sect] ∧ isUtell s.cpu.core = true) ∨
        (sc = .join ∧ s.liveJoin (field s.cpu.jmem 47 0) = none) → exec i s = .next (s.trap 0x03 s.cpu.operandVal)) ∧
    (field (s.rd a) 63 28 ≠ 0 ∨ n = 0 → exec i s = .next (s.trap 0x03 s.cpu.operandVal)) ∧
    ∀ die x, barrierOf s sc (s.rd a) = some (die, x) →
      let y := arrivedAt x (s.rd a) bara c
      let s1 := s.release sc
      let told (t : State) : State := t.tellPod sc x.bid n bara c
      let arrives (t : State) : State := (told t).modDie die (fun z => z.setBar { y with waiters := y.waiters ++ [(t.cur, d.toNat)] })
      (field (s.rd a) 63 28 = 0 → n ≠ 0 → ¬ barrierFits x (s.rd a) bara → exec i s = .next (s.trap 0x03 (s.rd a))) ∧
      (barrierFits x (s.rd a) bara → y.arrived = n → ((told s1).releaseBar die y).flows →
        ∃ t, exec i s = .next t ∧ Answers ((told s1).releaseBar die y) t d (barrierAnswer y)) ∧
      (barrierFits x (s.rd a) bara → y.arrived ≠ n → Waits s i s1 0x04 .barrier arrives s2)

/-! ### Memory -/

/-- R203, R204, R212, R219, R221 to R224 and R287: the one-register loads. A word of memory gives its value, extended, once the context's
own writes to it are performed; a device register what its window answers; a poisoned word, and an address that traps, the trap; one whose
walk fails waits. A load that never parks answers zero and the block's status where its block is absent. The grain of poison is DEDUCED (log
19). It also rests on log 99. -/
def Obligations.ScalarLoads : Prop :=
  ∀ (s : State) (i : Instr) (sz : LdSize) (d : Reg) (f : Found) (st : Option Reg), s.cpu.pfxf = false → s.flows →
    scalarLoad s i = some (sz, d, f, st) →
    let ds := d.toNat :: (st.map (·.toNat)).toList
    let s1 := s.touch f
    let s2 := s1.ownFirst (ldBytes sz) [f]
    let holds (t : State) (v : Word) (status : Nat) : Prop :=
      (∀ b, st = some b → t.rd b = if b = 0#5 then 0#64 else word status) ∧ (st ≠ some d → t.rd d = if d = 0#5 then 0#64 else v)
    (∀ l va c, f = .at_ l va c →
      (s1.anyPoison l (ldBytes sz) = false →
        ∃ t, exec i s = .next t ∧ Completes s2.dropCarried t 0 s.seqPc ds 0#64 (accessReq s ds) ∧
          holds t (extended sz (s2.value s.here l (ldBytes sz))) 0) ∧
      (s1.anyPoison l (ldBytes sz) = true → exec i s = .next (s1.trap 0x14 va))) ∧
    (∀ pa va c ipas, f = .device pa va c ipas →
      ∃ t, exec i s = .next t ∧ Completes (s2.deviceRead pa (ldBytes sz) c).1.dropCarried t 0 s.seqPc ds 0#64 (accessReq s ds) ∧
        holds t (extended sz (s2.deviceRead pa (ldBytes sz) c).2) 0) ∧
    Unfound s i f .read ∧
    (∀ k home va, f = .absent k home va →
      (st = none → exec i s = .next (s.waitBlock [] k home)) ∧
      (st ≠ none → ∃ t, exec i s = .next t ∧ Completes s.dropCarried t 0 s.seqPc ds 0#64 [⟨ds.filter (· != 0), false, false, 0⟩] ∧
        holds t 0#64 (s.absentStatus home k)))

/-- R212, R219 to R224 and R287: the one-register stores write their bytes once the whole access is checked. A part of a poisoned atom, and
an address that traps, gives the trap; a store that never parks answers the block's status where its block is absent. It rests on logs 19
and 99 of the model. -/
def Obligations.ScalarStores : Prop :=
  ∀ (s : State) (i : Instr) (n : Nat) (v : Word) (f : Found) (st : Option Reg), s.cpu.pfxf = false → s.flows →
    scalarStore s i = some (n, v, f, st) →
    let ds := (st.map (·.toNat)).toList
    let s1 := s.touch f
    let holds (t : State) (status : Nat) : Prop := ∀ b, st = some b → t.rd b = if b = 0#5 then 0#64 else word status
    (∀ l va c, f = .at_ l va c →
      (s1.clean n [f] → ∃ t, exec i s = .next t ∧
        Completes (s1.storeOne n s.cpu.pfxr f v.toNat).dropCarried t 0 s.seqPc ds 0#64 (accessReq s ds) ∧ holds t 0) ∧
      (¬ s1.clean n [f] → exec i s = .next (s1.trap 0x14 va))) ∧
    (∀ pa va c ipas, f = .device pa va c ipas → ∃ t, exec i s = .next t ∧
      Completes (s1.deviceWrite pa n va c v.toNat).dropCarried t 0 s.seqPc ds 0#64 (accessReq s ds) ∧ holds t 0) ∧
    Unfound s i f .write ∧
    (∀ k home va, f = .absent k home va →
      (st = none → exec i s = .next (s.waitBlock [] k home)) ∧
      (st ≠ none → ∃ t, exec i s = .next t ∧ Completes s.dropCarried t 0 s.seqPc ds 0#64 [⟨ds.filter (· != 0), false, false, 0⟩] ∧
        holds t (s.absentStatus home k)))

/-- R212, R219, R221 to R223: `LDM` and `STM` transfer one to eight consecutive words, all located before any is read or written. The first
that cannot be located stops the whole instruction there, and so does poison. The grain of poison is DEDUCED (log 19). It also rests on log
99. -/
def Obligations.Multiples : Prop :=
  ∀ (s : State) (i : Instr) (store : Bool) (r : Reg) (n : Nat) (va : Word), s.cpu.pfxf = false → s.flows →
    multiple s i = some (store, r, n, va) → r.toNat + n < 32 →
    let kind : Kind := if store then .write else .read
    let find (a : Word) := s.locate a 8 kind
    let vas := (List.range (n + 1)).map (fun k => va + word (8 * k))
    let ds := List.range' r.toNat (n + 1)
    (∀ fs bad, locateAll find vas = (fs, some bad) → exec i s = .next (s.stopAt fs bad kind)) ∧
    ∀ fs, Finds find vas fs →
      let s1 := s.touched fs
      (∀ x, (if store then s1.storePoison 8 fs fs else s1.firstPoison 8 fs) = some x → exec i s = .next (s1.trap 0x14 x)) ∧
      (store = false → s1.clean 8 fs → ∃ t, exec i s = .next t ∧
        Completes (s1.ownFirst 8 fs).dropCarried t 0 s.seqPc ds 0#64 (accessReq s ds) ∧
        ∀ k l a c, fs[k]? = some (.at_ l a c) →
          t.cpu.reg (r.toNat + k) = if r.toNat + k = 0 then 0 else (s1.ownFirst 8 fs).value s.here l 8) ∧
      (store = true → s1.storePoison 8 fs fs = none → ∃ t, exec i s = .next t ∧
        Completes (s1.storeFound false 8 fs (ds.map s.cpu.reg)).dropCarried t 0 s.seqPc [] 0#64 (accessReq s []))

/-- R155, R164, R197, R212, R219 and R221 to R223: the vector loads transfer the lanes their mask selects, widening narrow elements, and
leave the others; a signalling BF16 NaN raises NV. An element that cannot be located, or that is poisoned, stops the instruction before any
lane changes. The grain of poison is DEDUCED (log 19). It also rests on logs 99, 110 and 124. -/
def Obligations.VectorLoads : Prop :=
  ∀ (s : State) (i : Instr) (m : VecM) (d : VReg) (addr : Nat → Nat → Word) (near : Bool), s.flows →
    vectorLoad s i = some (m, d, addr, near) →
    (elementOf s m = none → exec i s = .next (s.trap 0x03 s.cpu.operandVal)) ∧
    ∀ e p, elementOf s m = some (e, p) →
      let find := s.laneFound near e .read
      let vas := (s.transferred m).map (addr e)
      let w := laneBits m.wide
      (∀ fs bad, locateAll find vas = (fs, some bad) → exec i s = .next (s.stopAt fs bad .read)) ∧
      ∀ fs, Finds find vas fs →
        (∀ x, (s.touched fs).firstPoison e fs = some x → exec i s = .next ((s.touched fs).trap 0x14 x)) ∧
        ((s.touched fs).clean e fs →
          let s2 := (s.touched fs).ownFirst e fs
          let got (f : Found) : Nat × FFlags := match f with
            | .at_ l _ _ => (match p with
              | none => (s2.value s.here l e, 0#5)
              | some p => widen p (s2.value s.here l e))
            | _ => (0, 0#5)
          ∃ t, exec i s = .next t ∧ Completes s2.dropCarried t 0 s.seqPc [vNum d]
              (2#64 ||| (flagsOf (fs.map got)).setWidth 64 <<< 16) (accessReq s [vNum d]) ∧
            ∀ j < laneCount m.wide, (s.active m j = false → t.cpu.reg (vNum d) / 2 ^ (w * j) % 2 ^ w = s.lane w d j) ∧
              ∀ l a c, s.active m j = true → find (addr e j) = .at_ l a c →
                t.cpu.reg (vNum d) / 2 ^ (w * j) % 2 ^ w = (got (.at_ l a c)).1 % 2 ^ w)

/-- R197, R212 and R221 to R223: the vector stores write the lanes their mask selects, lowest first, narrowing to narrow elements with their
flags. An element that cannot be located, or a part of a poisoned atom, stops the instruction before any byte changes; a poisoned atom
written whole is poisoned no longer. It rests on logs 19, 99 and 124 of the model. -/
def Obligations.VectorStores : Prop :=
  ∀ (s : State) (i : Instr) (m : VecM) (b : VReg) (addr : Nat → Nat → Word) (near : Bool), s.flows →
    vectorStore s i = some (m, b, addr, near) →
    (elementOf s m = none → exec i s = .next (s.trap 0x03 s.cpu.operandVal)) ∧
    ∀ e p, elementOf s m = some (e, p) →
      let find := s.laneFound near e .write
      let vas := (s.transferred m).map (addr e)
      (∀ fs bad, locateAll find vas = (fs, some bad) → exec i s = .next (s.stopAt fs bad .write)) ∧
      ∀ fs, Finds find vas fs →
        let out := (s.transferred m).map (fun j => match p with
          | none => (s.lane (laneBits m.wide) b j, 0#5)
          | some p => narrow p s.rm (s.lane (laneBits m.wide) b j))
        (∀ x, (s.touched fs).storePoison e fs fs = some x → exec i s = .next ((s.touched fs).trap 0x14 x)) ∧
        ((s.touched fs).storePoison e fs fs = none →
          ∃ t, exec i s = .next t ∧ Completes ((s.touched fs).storeFound true e fs (out.map (·.1))).dropCarried t 0 s.seqPc []
            ((flagsOf out).setWidth 64 <<< 16) (accessReq s []))

/-- R20, R207, R229 and R230: a store's bytes read back on its die, and every other byte reads there as before, but those of the leaf
entries whose D it sets (R394). A byte of a lost stack reads as anything. -/
def Obligations.StoredBytes : Prop :=
  ∀ (s : State) (n v : Nat) (relaxed : Bool) (l : Loc) (va : Word) (c : Option (Comp × List Nat)), s.banksWf → s.lostStacks = [] →
    (∀ p ∈ s.posted, ∀ core o, p.at_ ≠ .loc core o) → (∀ core o, l = .loc core o → o + n ≤ 2 ^ 18) →
    let t := s.storeOne n relaxed (.at_ l va c) v
    (∀ k < n, t.byteAt s.here (l.plus k) = BitVec.ofNat 8 (v / 256 ^ k)) ∧
    ∀ x : Loc, (∀ core o, x = .loc core o → o < 2 ^ 18) → l.overlaps n x 1 = false →
      (∀ q ipas, c = some (q, ipas) → ∀ leaf ∈ [q.gleaf, q.hleaf], (Loc.direct leaf).overlaps 8 x 1 = false) →
      t.byteAt s.here x = s.byteAt s.here x

/-- R224: an `LDX` or `STX` that names another module of the pod leaves on a link and waits, and the posted writes of its die go before it
(the model's choice: R224 gives only the order of a local access); a module that is not of the pod, or that no port reaches, gives the
protection trap, as a bad address does, and a number over 63 is illegal. The checks of the address and the drain of the die's posted writes
are the model's choice (log 20). -/
def Obligations.RemoteAccesses : Prop :=
  ∀ (s : State) (m va : Word) (size : Nat) (i : Instr) (msg : List Word) (dest : Option (Nat × Nat × Bool)), s.cpu.pfxf = false →
    ((∃ (sz : LdSize) (d a b : Reg), m = s.rd b ∧ size = ldBytes sz ∧ msg = [word (ldBytes sz)] ∧ dest = some (d.toNat, ldBytes sz, [LdSize.ws, .hs, .bs].contains sz) ∧
        ((∃ im, i = .ldx sz d a b im ∧ va = eaOf s a im) ∨ ∃ im, i = .ldxT4 sz d a b im ∧ va = eaOf s a im)) ∨
      ∃ (sz : StSize) (d a b : Reg), m = s.rd d ∧ size = stBytes sz ∧ msg = [word (stBytes sz), s.rd b] ∧ dest = none ∧
        ((∃ im, i = .stx sz d a b im ∧ va = eaOf s a im) ∨ ∃ im, i = .stxT4 sz d a b im ∧ va = eaOf s a im)) →
    (64 ≤ m.toNat → exec i s = .next (s.trap 0x03 s.cpu.operandVal)) ∧
    (m.toNat < 64 → m.toNat ≠ s.modNum → s.pod.contains m.toNat = false ∨ 36 ≤ s.linkDown.length → exec i s = .next (s.trap 0x13 va)) ∧
    (m.toNat < 64 → m.toNat ≠ s.modNum → s.pod.contains m.toNat = true → s.linkDown.length < 36 →
      (field va 63 57 ≠ 0 ∨ (bitOf va 56 = true ∧ (field va 55 18 ≠ 0 ∨ va.toNat % size = 0)) → exec i s = .next (s.trap 0x13 va)) ∧
      (field va 63 57 = 0 → (bitOf va 56 = false ∨ field va 55 18 = 0) → va.toNat % size ≠ 0 → exec i s = .next (s.trap 0x10 va)) ∧
      (field va 63 56 = 0 → va.toNat % size = 0 → ∃ t, exec i s = .next t ∧
        t.linkOut = s.linkOut ++ [m :: va :: msg] ∧ t.posted = s.posted.filter (fun p => p.die ≠ s.here) ∧
        t.cpu = { (s.drain (fun p => p.die == s.here)).cpu with wait := .remote s.now va dest }))

/-- R203, R204, R212, R219, R221, R225, R226, R230 and R393: the full/empty accesses. A load of a full word and a store to an empty one are
performed at the single copy, what the die has posted to the word before them, and waiting accesses are served after; otherwise they wait.
An address that is not found stops them, an absent block is waited for, and a device register, which has no such bit, gives the protection
trap (the model's choice, log 37). It also rests on logs 14, 19 and 43. -/
def Obligations.FullEmptyAccesses : Prop :=
  ∀ (s : State) (i : Instr) (op : FullEmpty) (va : Word), s.noPrefix → s.flows → fullEmpty s i = some (op, va) →
    let f := s.locate va 8 .both
    Unfound s i f .both ∧
    (∀ k home x, f = .absent k home x → exec i s = .next (s.waitBlock [] k home)) ∧
    (∀ pa x c ipas, f = .device pa x c ipas → exec i s = .next ((s.touch f).trap 0x13 va)) ∧
    ∀ (l : Loc) (x : Word) (c : Option (Comp × List Nat)), f = .at_ l x c →
    let s0 := s.touch (.at_ l x c)
    let ahead (t : State) : State := t.drain (fun p => p.die == s.here && p.at_.overlaps p.size l 8)
    let performs (s2 : State) (ds : List Nat) (holds : State → Prop) : Prop :=
      ∃ t, exec i s = .next t.serveWords ∧ Completes s2.dropCarried t 0 s.seqPc ds 0#64 [⟨ds.filter (· != 0), true, false, 0⟩] ∧ holds t
    let gets (t : State) (d : Reg) (v : Word) : Prop := t.rd d = if d = 0#5 then 0#64 else v
    let s1 := ahead s0
    (¬ s0.clean 8 [.at_ l x c] → exec i s = .next (s0.trap 0x14 x)) ∧
    (s0.clean 8 [.at_ l x c] → match op with
      | .load empties d =>
        (s0.fullAt l = true → performs (if empties then (s1.dirtied c).setFullAt l false else s1) [d.toNat]
          (fun t => gets t d (word (s0.value s.here l 8)))) ∧
        (s0.fullAt l = false → exec i s = .next (s0.waitWord l va c (if empties then .ldfe else .ldff) 0#64 d.toNat))
      | .status d b => performs s1 [d.toNat, b.toNat] (fun t =>
          gets t b (if s1.fullAt l then 1#64 else 0#64) ∧ (d ≠ b → gets t d (word (s1.value s.here l 8))))
      | .store waits v =>
        let s2 := s0.release .pod
        (waits = false ∨ s2.fullAt l = false →
          performs (((s2.dirtied c).writeAt s.here l v.toNat 8).setFullAt l true) [] (fun _ => True)) ∧
        (waits = true → s2.fullAt l = true → exec i s = .next (s2.waitWord l va c .stef v 0))
      | .set full => performs (((if full then s0.release .pod else s1).dirtied c).setFullAt l full) [] (fun _ => True))

/-- R26, R203, R204, R212, R221 and R228: the atomics read, combine and write one word, whatever its full/empty bit, and answer the old
word. An address that is not found stops them, an absent block is waited for, and a device register gives the protection trap (the model's
choice, log 37). It also rests on logs 14 and 19. -/
def Obligations.Atomics : Prop :=
  ∀ (s : State) (i : Instr) (sc : Scope) (d : Reg) (va : Word) (new : Word → Word), s.noPrefix → s.flows →
    atomicForm s i = some (sc, d, va, new) →
    (sc = .join → s.liveJoin (field s.cpu.jmem 47 0) = none → exec i s = .next (s.trap 0x03 s.cpu.operandVal)) ∧
    ((sc = .join → s.liveJoin (field s.cpu.jmem 47 0) ≠ none) →
      let f := s.locate va 8 .both
      Unfound s i f .both ∧
      (∀ k home x, f = .absent k home x → exec i s = .next (s.waitBlock [] k home)) ∧
      (∀ pa x c ipas, f = .device pa x c ipas → exec i s = .next ((s.touch f).trap 0x13 va)) ∧
      ∀ l x c, f = .at_ l x c →
      let s0 := s.touch (.at_ l x c)
      let s1 := (s0.release sc).dirtied c
      (¬ s0.clean 8 [.at_ l x c] → exec i s = .next (s0.trap 0x14 x)) ∧
      (s0.clean 8 [.at_ l x c] → ∃ t, exec i s = .next t ∧
        Completes (s1.writeAt s.here l (new (word (s1.value s.here l 8))).toNat 8).dropCarried t 0 s.seqPc [d.toNat] 0#64
          [⟨[d.toNat].filter (· != 0), true, false, 0⟩] ∧
        t.rd d = if d = 0#5 then 0#64 else word (s1.value s.here l 8)))

/-- R25, R44, R233, R241, R242 and R408: `FENCE` and `WAITA` complete with no answer outstanding. A fence at a scope wider than its die
drains the die's posted writes, at `.sys` those of every die. The stores of a writer of its scope into the lines that the context holds are
seen from now on, and no others: such a line is fetched again when control next enters it, the current one once control has left it. `WAITA`
drains the strand's own posted writes. Which posted writes it drains, and which writers outside the module a scope holds, are the model's
(logs 14, 31). -/
def Obligations.Fences : Prop :=
  ∀ (s : State), s.noPrefix → s.flows →
    (∀ sc, (sc = .join → s.liveJoin (field s.cpu.jmem 47 0) ≠ none) →
      let s1 := if sc = .sys then s.drain (fun _ => true) else s.release sc
      let stored (x : LineCopy) : Prop := ∃ w ∈ x.stores, w.seen = false ∧ s1.writer.includes sc w.by_ = true
      ∃ (t : State) (ls : List LineCopy) (b : Bool), exec (.fence sc) s = .next t ∧
        Completes { s1 with cpu := { s1.cpu with outs := [], lines := ls, staleCur := b } } t 0 s.seqPc [] 0#64 [] ∧
        ls.length = s1.cpu.lines.length ∧
        (∀ (k : Nat) (x y : LineCopy), s1.cpu.lines[k]? = some x → ls[k]? = some y →
          y = { x with stores := y.stores, stale := y.stale } ∧
          y.stores = x.stores.map (fun w => if s1.writer.includes sc w.by_ then { w with seen := true } else w) ∧
          (y.stale = true ↔ x.stale = true ∨ (some x.key ≠ s1.cpu.curLine ∧ stored x))) ∧
        (b = true ↔ s1.cpu.staleCur = true ∨ ∃ x ∈ s1.cpu.lines, some x.key = s1.cpu.curLine ∧ stored x) ∧
        (sc = .sys → s1.posted = []) ∧ (sc ∈ [.mod, .node, .pod, .part, .lnch, .join] → s1.posted = s.posted.filter (fun p => p.die ≠ s.here)) ∧
        (sc ∈ [.str, .core, .quad, .sect, .die] → s1 = s)) ∧
    (s.liveJoin (field s.cpu.jmem 47 0) = none → exec (.fence .join) s = .next (s.trap 0x03 s.cpu.operandVal)) ∧
    ∃ t, exec .waita s = .next t ∧ Completes { s.drain (fun p => p.ctx == s.cur) with
      cpu := { (s.drain (fun p => p.ctx == s.cur)).cpu with outs := [] } } t 0 s.seqPc [] 0#64 []

/-- R283 and R288: `BHINT` on a walked block answers 0 where it is resident and 1 where it is absent, and refuses what its rule refuses, an
address that has no translation and one of the local store or of a direct page among them. What `pf` answers for a block that is fetched or
written back is DEDUCED (log 69). -/
def Obligations.Hints : Prop :=
  ∀ (s : State) (i : Instr) (h : Hint) (d : Reg) (va : Word), s.noPrefix → s.flows → hintForm s i = some (h, d, va) →
    (field va 63 57 ≠ 0 → exec i s = .next (s.trap 0x13 va)) ∧
    (∀ p, field va 63 57 = 0 → s.part? s.cpu.part = some p →
      (bitOf va 56 = true → ∃ t, exec i s = .next t ∧ Answers s t d (refused 4)) ∧
      ((∀ c ipas, s.lookupComp s.here p s.cpu.asid va.toNat ≠ .ok c ipas) → ∃ t, exec i s = .next t ∧ Answers s t d (refused 4)) ∧
      (∀ c ipas, bitOf va 56 = false → s.lookupComp s.here p s.cpu.asid va.toNat = .ok c ipas → c.w = false →
        ∃ t, exec i s = .next t ∧ Answers s t d (refused 4)) ∧
      (∀ c ipas, bitOf va 56 = false → s.lookupComp s.here p s.cpu.asid va.toNat = .ok c ipas → c.w = true →
        let k := blockOf p.num s.cpu.asid va
        let home := p.homeDie k.blk
        let b := (s.block? home k).getD { key := k }
        let here := b.frame = .resident
        let answers (s1 : State) : Prop := ∃ t, exec i s = .next t ∧
          Answers (s1.sweepBlocks home) t d (if (s1.sweepBlocks home).resident home k then 0#64 else 1#64)
        let refuses (r : Nat) : Prop := ∃ t, exec i s = .next t ∧ Answers s t d (refused r)
        match h with
        | .pf => (here → answers s) ∧
            (¬ here → b.queue = [] → b.mark = none → b.frame ≠ .fetching → 256 ≤ s.marks home p.num → refuses 1) ∧
            (¬ here → b.queue ≠ [] ∨ b.mark ≠ none ∨ b.frame = .fetching ∨ s.marks home p.num < 256 →
              answers (s.setBlock home (b.addMark s.now)))
        | .pin => (b.pins = 255 ∨ (b.pins = 0 ∧ (lookup home p.pinq).getD p.pquota ≤ s.pinned home p.num) → refuses 1) ∧
            (b.pins ≠ 255 → b.pins ≠ 0 ∨ s.pinned home p.num < (lookup home p.pinq).getD p.pquota →
              let b1 := { b with pins := b.pins + 1, evict := false }
              (here → answers (s.setBlock home b1)) ∧ (¬ here → answers (s.setBlock home (b1.addMark s.now))))
        | .unpin => (b.pins = 0 → refuses 3) ∧
            (b.pins ≠ 0 → answers (s.setBlock home { b with pins := b.pins - 1 }))
        | .ev => (0 < b.pins → refuses 4) ∧
            (b.pins = 0 →
              let s1 := if b.frame = .resident then s.setBlock home { b with evict := true } else s
              let s2 := if s.cpu.use = some k then { s1 with cpu := { s1.cpu with use := none } } else s1
              answers (s2.noteIdle k))))

/-! ### Engines and joins -/

/-- R303 to R306 and R312: `MBXST` owns a free mailbox and fills it; the seven submissions queue the owner's request, free the mailbox and
answer the request's number, or refuse it. Which die keeps the journal's entry is DEDUCED (log 52). It also rests on logs 115 and 137. -/
def Obligations.Movements : Prop :=
  ∀ (s : State), s.noPrefix → isUtell s.cpu.core = false →
    (∀ (mb : BitVec 2) (d a : Reg) (w : BitVec 4), let m := (s.core s.cpu.core).box mb.toNat
      (m.owner = none → Gives s (.mbxst mb d a w) (s.setBox mb.toNat { owner := some s.cur, words := (List.replicate 16 0#64).set w.toNat (s.rd a) }) d 0#64) ∧
      (m.owner = some s.cur → Gives s (.mbxst mb d a w) (s.setBox mb.toNat { m with words := m.words.set w.toNat (s.rd a) }) d 0#64) ∧
      (∀ c, m.owner = some c → c ≠ s.cur → Refuses s (.mbxst mb d a w) d 1)) ∧
    ∀ (i : Instr) (kind : Nat) (mb : BitVec 2) (d : Reg) (p : Part), moveForm i = some (kind, mb, d) → s.part? s.cpu.part = some p →
      let m := (s.core s.cpu.core).box mb.toNat
      (m.owner ≠ some s.cur → Refuses s i d 3) ∧
      (m.owner = some s.cur →
        (∀ n v, (moveAligned kind m.words).find? (fun x => x.2.toNat % x.1 ≠ 0) = some (n, v) → exec i s = .next (s.trap 0x15 v)) ∧
        (∀ s1, s.checkMove p kind m.words = .stopped s1 → exec i s = .next s1) ∧
        (∀ r, s.checkMove p kind m.words = .refuse r → Gives s i (mailFreed s mb) d r) ∧
        ∀ s1 prm, s.checkMove p kind m.words = .ok s1 prm →
          ((s1.die s1.here).waiting p.num < 64 → s1.journalFull s1.here = false →
            Gives s i (mailFreed ((queued s1 kind m.words prm).1.release .part) mb) d (word (queued s1 kind m.words prm).2)) ∧
          (64 ≤ (s1.die s1.here).waiting p.num ∨ s1.journalFull s1.here = true → Gives s i (mailFreed s1 mb) d (refused 1)))

/-- R315 and R316: `LEASE` grants free engines at once and stands for the rest; `UNLEASE` gives engines back. Both need SUP. Which die keeps
the journal's entry of `TRIGARM` is DEDUCED (log 52). R317 to R320: `TRIGSET` and `TRIGRD` answer a counter's value, and `TRIGARM` arms a
transfer, unless the read of its request or of a record that the request names stops it, or the request lies in walked memory, which is
BADSHAPE; a number of a die that is not there traps (R11; its place in `TRIGARM` is the model's, log 116), and what the partition is not
allotted is denied. It also rests on logs 47 and 140. -/
def Obligations.LeasesAndTriggers : Prop :=
  (∀ (s : State) (d a : Reg) (un : Bool), s.noPrefix → isUtell s.cpu.core = false →
     let i : Instr := if un then .unlease d a else .lease d a
     let w := s.rd a
     let die := field w 4 0
     (s.cpu.sup = false → exec i s = .next (s.trap 0x07 (s.cpu.head.setWidth 64))) ∧
     (s.cpu.sup = true → ¬ LeaseWord w un → exec i s = .next (s.trap 0x03 s.cpu.operandVal)) ∧
     ∀ p, s.cpu.sup = true → LeaseWord w un → s.part? s.cpu.part = some p →
       let x := s.die die
       let others := x.standing.filter (fun r => r.1 != p.num)
       (p.dies.contains die = false → Refuses s i d 4) ∧
       (un = false → p.dies.contains die = true → p.mquota < (x.held p.num).length + field w 12 8 → Refuses s i d 4) ∧
       (un = false → p.dies.contains die = true → (x.held p.num).length + field w 12 8 ≤ p.mquota →
         let per := if field w 47 32 = 0 then 100000 else 1000 * field w 47 32
         let r := x.grant p.num s.now per (field w 12 8)
         let left := field w 12 8 - r.2
         Gives s i (s.setDie die { r.1 with standing := if left = 0 then others else others ++ [(p.num, left, per)] }) d (word r.2)) ∧
       (un = true → p.dies.contains die = true →
         let r := ({ x with standing := others } : Die).unlease p.num s.now (field w 12 8)
         Gives s i (s.setDie die r.1) d (word r.2))) ∧
  (∀ (s : State) (d a b : Reg) (p : Part), s.noPrefix → s.part? s.cpu.part = some p →
     (isUtell s.cpu.core = false →
       (field (s.rd a) 63 17 ≠ 0 ∨ 24 ≤ field (s.rd a) 16 12 ∨ field (s.rd b) 63 48 ≠ 0 →
         exec (.trigset d a b) s = .next (s.trap 0x03 s.cpu.operandVal)) ∧
       (field (s.rd a) 63 17 ≠ 0 ∨ 24 ≤ field (s.rd a) 16 12 → exec (.trigrd d a) s = .next (s.trap 0x03 s.cpu.operandVal)) ∧
       (field (s.rd a) 63 17 = 0 → field (s.rd a) 16 12 < 24 → p.allotted (s.rd a).toNat = false →
         Refuses s (.trigrd d a) d 4 ∧ (field (s.rd b) 63 48 = 0 → Refuses s (.trigset d a b) d 4)) ∧
       (field (s.rd a) 63 17 = 0 → field (s.rd a) 16 12 < 24 → p.allotted (s.rd a).toNat = true →
         Gives s (.trigrd d a) s d (word (s.trigger (s.rd a).toNat)) ∧
         (field (s.rd b) 63 48 = 0 → Gives s (.trigset d a b)
           (((s.release .part).setTrigger (s.rd a).toNat (s.rd b).toNat).firingCheck (s.rd a).toNat) d (word (s.trigger (s.rd a).toNat))))) ∧
     ((s.rd a).toNat % 128 ≠ 0 → exec (.trigarm d a b) s = .next (s.trap 0x10 (s.rd a))) ∧
     ((s.rd a).toNat % 128 = 0 → 24 ≤ field (s.rd b) 16 12 → exec (.trigarm d a b) s = .next (s.trap 0x03 s.cpu.operandVal)) ∧
     ((s.rd a).toNat % 128 = 0 → field (s.rd b) 16 12 < 24 → RecordStops s (.trigarm d a b) d (s.rd a) 128) ∧
     (∀ s1 ws s2, (s.rd a).toNat % 128 = 0 → field (s.rd b) 16 12 < 24 → s.readRecord (s.rd a) 128 = .ok s1 ws → s1.part? s1.cpu.part = some p →
       s1.checkMove p (field (s.rd b) 19 17) ws = .stopped s2 → exec (.trigarm d a b) s = .next s2) ∧
     (∀ s1 ws r, (s.rd a).toNat % 128 = 0 → field (s.rd b) 16 12 < 24 → s.readRecord (s.rd a) 128 = .ok s1 ws → s1.part? s1.cpu.part = some p →
       s1.checkMove p (field (s.rd b) 19 17) ws = .refuse r →
       Gives s (.trigarm d a b) s1 d (if field (s.rd b) 63 24 = 0 ∨ field (s.rd b) 23 20 ≠ 0 then refused 2 else r)) ∧
     ∀ s1 ws s2 prm, let w := s.rd b
       let die := field w 16 0 / 4096
       let n := (s2.core s2.cpu.core).seq + 1
       let s3 := ((s2.modCore s2.cpu.core (fun k => { k with seq := n })).journal die 5 (s2.cpu.core * 2 ^ 48 + n)).modDie die
         (fun (x : Die) => { x with armed := x.armed ++ [armedOf s2 w ws prm n] })
       (s.rd a).toNat % 128 = 0 → field w 16 12 < 24 → s.readRecord (s.rd a) 128 = .ok s1 ws → s1.part? s1.cpu.part = some p →
       s1.checkMove p (field w 19 17) ws = .ok s2 prm →
       (field w 63 24 = 0 ∨ field w 23 20 ≠ 0 → Gives s (.trigarm d a b) s2 d (refused 2)) ∧
       (field w 63 24 ≠ 0 → field w 23 20 = 0 → p.allotted (field w 16 0) = false → Gives s (.trigarm d a b) s2 d (refused 4)) ∧
       (field w 63 24 ≠ 0 → field w 23 20 = 0 → p.allotted (field w 16 0) = true →
         (2048 ≤ (s2.die die).armed.length ∨ s2.journalFull die = true → Gives s (.trigarm d a b) s2 d (refused 1)) ∧
         ((s2.die die).armed.length < 2048 → s2.journalFull die = false →
           Gives s (.trigarm d a b) ((s3.release .part).firingCheck (field w 16 0)) d (word n))))

/-- R331, R336 and R343: `TQPUSH` and `TCONT` accept a task whose record is right and answer its number in its chain. A read of the record,
or of the tensors' records, that stops ends them there, and one of walked memory is BADSHAPE. The order of refusals, the chain that was
never used and when the scheduler looks are DEDUCED (logs 50, 61, 63). R344: `TQSTAT`, `TKILL` and `TSEQ`: the state of a number, its
cancellation, and the number up to which all are complete. That a die that is not there traps is DEDUCED (log 96). It also rests on logs 47,
52 and 142. -/
def Obligations.Tasks : Prop :=
  (∀ (s : State) (cont : Bool) (d a b : Reg), s.noPrefix → isUtell s.cpu.core = false →
     let i : Instr := if cont then .tcont d a b else .tqpush d a b
     let die := (s.rd b).toNat
     ((s.rd a).toNat % 128 ≠ 0 → exec i s = .next (s.trap 0x10 (s.rd a))) ∧
     ((s.rd a).toNat % 128 = 0 → 24 ≤ die → exec i s = .next (s.trap 0x03 (s.rd b))) ∧
     ((s.rd a).toNat % 128 = 0 → die < 24 → RecordStops s i d (s.rd a) 128) ∧
     (∀ s1 ws p, (s.rd a).toNat % 128 = 0 → die < 24 → s.readRecord (s.rd a) 128 = .ok s1 ws → s1.part? s1.cpu.part = some p →
       let t0 := taskOf s1 ws []
       bitOf (t0.w 7) 45 = cont → taskShape die t0 = true → s1.taskRefusal p t0 ≠ some (refused 2) →
         (∀ s2, s1.readRecords (t0.w 2) 3 = .stopped s2 → exec i s = .next s2) ∧
         (s1.readRecords (t0.w 2) 3 = .walked → Gives s i s1 d (refused 2))) ∧
     ∀ s1 ws s2 prm p, (s.rd a).toNat % 128 = 0 → die < 24 → s.readRecord (s.rd a) 128 = .ok s1 ws → s1.part? s1.cpu.part = some p →
       let t0 := taskOf s1 ws []
       let t := taskOf s1 ws prm
       (bitOf (t0.w 7) 45 ≠ cont ∨ taskShape die t0 = false → Gives s i s1 d (refused 2)) ∧
       (bitOf (t0.w 7) 45 = cont → taskShape die t0 = true → s1.taskRefusal p t0 ≠ some (refused 2) →
         s1.readRecords (t0.w 2) 3 = .ok s2 prm →
         (tensorsOk t = false → Gives s i s2 d (refused 2)) ∧
         (tensorsOk t = true →
           (∀ r, s2.taskRefusal p t = some r → Gives s i s2 d r) ∧
           (s2.taskRefusal p t = none → s2.chainBusy die p = true → Gives s i s2 d (refused 1)) ∧
           (s2.taskRefusal p t = none → s2.chainBusy die p = false → (enqueued s2 die t).lateBind (accepted s2 die t) = false →
             Gives s i (enqueued s2 die t).reschedule d (word (accepted s2 die t).seq)) ∧
           (s2.taskRefusal p t = none → s2.chainBusy die p = false → (enqueued s2 die t).lateBind (accepted s2 die t) = true →
             Gives s i ((enqueued s2 die t).endTask die { accepted s2 die t with kb := 0 } 7 (word (field (t.w 9) 47 0))).reschedule d
               (word (accepted s2 die t).seq))))) ∧
  (∀ (s : State) (d a : Reg) (p : Part), s.noPrefix → isUtell s.cpu.core = false → s.part? s.cpu.part = some p →
     let w := s.rd a
     let die := field w 52 48
     let c := chainOf (s.die die).chains p.num
     (∀ i ∈ [.tqstat d a, .tkill d a],
       (field w 63 53 ≠ 0 ∨ 24 ≤ die → exec i s = .next (s.trap 0x03 s.cpu.operandVal)) ∧
       (field w 63 53 = 0 → die < 24 → p.dies.contains die = false → Refuses s i d 4) ∧
       (field w 63 53 = 0 → die < 24 → p.dies.contains die = true → c.next ≤ field w 47 0 → Refuses s i d 3)) ∧
     (field w 63 53 = 0 → die < 24 → p.dies.contains die = true → field w 47 0 < c.next →
       (∀ t, s.task? die s.cpu.part (field w 47 0) = some t →
         Gives s (.tqstat d a) s d (word ((if t.running then (if t.hold = .none then 2 else 3) else if s.taskEligible t then 1 else 0) * 2 ^ 60
           + min t.kb (2 ^ 20 - 1) * 2 ^ 28)) ∧
         (c.next ≤ field w 47 0 + 65536 → Gives s (.tkill d a) (s.killTask die t 0#64).reschedule d 0#64) ∧
         (field w 47 0 + 65536 < c.next → Refuses s (.tkill d a) d 3)) ∧
       (s.task? die s.cpu.part (field w 47 0) = none → Refuses s (.tkill d a) d 3 ∧
         (∀ code n, c.outcome (field w 47 0) = some (code, n) → c.next ≤ field w 47 0 + 65536 → Gives s (.tqstat d a) s d
           (word ((if code = 0 then 4 else 5) * 2 ^ 60 + code * 2 ^ 48 + min n (2 ^ 20 - 1) * 2 ^ 28))) ∧
         (c.outcome (field w 47 0) = none → Gives s (.tqstat d a) s d (word (6 * 2 ^ 60))))) ∧
     (24 ≤ w.toNat → exec (.tseq d a) s = .next (s.trap 0x03 s.cpu.operandVal)) ∧
     (w.toNat < 24 → p.dies.contains w.toNat = false → Refuses s (.tseq d a) d 4) ∧
     (w.toNat < 24 → p.dies.contains w.toNat = true → Gives s (.tseq d a) s d
       (word (doneUpTo (chainOf (s.die w.toNat).chains p.num).next (((s.die w.toNat).tasks.filter (fun t => t.part == p.num)).map (·.seq))))))

/-- R323 to R325: `ACCAL` refuses a request word that is not right, quads outside the partition, and a request that no first tile fits; else
it allots the tiles of the set from the least first tile that fits, under the next generation of the die, leaves every tile's contents,
which are zero in a free tile (R324), and answers the handle. R324 and R325: `ACCFR` refuses a handle that is not live, and a set that a
task names or has locked; else it frees the tiles of the set and leaves them zero. R326 and R327: a segment is loaded, stored and zeroed
through a live set of the current die; a handle or an index that is not right traps, a locked tile holds the instruction in its slot (R28),
and a load that finds a poisoned word takes the poison-consumed trap (R211, R212; its TVAL is the model's, log 118). It also rests on log
123. -/
def Obligations.Accumulators : Prop :=
  (∀ (s : State) (d a : Reg), s.noPrefix → isUtell s.cpu.core = false →
     let w := s.rd a
     let core := field w 12 0
     let nq := field w 20 16 + 1
     let nt := field w 27 24 + 1
     let die := core / 256
     let q0 := core % 256 / 4
     let bad := field w 63 28 ≠ 0 ∨ field w 23 21 ≠ 0 ∨ field w 15 13 ≠ 0 ∨ 6144 ≤ core ∨ 63 < q0 + nq - 1
     let x := s.die die
     let fits (t0 : Nat) : Prop := t0 + nt ≤ 16 ∧ ∀ q < nq, ∀ t < nt, lookup (16 * (q0 + q) + t0 + t) x.tiles = none
     (s.part? s.cpu.part = none → Refuses s (.accal d a) d 4) ∧
     ∀ p, s.part? s.cpu.part = some p →
       (bad → Refuses s (.accal d a) d 2) ∧
       (¬ bad → (∃ q < nq, p.hasQuad die (q0 + q) = false) → Refuses s (.accal d a) d 4) ∧
       (¬ bad → (∀ q < nq, p.hasQuad die (q0 + q) = true) → (∀ t0, ¬ fits t0) → Refuses s (.accal d a) d 1) ∧
       ∀ t0, ¬ bad → (∀ q < nq, p.hasQuad die (q0 + q) = true) → fits t0 → (∀ t < t0, ¬ fits t) →
         let gen := x.accGen % 65535 + 1
         ∃ tiles, Gives s (.accal d a) (s.setDie die { x with accGen := gen, tiles }) d
             (word (gen * 2 ^ 40 + die * 2 ^ 35 + q0 * 2 ^ 29 + (nq - 1) * 2 ^ 24 + t0 * 2 ^ 20 + (nt - 1) * 2 ^ 16)) ∧
           (∀ q < nq, ∀ t < nt, lookup (16 * (q0 + q) + t0 + t) tiles = some gen) ∧
           ∀ n, (∀ q < nq, ∀ t < nt, n ≠ 16 * (q0 + q) + t0 + t) → lookup n tiles = lookup n x.tiles) ∧
  (∀ (s : State) (d a : Reg), s.noPrefix → isUtell s.cpu.core = false →
     let h := s.rd a
     let c := accSet h
     let x := s.die c.die
     (s.accLive h = false → Refuses s (.accfr d a) d 3) ∧
     (s.accLive h = true → (∃ t ∈ x.tasks, t.w 5 = h) ∨ (∃ t ∈ c.tiles, s.tileLocked c.die t = true) → Refuses s (.accfr d a) d 1) ∧
     (s.accLive h = true → (∀ t ∈ x.tasks, t.w 5 ≠ h) → (∀ t ∈ c.tiles, s.tileLocked c.die t = false) →
       ∃ acc tiles, Gives s (.accfr d a) (s.setDie c.die { x with acc, tiles }) d 0#64 ∧
         (∀ n ∈ c.tiles, lookup n tiles = none ∧ (s.banksWf → ∀ k < 2 ^ 16, acc.read (2 ^ 16 * n + k) 1 = 0)) ∧
         ∀ n, n ∉ c.tiles → lookup n tiles = lookup n x.tiles ∧ (s.banksWf → ∀ k < 2 ^ 16, acc.read (2 ^ 16 * n + k) 1 = x.acc.read (2 ^ 16 * n + k) 1))) ∧
  (∀ (s : State), s.noPrefix → isUtell s.cpu.core = false → s.flows →
     ∀ (h j : Word) (i : Instr), ((∃ d a b im, i = .accld d a b im ∧ h = s.rd a ∧ j = wordInt ((s.rd b).toInt + immInt im)) ∨
         (∃ d a b im, i = .accst d a b im ∧ h = s.rd a ∧ j = wordInt ((s.rd d).toInt + immInt im)) ∨
         ∃ a b, i = .accz a b ∧ h = s.rd a ∧ j = s.rd b) →
       let c := accSet h
       let tile := 16 * (c.q0 + field j 18 14) + c.t0 + field j 13 10
       let base := 2 ^ 16 * tile + 4 * (128 * field j 9 3 + 16 * field j 2 0)
       let x := s.die s.here
       (s.accLive h = false ∨ c.die ≠ s.here → exec i s = .next (s.trap 0x13 h)) ∧
       (s.accLive h = true → c.die = s.here → field j 63 19 ≠ 0 ∨ c.nq ≤ field j 18 14 ∨ c.nt ≤ field j 13 10 → exec i s = .next (s.trap 0x13 j)) ∧
       (s.accLive h = true → c.die = s.here → field j 63 19 = 0 → field j 18 14 < c.nq → field j 13 10 < c.nt → s.tileLocked s.here tile = true →
         exec i s = .next { s with cpu := { s.cpu with wait := .tile s.here [tile] } }) ∧
       (s.accLive h = true → c.die = s.here → field j 63 19 = 0 → field j 18 14 < c.nq → field j 13 10 < c.nt → s.tileLocked s.here tile = false →
         (∀ d a b im, i = .accld d a b im → x.acc.elemsPoisoned base 16 = true → exec i s = .next (s.trap 0x14 j)) ∧
         (∀ d a b im, i = .accld d a b im → x.acc.elemsPoisoned base 16 = false → ∃ t, exec i s = .next t ∧ Completes s t 0 s.seqPc [vNum d] 2#64 [⟨[vNum d], false, false, 0⟩] ∧
           (s.banksWf → ∀ k < 16, t.cpu.reg (vNum d) / 2 ^ (32 * k) % 2 ^ 32 = x.acc.read (base + 4 * k) 4)) ∧
         (∀ d a b im, i = .accst d a b im → ∃ t, exec i s = .next t ∧ Completes (s.modDie s.here (fun (x : Die) => { x with
             acc := x.acc.setElems base ((List.range 16).map (s.lane 32 b)) })) t 0 s.seqPc [] 0#64 []) ∧
         (∀ a b, i = .accz a b → ∃ t, exec i s = .next t ∧ Completes (s.modDie s.here (fun (x : Die) => { x with
             acc := x.acc.setElems (2 ^ 16 * tile) (List.replicate 16384 0) })) t 64 s.seqPc [] 0#64 [])))

/-- R352, R363 and R364: `SSMRUN` accepts a run whose control block is right and answers its number; a read of the block that stops ends it
there, and one of walked memory is BADSHAPE. `SSMSTAT` answers its state. The chain that was never used and when tiles are released are
DEDUCED (logs 63, 91). It also rests on logs 47 and 52. -/
def Obligations.StateSpaceRuns : Prop :=
  ∀ (s : State) (d a b : Reg), s.noPrefix → isUtell s.cpu.core = false →
    let die := (s.rd b).toNat
    (((s.rd a).toNat % 256 ≠ 0 → exec (.ssmrun d a b) s = .next (s.trap 0x10 (s.rd a))) ∧
      ((s.rd a).toNat % 256 = 0 → 24 ≤ die → exec (.ssmrun d a b) s = .next (s.trap 0x03 (s.rd b))) ∧
      ((s.rd a).toNat % 256 = 0 → die < 24 → RecordStops s (.ssmrun d a b) d (s.rd a) 256) ∧
      ∀ s1 ws p, (s.rd a).toNat % 256 = 0 → die < 24 → s.readRecord (s.rd a) 256 = .ok s1 ws → s1.part? s1.cpu.part = some p →
        let r := runOf s1 ws
        (runShape r = false → Gives s (.ssmrun d a b) s1 d (refused 2)) ∧
        (runShape r = true → ∀ x, s1.runRefusal p die r = some x → Gives s (.ssmrun d a b) s1 d x) ∧
        (runShape r = true → s1.runRefusal p die r = none → s1.chainBusy die p = true → Gives s (.ssmrun d a b) s1 d (refused 1)) ∧
        (runShape r = true → s1.runRefusal p die r = none → s1.chainBusy die p = false →
          Gives s (.ssmrun d a b) (runQueued s1 die r).reschedule d (word (chainOf (s1.die die).runChains p.num).next))) ∧
    ∀ p, s.part? s.cpu.part = some p →
      let w := s.rd a
      let die := field w 52 48
      let c := chainOf (s.die die).runChains p.num
      (field w 63 53 ≠ 0 ∨ 24 ≤ die → exec (.ssmstat d a) s = .next (s.trap 0x03 s.cpu.operandVal)) ∧
      (field w 63 53 = 0 → die < 24 → p.dies.contains die = false → Refuses s (.ssmstat d a) d 4) ∧
      (field w 63 53 = 0 → die < 24 → p.dies.contains die = true → c.next ≤ field w 47 0 → Refuses s (.ssmstat d a) d 3) ∧
      (field w 63 53 = 0 → die < 24 → p.dies.contains die = true → field w 47 0 < c.next →
        (∀ r, s.run? die s.cpu.part (field w 47 0) = some r → r.started = true → (∀ u ∈ r.active, u.hold = .none) →
          Gives s (.ssmstat d a) s d (word (2 * 2 ^ 60 + min r.done.sum (2 ^ 20 - 1) * 2 ^ 28))) ∧
        (∀ code n, s.run? die s.cpu.part (field w 47 0) = none → s.runUndelivered die (field w 47 0) = false →
          c.outcome (field w 47 0) = some (code, n) → c.next ≤ field w 47 0 + 65536 →
          Gives s (.ssmstat d a) s d (word ((if code = 0 then 4 else 5) * 2 ^ 60 + code * 2 ^ 48 + min n (2 ^ 20 - 1) * 2 ^ 28))))

/-- R366 to R371: `JINIT` reads the record and the weights, a fault or a poisoned word of which it takes, refuses a record that is not
right, a die or a target outside the partition and a full die, and else makes a join and answers its handle. Clove writes its fields of the
record where they translate then (R393), or later where that write is to wait (R399, R411). Record writes that wait or cannot be made, and a
record or weights in a device page, follow logs 41, 47 and 66. It also rests on log 52. -/
def Obligations.JoinMaking : Prop :=
  ∀ (s : State) (d a b : Reg), s.noPrefix → isUtell s.cpu.core = false →
    let die := (s.rd b).toNat
    ((s.rd a).toNat % 256 ≠ 0 → exec (.jinit d a b) s = .next (s.trap 0x10 (s.rd a))) ∧
    ((s.rd a).toNat % 256 = 0 → 24 ≤ die → exec (.jinit d a b) s = .next (s.trap 0x03 (s.rd b))) ∧
    ((s.rd a).toNat % 256 = 0 → die < 24 → RecordStops s (.jinit d a b) d (s.rd a) 256) ∧
    ∀ s1 ws, (s.rd a).toNat % 256 = 0 → die < 24 → s.readRecord (s.rd a) 256 = .ok s1 ws →
      let j0 : Join := { idx := 0, gen := 0, from_ := s1.origin, at_ := s.rd a, words := ws.take 8, weights := [], members := [] }
      (∀ s2, j0.w 3 ≠ 0#64 → s1.readBytes (j0.w 3) j0.nmem = .stopped s2 → exec (.jinit d a b) s = .next s2) ∧
      (j0.w 3 ≠ 0#64 → s1.readBytes (j0.w 3) j0.nmem = .walked → Gives s (.jinit d a b) s1 d (refused 2)) ∧
      ∀ s2 wt p, (if j0.w 3 = 0#64 then .ok s1 (List.replicate j0.nmem 1) else s1.readBytes (j0.w 3) j0.nmem) = .ok s2 wt →
        s2.part? s2.cpu.part = some p →
        let j := { j0 with weights := wt, members := List.replicate j0.nmem {} }
        let form := p.formRefusal (field (j.w 7) 41 40) (j.w 5)
        let full := p.jquota ≤ ((s2.die die).joins.filter (fun k => k.from_.part == p.num)).length ∨ 1024 ≤ (s2.die die).joins.length ∨
          s2.journalFull die = true
        let x := s2.die die
        let gen := x.joinGen % 65535 + 1
        let idx := ((List.range 1024).find? (fun i => !x.joins.any (fun k => k.idx == i))).getD 0
        let h := gen * 2 ^ 32 + die * 2 ^ 27 + idx
        let s3 := s2.setDie die { x with joinGen := gen, joins := x.joins ++ [{ j with gen, idx }] }
        (joinShape j = false ∨ wt.sum < j.quorum ∨ form = some (refused 2) → Gives s (.jinit d a b) s2 d (refused 2)) ∧
        (joinShape j = true → j.quorum ≤ wt.sum → form ≠ some (refused 2) → form ≠ none ∨ p.dies.contains die = false →
          Gives s (.jinit d a b) s2 d (refused 4)) ∧
        (joinShape j = true → j.quorum ≤ wt.sum → form = none → p.dies.contains die = true → full → Gives s (.jinit d a b) s2 d (refused 1)) ∧
        (joinShape j = true → j.quorum ≤ wt.sum → form = none → p.dies.contains die = true → ¬ full →
          let v := wt.sum + h * 2 ^ 64 + (h % 2 ^ 64) * 2 ^ 128
          let s4 := s3.recordWrite { j with gen, idx } die 64 v 192
          let clove : Agent := s1.origin.agent die 5
          Gives s (.jinit d a b) ((s4.journal die 6 h).release .part) d (word h) ∧
            ((∀ r ∈ x.records, r.from_ ≠ s1.origin ∨ r.at_ ≠ s.rd a) → bitOf (s.rd a) 56 = true →
              s4 = s3.engineWrite clove.writer (.loc s1.cpu.core (field (s.rd a) 17 0 + 64)) v 192) ∧
            ((∀ r ∈ x.records, r.from_ ≠ s1.origin ∨ r.at_ ≠ s.rd a) → bitOf (s.rd a) 56 = false →
              match s3.engineWriteVa clove (s.rd a + 64#64) v 192 with
              | (s5, none) => s4 = s5
              | (s5, some f) => ∀ s6 hold, s5.engineStop clove .write f = (s6, .wait hold) →
                s4 = s6.modDie die (fun x => { x with records := x.records ++ [⟨s1.origin, s.rd a, [(64, v, 192)], hold⟩] })))

/-- R367, R372 to R375 and R388: `JBIND`, `JCONTRIB` and `JARRIVE` of a strand and its member; what the join no longer takes is denied, but
a contribution that has begun completes, though its join has been freed since, and what stops Clove at a slot stops the instruction (its
wait is the model's, logs 41 and 66). A member whose arrival is deferred, a supervisor context as a member and a device page as a source
follow logs 65, 66 and 67. -/
def Obligations.JoinMembers : Prop :=
  ∀ (s : State) (d a b : Reg), s.noPrefix → isUtell s.cpu.core = false →
    (s.liveJoin (s.rd a).toNat = none → Refuses s (.jbind d a b) d 3) ∧
    (∀ die j, s.liveJoin (s.rd a).toNat = some (die, j) → j.from_.part ≠ s.cpu.part → Refuses s (.jbind d a b) d 4) ∧
    (∀ die j, s.joinOf (s.rd a).toNat die j →
      let m := (s.rd b).toNat
      let x := j.member m
      let free := s.liveJoin (field s.cpu.jmem 47 0) = none ∧ x.strand = none ∧ x.state ≠ .arrived ∧ x.state ≠ .killed ∧ x.failed = false ∧ j.state = 0
      (j.nmem ≤ m → Refuses s (.jbind d a b) d 2) ∧
      (m < j.nmem → ¬ free → Refuses s (.jbind d a b) d 4) ∧
      (m < j.nmem → free → field (j.slot m) 63 56 ≠ 0 → Refuses s (.jbind d a b) d 2) ∧
      (m < j.nmem → free → field (j.slot m) 63 56 = 0 → ∀ s1, s.engineWriteVa (j.agent die) (j.slot m) 0 j.sstr = (s1, none) →
        let s2 := s1.modJoin (j.handle die) (fun (j : Join) => j.modMember m (fun x => { x with strand := some s1.cpu.sid }))
        Gives s (.jbind d a b) { s2 with cpu := { s2.cpu with
          jmem := word (m * 2 ^ 56 + j.handle die), khnd := if j.w 4 = 0#64 then s2.cpu.khnd else j.w 4 } } d 0#64)) ∧
    (∀ die j f s1, s.joinOf (s.rd a).toNat die j → (s.rd b).toNat < j.nmem → s.liveJoin (field s.cpu.jmem 47 0) = none →
      let m := (s.rd b).toNat
      let x := j.member m
      x.strand = none → x.state ≠ .arrived → x.state ≠ .killed → x.failed = false → j.state = 0 → field (j.slot m) 63 56 = 0 →
      s.engineWriteVa (j.agent die) (j.slot m) 0 j.sstr = (s1, some f) → exec (.jbind d a b) s = .next (s1.cloveStop die j d .write f)) ∧
    (field (s.rd b) 63 48 ≠ 0 → exec (.jcontrib d a b) s = .next (s.trap 0x03 s.cpu.operandVal)) ∧
    (∀ i s0, (i = .jcontrib d a b ∧ field (s.rd b) 63 48 = 0 ∧ s0 = { s with cpu := { s.cpu with begun := false } }) ∨ (i = .jarrive d ∧ s0 = s) →
      (s.liveJoin (field s.cpu.jmem 47 0) = none → i = .jarrive d ∨ s.cpu.begun = false → Gives s i s0 d (refused 3)) ∧
      (s.begunJoin (field s.cpu.jmem 47 0) = none → Gives s i s0 d (refused 3)) ∧
      (∀ die j, i ≠ .jarrive d → s.cpu.begun = true → s.begunJoin (field s.cpu.jmem 47 0) = some (die, j) →
        j.from_.part ≠ s.cpu.part ∨ (j.member (field s.cpu.jmem 63 56)).strand ≠ some s.cpu.sid → Gives s i s0 d (refused 4)) ∧
      (∀ die j, s.liveJoin (field s.cpu.jmem 47 0) = some (die, j) → j.from_.part ≠ s.cpu.part → Gives s i s0 d (refused 4)) ∧
      ∀ die j, s.joinOf (field s.cpu.jmem 47 0) die j → ¬ s.memberActs die j (field s.cpu.jmem 63 56) →
        i = .jarrive d ∨ s.cpu.begun = false ∨ (j.member (field s.cpu.jmem 63 56)).strand ≠ some s.cpu.sid → Gives s i s0 d (refused 4)) ∧
    (∀ die j m, s.memberActs die j m ∨ (s.cpu.begun = true ∧ s.begunJoin (field s.cpu.jmem 47 0) = some (die, j) ∧
        j.from_.part = s.cpu.part ∧ m = field s.cpu.jmem 63 56 ∧ (j.member m).strand = some s.cpu.sid) →
      let s0 : State := { s with cpu := { s.cpu with begun := false } }
      (field (s.rd b) 63 48 = 0 →
        let off := if s.rd b = 0#64 then 0 else field (s.rd b) 23 0
        let n := if s.rd b = 0#64 then j.count else field (s.rd b) 47 24
        let va := j.slot m + word (off * j.e)
        let w := 8 * j.e
        let right := (s.rd a).toNat % j.e = 0 ∧ n ≠ 0 ∧ off + n ≤ j.count ∧ field (j.slot m) 63 56 = 0
        ((s.rd a).toNat % j.e ≠ 0 → exec (.jcontrib d a b) s = .next (s0.trap 0x10 (s.rd a))) ∧
        ((s.rd a).toNat % j.e = 0 → n = 0 ∨ j.count < off + n ∨ field (j.slot m) 63 56 ≠ 0 → Gives s (.jcontrib d a b) s0 d (refused 2)) ∧
        (∀ s1 f, right → (s0.release .part).sourceRead (sectors (s.rd a) (n * j.e)) = (s1, .error f) → exec (.jcontrib d a b) s =
          .next ({ s1 with cpu := { s1.cpu with begun := f.waits } }.stopAt [] f .read)) ∧
        (∀ s1 src f, right → (s0.release .part).sourceRead (sectors (s.rd a) (n * j.e)) = (s1, .ok src) →
          s1.slotStop (j.agent die) (j.slot m) va (n * j.e) = some f →
          exec (.jcontrib d a b) s = .next ({ s1 with cpu := { s1.cpu with begun := f.waits } }.cloveStop die j d .both f)) ∧
        ∀ s1 s2 s3 src old, right → (s0.release .part).sourceRead (sectors (s.rd a) (n * j.e)) = (s1, .ok src) →
          s1.slotStop (j.agent die) (j.slot m) va (n * j.e) = none → s1.engineRead (j.agent die) va (n * j.e) = .val s2 old →
          let sums := (List.range n).map (fun k => j.add (old / 2 ^ (w * k) % 2 ^ w) (src / 2 ^ (w * k) % 2 ^ w))
          s2.engineWriteVa (j.agent die) va (packNat w (sums.map (·.1))) (n * j.e) = (s3, none) →
          Gives s (.jcontrib d a b) (s3.modJoin (j.handle die) (fun (j : Join) => j.modMember m (fun x =>
            { x with flags := x.flags ||| (flagsOf sums).toNat }))) d 0#64)) ∧
    ∀ die j m, s.memberActs die j m →
      (j.replay ≠ none → j.inReplay m = false → Refuses s (.jarrive d) d 4) ∧
      (j.replay = none ∨ j.inReplay m = true → (j.member m).state = .arriving → Gives s (.jarrive d) (s.release .part) d 0#64) ∧
      (∀ x xs, j.replay = none ∨ j.inReplay m = true → (j.member m).state ≠ .arriving → (s.release .part).boundTasks (j.handle die) m = x :: xs →
        Gives s (.jarrive d) ((s.release .part).modJoin (j.handle die) (fun (j : Join) => j.modMember m (fun y =>
          { y with state := .arriving, waits := (x :: xs).map (fun z => (z.1, z.2.seq)) }))) d 0#64) ∧
      (j.replay = none ∨ j.inReplay m = true → (j.member m).state ≠ .arriving → (s.release .part).boundTasks (j.handle die) m = [] →
        let j1 := j.modMember m (fun x => { x with state := .arrived, waits := [] })
        let s1 := (s.release .part).modJoin (j.handle die) (fun _ => j1)
        (j1.reached = false → Gives s (.jarrive d) s1 d 0#64) ∧ (j1.reached = true → Gives s (.jarrive d) (s1.releaseJoin die j1 false) d 0#64))

/-- R375, R379, R382, R384, R385 and R388: `JQRY`, `JKILL`, `JROSTER`, `JREPLAY`, `JCLOSE` and `JREL` on a join of the issuing context's
partition. A read of the replay mask that stops ends `JREPLAY` there, and one of walked memory is BADSHAPE. What `JROSTER` and `JCLOSE` do
at the points that the rules leave open follows logs 65 and 67. R366 and R383: a handle that is not live, or of another partition, is
refused; `JWAIT` of the join that its register names, or JMEM, answers the status once the join is complete, and waits until then. A `JWAIT`
that completes at once is no kill point (DEDUCED, log 92). It also rests on logs 64 and 123. -/
def Obligations.JoinCalls : Prop :=
  (∀ (s : State) (d a b : Reg) (die : Nat) (j : Join), s.noPrefix → isUtell s.cpu.core = false → s.joinOf (s.rd a).toNat die j →
     let h := j.handle die
     let sel := s.rd b
     let m := field sel 7 0
     Gives s (.jqrySt d a) s d (word (j.state * 2 ^ 60 + (if j.replay = none then 0 else 2 ^ 59) + (if j.forced then 2 ^ 58 else 0)
       + j.code * 2 ^ 48 + h)) ∧
     Gives s (.jqryWt d a) s d (word (j.total * 2 ^ 32 + j.weight)) ∧
     (field sel 63 9 ≠ 0 ∨ (bitOf sel 8 = false ∧ j.nmem ≤ m) → Refuses s (.jkill d a b) d 2) ∧
     (field sel 63 9 = 0 → bitOf sel 8 = true ∨ m < j.nmem →
       (j.state ≠ 0 → Refuses s (.jkill d a b) d 4) ∧
       (j.state = 0 → bitOf sel 8 = true →
         Gives s (.jkill d a b) (s.straggleAll h j.nmem 2 (fun m => !j.inReplay m)).reschedule d 0#64) ∧
       (j.state = 0 → bitOf sel 8 = false → j.arrived m = true ∨ j.inReplay m = true → Refuses s (.jkill d a b) d 4) ∧
       (j.state = 0 → bitOf sel 8 = false → j.arrived m = false → j.inReplay m = false →
         Gives s (.jkill d a b) (s.straggle h m 2).reschedule d 0#64)) ∧
     (∀ i ∈ [.jroster d a b, .jreplay d a b], sel.toNat % 32 ≠ 0 → exec i s = .next (s.trap 0x10 sel)) ∧
     (sel.toNat % 32 = 0 → j.state ≠ 2 → j.state ≠ 3 → Refuses s (.jroster d a b) d 4) ∧
     (∀ fs, sel.toNat % 32 = 0 → j.state = 2 ∨ j.state = 3 → s.flows →
       Finds (fun va => s.locate va 8 .write) ((List.range 4).map (fun i => sel + word (8 * i))) fs →
       (s.touched fs).storePoison 8 fs fs = none → ∃ t, exec (.jroster d a b) s = .next t ∧
         Completes ((s.touched fs).storeFound false 8 fs ((List.range 4).map (fun i => j.roster / 2 ^ (64 * i) % 2 ^ 64))).dropCarried t 0 s.seqPc
           [d.toNat] 0#64 (accessReq s [d.toNat]) ∧ t.rd d = if d = 0#5 then 0#64 else word (popcount j.roster 256)) ∧
     (sel.toNat % 32 = 0 → (∃ x ∈ j.members, x.state = .arrived) ∨ j.replay ≠ none → Refuses s (.jreplay d a b) d 4) ∧
     (sel.toNat % 32 = 0 → (∀ x ∈ j.members, x.state ≠ .arrived) → j.replay = none → RecordStops s (.jreplay d a b) d sel 32) ∧
     (∀ s1 ws, sel.toNat % 32 = 0 → (∀ x ∈ j.members, x.state ≠ .arrived) → j.replay = none → s.readRecord sel 32 = .ok s1 ws →
       let r := packNat 64 (ws.map BitVec.toNat)
       let bad := r = 0 ∨ 2 ^ j.nmem ≤ r ∨ (j.fill = 1 ∧ (j.weights.zipIdx.map (fun (w, i) => if r.testBit i then w else 0)).sum = 0)
       let j1 := { j with replay := some r }
       (bad → Gives s (.jreplay d a b) s1 d (refused 2)) ∧
       (¬ bad → Gives s (.jreplay d a b) (((s1.modJoin h (fun _ => j1)).recordWrite j1 die 192 r 32).putStatus j1 die) d 0#64)) ∧
     (j.state = 1 → Refuses s (.jclose d a) d 1) ∧
     (2 ≤ j.state → Gives s (.jclose d a) (s.freeJoin die h) d 0#64) ∧
     (j.state = 0 →
       let s1 := s.straggleAll h j.nmem 3 (fun _ => true)
       let j1 := (s1.join? h).getD j
       let flags := (j1.members.map (fun m => if m.state == .arrived then m.flags else 0)).foldl (· ||| ·) 0
       Gives s (.jclose d a) ((s1.finishJoin die { j1 with state := 4, code := 9, arrw := j1.weight, flags }
         (word (j1.total * 2 ^ 32 + j1.weight))).freeJoin die h) d 0#64) ∧
     (s.cpu.sup = false → exec (.jrel d a) s = .next (s.trap 0x07 (s.cpu.head.setWidth 64))) ∧
     (s.cpu.sup = true → j.state ≠ 0 ∨ j.weight = 0 → Refuses s (.jrel d a) d 4) ∧
     (s.cpu.sup = true → j.state = 0 → j.weight ≠ 0 → Gives s (.jrel d a) (s.releaseJoin die j true) d 0#64)) ∧
  (∀ (s : State) (d a b : Reg), s.noPrefix → isUtell s.cpu.core = false →
     (∀ i, i ∈ [.jqrySt d a, .jqryWt d a, .jkill d a b, .jclose d a] ∨ (i ∈ [.jroster d a b, .jreplay d a b] ∧ (s.rd b).toNat % 32 = 0) ∨
         (i = .jrel d a ∧ s.cpu.sup = true) →
       (s.liveJoin (s.rd a).toNat = none → Refuses s i d 3) ∧
       ∀ die j, s.liveJoin (s.rd a).toNat = some (die, j) → j.from_.part ≠ s.cpu.part → Refuses s i d 4) ∧
     let h := if a = 0#5 then field s.cpu.jmem 47 0 else (s.rd a).toNat
     (s.liveJoin h = none → Refuses s (.jwait d a) d 3) ∧
     (∀ die j, s.liveJoin h = some (die, j) → j.from_.part ≠ s.cpu.part → Refuses s (.jwait d a) d 4) ∧
     ∀ die j, s.joinOf h die j →
       (2 ≤ j.state → Gives s (.jwait d a) (if field s.cpu.jmem 47 0 = h then { s with cpu := { s.cpu with jmem := 0#64 } } else s) d
         (word (j.state * 2 ^ 60 + (if j.replay = none then 0 else 2 ^ 59) + (if j.forced then 2 ^ 58 else 0) + j.code * 2 ^ 48 + j.handle die))) ∧
       (j.state < 2 → ∀ s2, Waits s (.jwait d a) s 0x05 .join (fun (t : State) =>
         t.modJoin h (fun (j : Join) => { j with waiters := j.waiters ++ [(t.cur, d.toNat)] })) s2))

/-- R382: `KMASK.off` sets STS.KOFF; `KMASK.on` clears it, and a pending kill is taken immediately after it. That a strand stepped in a gang
stop takes its kill there too, though R388 has kills wait for the end of the stop, is the model's choice (log 131). R381: taking a kill, the
oldest that is pending. The instruction at which it is taken has no other effect and is counted. The wait is abandoned, with the uses the
strand carries; the strand's mailboxes are freed (R321), its prefixes are cleared and JMEM is zero. With KHND zero the strand is retired, as
`QUIT` retires it; a handler that is no target gives the trap at the strand's own PC; else i0 holds the kill word, in place at once, and
control is at the handler, whose line is met as it is entered. It also rests on logs 55 and 104. -/
def Obligations.KillMasks : Prop :=
  (∀ (s : State), s.noPrefix → isUtell s.cpu.core = false → s.flows →
     (∃ t, exec .kmaskOff s = .next t ∧ Completes s t 0 s.seqPc [] 0x2000#64 []) ∧
     let s1 : State := { s with cpu := { s.cpu with sts := s.cpu.sts &&& ~~~0x2000#64 } }
     (s1.cpu.killable = false → ∃ t, exec .kmaskOn s = .next t ∧ Completes s1 t 0 s.seqPc [] 0#64 []) ∧
     (s1.cpu.killable = true → exec .kmaskOn s = .next s1.killHere)) ∧
  ((∀ (s : State), ∃ t, Completes s t 0 s.cpu.pc [] 0#64 [] ∧ s.killHere = t.deliverKill) ∧
   ∀ (s : State) (sid : Nat) (w : Word) (rest : List Word), s.cur = .strand sid → s.cpu.kill = w :: rest →
     let k := s.cpu.khnd
     let u := s.abandonWait.freeMail s.cpu.core s.cur
     let u1 : State := { u with cpu := { u.cpu with sts := u.cpu.sts &&& ~~~0x1F4#64, jmem := 0#64, kill := rest } }
     let line := u1.lineOf (lineAddr k)
     (u.cpu.wait = .none ∧ u.cpu.trapDue = none ∧ u.cpu.passed = [] ∧ u.cpu.carried = [] ∧ u.cpu.pc = s.cpu.pc ∧ u.cpu.sts = s.cpu.sts ∧
       u.cpu.khnd = k ∧ (∀ n, u.cpu.settled n = s.cpu.settled n) ∧ u.cpu.commit.older = s.cpu.commit.older) ∧
     (∀ m ∈ (u.core s.cpu.core).mail, m.owner ≠ some s.cur) ∧
     (∀ x ∈ u.dies, (∀ q ∈ x.2.words, q.ctx ≠ s.cur) ∧ (∀ b ∈ x.2.bars, ∀ q ∈ b.waiters, q.1 ≠ s.cur) ∧
       (∀ j ∈ x.2.joins, ∀ q ∈ j.waiters, q.1 ≠ s.cur) ∧ ∀ b ∈ x.2.blocks, ∀ q ∈ b.queue, q.ctx ≠ s.cur) ∧
     (k = 0#64 → s.deliverKill = u1.retire sid) ∧
     (k ≠ 0#64 → field k 63 57 ≠ 0 ∨ field k 5 0 = 0 ∨ line = .illegal ∨ (∃ src is, line = .ok src is ∧ is.length < field k 5 0) →
       s.deliverKill = u1.trap 0x05 k) ∧
     (k ≠ 0#64 → field k 63 57 = 0 → field k 5 0 ≠ 0 →
       (∃ src is, line = .ok src is ∧ field k 5 0 ≤ is.length) ∨ (∃ c v, line = .trap c v) ∨ (∃ f, line = .fail f) ∨ line = .conflict →
       let t := s.deliverKill
       t = { u1 with cpu := t.cpu } ∧ t.cpu.pc = k ∧ t.cpu.reg 24 = w.toNat ∧ t.cpu.settled 24 = w.toNat ∧
         (∀ n, n ≠ 24 → t.cpu.settled n = s.cpu.settled n) ∧ t.cpu.commit.older = s.cpu.commit.older ∧
         t.cpu.rest = { u1.cpu with pc := k }.rest))

/-! ### Traps, supervisors, translation and partitions -/

/-- R243, R244, R246 and R247: a trap with a cause of its own. Of a strand, the event has the instruction's own PC, and nothing else of the
context changes; in a supervisor context it is a supervisor fault: the core stops, its accesses and results are in place, and the fault goes
to the log of its partition and, as a machine check, to the management controller. R140, R243, R244 and R251: `TRAP` and, outside a
supervisor context, `SVC` take their trap with Rtn as its PC and the operand as its value. -/
def Obligations.SynchronousTraps : Prop :=
  (∀ (s : State) (cause : Nat) (val : Word),
     (∀ sid, s.cur = .strand sid → cause < 0x40 → TrapTaken s (s.trap cause val) sid cause s.cpu.pc val) ∧
     ∀ c, s.cur = .sup c → s.trap cause val = s.supFault c cause s.cpu.pc val ∧
       let reports := (s.core c).events.filter (fun e => e.cause == 0x42)
       let s1 := s.setCore c { s.core c with supMode := .stopped, events := (s.core c).events.filter (fun e => e.cause != 0x42) }
       let s2 := ({ s1 with cpu := { s.cpu.commit with outs := [], wait := .idle, hold := 0 } }).faultLog s.cpu.part
         [word (1 + cause * 2 ^ 8 + c % 2 ^ 16 * 2 ^ 16 + dieOf c * 2 ^ 35), s.cpu.pc, val, 0#64]
       let t := s.trap cause val
       (reports = [] → t = { s2 with checks := s2.checks ++ [(c, cause)] }) ∧
       (t.core c).supMode = .stopped ∧ (∀ e ∈ (t.core c).events, e.cause ≠ 0x42) ∧ (c, cause) ∈ t.checks ∧
       t.cpu.wait = .idle ∧ t.cpu.outs = [] ∧ t.cpu.pc = s.cpu.pc ∧ t.cpu.sts = s.cpu.sts ∧ ∀ n, t.cpu.reg n = s.cpu.settled n) ∧
  (∀ (s : State) (i : Instr) (cause : Nat) (val : Word), s.noPrefix →
     ((∃ m, i = .trap m ∧ cause = 0x31 ∧ val = m.setWidth 64) ∨
       (s.isSup = false ∧ cause = 0x30 ∧ ((∃ n, i = .svc n ∧ val = n.setWidth 64) ∨ (i, val) ∈ [(.lend, 0x8000#64), (.smove, 0x8001#64),
         (.sreg, 0x8002#64), (.sret, 0x8003#64), (.pspill, 0x8004#64), (.sstep, 0x8005#64), (.flog, 0x8006#64)]))) →
     (∀ sid, s.cur = .strand sid → ∃ t, exec i s = .next t ∧ TrapTaken s t sid cause s.seqPc val) ∧
     (∀ c, s.cur = .sup c → exec i s = .next (s.supFault c cause s.seqPc val)))

/-- R249: `WFE` takes the oldest event of its core, a gang stop or step end first, into TPC, TVAL and TCAUSE, and waits where there is none;
a trap is held until it is disposed of. Both `WFE` and `TRET` need SUP, and `TRET` a held trap, which it disposes of. R48, R196 and R250: a
strand resumed at a target issues there next with its wait over, its prefixes kept only where the target is the PC of its trap; a target
with a bit of 63:57 set, one whose bytes are no line, and one whose index is 0 or beyond its line queue a trap instead, and the strand stays
suspended where it was. It rests on log 129 of the model. -/
def Obligations.TrapReturns : Prop :=
  (∀ (s : State), s.noPrefix → s.flows →
     (∀ i ∈ [.wfe, .tret], s.cpu.sup = false → exec i s = .next (s.trap 0x07 (s.cpu.head.setWidth 64))) ∧
     (s.cpu.sup = true →
       let k := s.core s.cpu.core
       (k.held ≠ none → exec .wfe s = .next (s.trap 0x03 s.cpu.operandVal)) ∧
       (k.held = none → k.events = [] → exec .wfe s = .next { s with cpu := { s.cpu with wait := .idle } }) ∧
       (∀ e rest, k.held = none →
         (k.events = e :: rest ∧ ∀ x ∈ k.events, x.cause ≠ 0x3F) ∨
           (∃ before after, k.events = before ++ e :: after ∧ (∀ x ∈ before, x.cause ≠ 0x3F) ∧ e.cause = 0x3F ∧ rest = before ++ after) →
         let s1 := s.setCore s.cpu.core { k with events := rest, held := if e.cause < 0x3F then some (e.slot, e.pc) else none }
         ∃ t, exec .wfe s = .next t ∧ Completes { s1 with cpu := { s.cpu with tpc := e.pc, tval := e.val, tcause := word (e.slot * 256 + e.cause) } }
           t 0 s.seqPc [] 0#64 []) ∧
       (k.held = none → exec .tret s = .next (s.trap 0x03 s.cpu.operandVal)) ∧
       (∀ slot pc, k.held = some (slot, pc) →
         let s1 := (s.drain (fun p => p.ctx == s.cur)).modCore s.cpu.core (fun k => { k with held := none })
         (lookup slot k.slots = none → ∃ t, exec .tret s = .next t ∧ Completes s1 t 0 s.seqPc [] 0#64 []) ∧
         (∀ sid, lookup slot k.slots = some sid → (s1.resumeAt sid pc s.cpu.tpc).flows →
           ∃ t, exec .tret s = .next t ∧ Completes (s1.resumeAt sid pc s.cpu.tpc) t 0 (s1.resumeAt sid pc s.cpu.tpc).seqPc [] 0#64 [])))) ∧
  (∀ (s : State) (c sid : Nat) (t : Thread) (at_ pc : Word), s.cur = .sup c → c < 6240 → s.thread? (.strand sid) = some t →
     let s1 := s.modThread (.strand sid) (fun t => if pc = at_ then t else t.clearPrefix)
     (∀ src is, field pc 63 57 = 0 → (s1.focus (.strand sid)).lineOf (lineAddr pc) = .ok src is → 1 ≤ field pc 5 0 → field pc 5 0 ≤ is.length →
       (s.resumeAt sid at_ pc).thread? (.strand sid) =
         some { (if pc = at_ then t else { t with sts := t.sts &&& ~~~0x1F4#64 }) with pc, wait := .none } ∧
       (s.resumeAt sid at_ pc).cpu = s.cpu ∧ ∀ x, (s.resumeAt sid at_ pc).core x = s.core x) ∧
     let traps (cause : Nat) : Prop :=
       ((s.resumeAt sid at_ pc).core t.core).events = (s.core t.core).events ++ [{ cause, slot := t.slot, pc, val := pc }] ∧
         ∃ u, (s.resumeAt sid at_ pc).thread? (.strand sid) = some u ∧ u.wait = .suspended ∧ u.pc = t.pc ∧ u.hold = t.hold
     (field pc 63 57 ≠ 0 → traps 0x05) ∧
     (field pc 63 57 = 0 → (s1.focus (.strand sid)).lineOf (lineAddr pc) = .illegal → traps 0x02) ∧
     ∀ src is, field pc 63 57 = 0 → (s1.focus (.strand sid)).lineOf (lineAddr pc) = .ok src is →
       field pc 5 0 = 0 ∨ is.length < field pc 5 0 → traps 0x05)

/-- R119, R121, R136, R252, R255, R267 and R427: the services of a supervisor context answer in o0. A flush that `SMOVE` makes and that
traps gives the strand that trap, in place of the one disposed of, and one that has to wait makes the service wait. What `SMOVE` does with a
suspended strand and the services' refusals follow logs 70 and 71; the result 0 of an accepted `LEND`, `SMOVE`, `SRET`, `SSTEP` or `FLOG` is
the model's choice (log 128). R252: a supervisor context's `SVC` with another number is a supervisor fault, and needs no more. It also rests
on logs 101, 108, 123 and 135. -/
def Obligations.SupervisorServices : Prop :=
  (∀ (s : State), s.noPrefix → s.isSup = true →
     let arg (n : Nat) : Word := s.cpu.rdNum (8 + n)
     (∀ l, s.launch? (arg 0) = some l → l.part = s.cpu.part → Serves s .lend (s.callOff (arg 0) 2) 0#64) ∧
     (∀ l, s.launch? (arg 0) = some l → l.part ≠ s.cpu.part → Serves s .lend s (refused 4)) ∧
     (s.launch? (arg 0) = none → Serves s .lend s (refused 3)) ∧
     (∀ i ∈ [.smove, .sreg, .sret, .sstep], s.slotStrand (arg 0) = none → Serves s i s (refused 3)) ∧
     (∀ sid, s.slotStrand (arg 0) = some sid →
       (place (arg 1) s.cpu.core = none → exec .smove s = .next (s.trap 0x03 s.cpu.operandVal)) ∧
       (∀ p pl, place (arg 1) s.cpu.core = some pl → s.part? s.cpu.part = some p →
         let core := s.cpu.core
         let slot := s.slotOf sid
         let at_ := s.trapPc core sid
         let dispose (s : State) : State := s.modCore core (fun k => { k with
           held := k.held.filter (fun h => h.1 ≠ slot), events := k.events.filter (fun e => ¬ (e.cause < 0x3F ∧ e.slot = slot)) })
         (p.allows pl = false → Serves s .smove s (refused 4)) ∧
         (p.allows pl = true → pl.bound = some core →
           Serves s .smove (((dispose s).leaveAll (.strand sid)).resumeAt sid at_ s.cpu.tpc) 0#64) ∧
         (∀ s1, p.allows pl = true → pl.bound ≠ some core →
           (if (s.focus (.strand sid)).cpu.flushed then .ok (s.focus (.strand sid)) else (s.focus (.strand sid)).flush) = .ok s1 →
           Serves s .smove ((dispose (s1.sendOff pl at_ s.cpu.tpc)).focus s.cur) 0#64) ∧
         (∀ s1, p.allows pl = true → pl.bound ≠ some core → (s.focus (.strand sid)).cpu.flushed = false →
           (s.focus (.strand sid)).flush = .stopped s1 →
           (s1.cpu.wait = .suspended → ∀ s2, (dispose (s.focus (.strand sid))).flush = .stopped s2 → Serves s .smove (s2.focus s.cur) 0#64) ∧
           (s1.cpu.wait ≠ .suspended →
             let u := ({ s1 with cpu := { s1.cpu with wait := (s.focus (.strand sid)).cpu.wait } }).focus s.cur
             exec .smove s = .next { u with cpu := { u.cpu with wait := s1.cpu.wait } }))) ∧
       (∀ t, s.thread? (.strand sid) = some t →
         let n := (arg 1).toNat
         (n = 0 ∨ 31 < n → Serves s .sreg s (refused 2)) ∧
         (1 ≤ n → n ≤ 31 → Serves s .sreg (if bitOf (arg 3) 0 then s.modThread (.strand sid) (fun t => t.commit.poke n (arg 2)) else
           s.modThread (.strand sid) id) (word (field (t.commit.peek n) 62 0)))) ∧
       Serves s .sret ((s.leaveAll (.strand sid)).retire sid) 0#64 ∧
       (s.gangStopped s.cpu.core = false → Serves s .sstep s (refused 4)) ∧
       (s.gangStopped s.cpu.core = true → (s.core s.cpu.core).stepping ≠ none → Serves s .sstep s (refused 1)) ∧
       (s.gangStopped s.cpu.core = true → (s.core s.cpu.core).stepping = none →
         Serves s .sstep (s.modCore s.cpu.core (fun k => { k with stepping := some ((arg 0).toNat, sid), stepped := false })) 0#64)) ∧
     (24 ≤ (arg 0).toNat → exec .pspill s = .next (s.trap 0x03 s.cpu.operandVal)) ∧
     ((arg 0).toNat < 24 → (arg 1).toNat = 0 ∨ 65536 < (arg 1).toNat → Serves s .pspill s (refused 2)) ∧
     ∀ p, s.part? s.cpu.part = some p →
       (∀ die n, die = (arg 0).toNat → n = (arg 1).toNat → die < 24 → 1 ≤ n → n ≤ 65536 →
         (p.dies.contains die = false → Serves s .pspill s (refused 4)) ∧
         (p.dies.contains die = true →
           let sids := ((s.parkedOn die).take n).map (·.2)
           Serves s .pspill (sids.foldl (fun s sid => s.overflowRecord die sid) s) (word sids.length))) ∧
       (p.logFull = true → Serves s .flog s (refused 1)) ∧
       (p.logFull = false → Serves s .flog (s.faultLog p.num [word (5 + (arg 0).toNat % 2 ^ 56 * 256), arg 1, arg 2, arg 3]) 0#64)) ∧
  (∀ (s : State) (n : BitVec 16) (c : Nat), s.noPrefix → s.cur = .sup c → n.toNat < 0x8000 ∨ 0x8006 < n.toNat →
     exec (.svc n) s = .next (s.supFault c 0x03 s.cpu.pc (n.setWidth 64)))

/-- R258 to R260 and R264 to R266: `GSTOP` stops every core of the partition once, `GRES` lets them go on, and `SLICE` starts a slice of the
tenant's core and fills its slots. All need SUP. What a retired strand leaves, the strands that share a core, and a stop's report that
`GRES` finds due follow logs 72, 73 and 120. It also rests on logs 39, 127 and 130. -/
def Obligations.SharingCores : Prop :=
  ∀ (s : State) (d a b : Reg), s.noPrefix →
    (∀ i ∈ [.gstop, .gres, .slice d a b], s.cpu.sup = false → exec i s = .next (s.trap 0x07 (s.cpu.head.setWidth 64))) ∧
    (s.cpu.sup = true → ∀ p, s.part? s.cpu.part = some p →
      (p.stopped = true → Ends s .gstop s) ∧
      (p.stopped = false → Ends s .gstop (p.cores.foldl (fun s c => s.stopCore (p.gangGen + 1) c)
        (s.modPart p.num (fun q => { q with stopped := true, gangGen := p.gangGen + 1 })))) ∧
      (p.stopped = false → Ends s .gres s) ∧
      (p.stopped = true → Ends s .gres (State.takeKills { s.modPart p.num (fun p => { p with stopped := false }) with
        cores := s.cores.map (fun (n, k) => (n, if p.owns n then { k with stepping := none, stepped := false, stopping := none } else k)) } p))) ∧
    (s.cpu.sup = true →
      let w := s.rd a
      let core := s.cpu.core
      (field w 63 48 ≠ 0 ∨ (s.owner core).map (·.num) ≠ some (field w 47 32) → exec (.slice d a b) s = .next (s.trap 0x03 s.cpu.operandVal)) ∧
      (field w 63 48 = 0 → (s.owner core).map (·.num) = some (field w 47 32) →
        let len := field w 31 0
        let slb : Word := if len = 0 then 0#64 else if (s.rd b).toInt < 0 then word len + s.rd b else word len
        let s1 := s.modCore core (fun k => { k with
          slb, sliceLen := len, tenant := field w 47 32, slicing := len != 0, sliceEnd := false, overrun := false })
        let s2 := (s1.setPend d (s.core core).slb).fillSlots core
        (len = 0 ∨ 0 < slb.toInt → Ends s (.slice d a b) s2) ∧ (len ≠ 0 → slb.toInt ≤ 0 → Ends s (.slice d a b) (s2.endSlice core))))

/-- R391, R397, R405 to R407 and R415: `TLBI` ends the block fetches it concerns, drops the composites and the table entries of the
partition that it names, and evicts the blocks that were fetched through them; its reach over partitions is the model's (log 77). `TLBI.h`
and `TLBI.all` need the hypervisor grant too. -/
def Obligations.Invalidations : Prop :=
  ∀ (s : State) (a b : Reg), s.noPrefix →
    (∀ i ∈ [.tlbiG a b, .tlbiH a, .tlbiAsid b, .tlbiAll], s.cpu.sup = false → exec i s = .next (s.trap 0x07 (s.cpu.head.setWidth 64))) ∧
    (s.cpu.sup = true →
      let page (r : Reg) : Nat := (s.rd r).toNat / 4096 * 4096
      let p := s.cpu.part
      (∀ i ∈ [.tlbiG a b, .tlbiAsid b], 256 ≤ (s.rd b).toNat → exec i s = .next (s.trap 0x03 s.cpu.operandVal)) ∧
      ((s.rd b).toNat < 256 → Ends s (.tlbiG a b) (s.invalidate p (.guest (s.rd b).toNat (page a) 4096)) ∧
        Ends s (.tlbiAsid b) (s.invalidate p (.asid (s.rd b).toNat))) ∧
      (∀ i ∈ [.tlbiH a, .tlbiAll], s.hypGrant = false → exec i s = .next (s.trap 0x07 (s.cpu.head.setWidth 64))) ∧
      (s.hypGrant = true → Ends s (.tlbiH a) (s.invalidate p (.hyp (page a) 4096)) ∧ Ends s .tlbiAll (s.invalidate p .all))) ∧
    ∀ (p : Nat) (x : Drop), let s1 := s.endFetches p x
      let s2 := s1.dropCached p x
      (∀ e, e ∈ s2.tlb ↔ e ∈ s1.tlb ∧ (e.part = p → x.hits e.asid e.base e.comp.gsize e.ipas = false)) ∧
      (∀ e, e ∈ s2.ptes ↔ e ∈ s1.ptes ∧ (e.part = p → x.hitsPte e = false)) ∧
      (∃ bs : List (Nat × BlockKey), s.invalidate p x = bs.foldl (fun t b => t.forceEvict b.1 b.2) s2 ∧
        ∀ d k, (d, k) ∈ bs ↔ ∃ y b, (d, y) ∈ s1.dies ∧ b ∈ y.blocks ∧ b.key = k ∧ k.part = p ∧ b.hit x = true)

/-- R399 to R404: `FQPOP` answers the oldest entry that has not been popped, or arms a doorbell; `FQREP` replays an entry or gives it up and
answers its waiters. Both need SUP. The corners of its refusals and which posted writes `FQPOP` waits for follow logs 14, 50 and 75. It also
rests on logs 74, 76 and 98. -/
def Obligations.FaultQueues : Prop :=
  ∀ (s : State) (d a b : Reg) (rep : Instr), s.noPrefix → rep ∈ [.fqrepReplay d a b, .fqrepGiveup d a b] →
    (∀ i ∈ [.fqpop d a b, rep], s.cpu.sup = false → exec i s = .next (s.trap 0x07 (s.cpu.head.setWidth 64))) ∧
    (s.cpu.sup = true → ∀ p, s.part? s.cpu.part = some p →
      let w := s.rd a
      let die := field w 4 0
      let hyp := bitOf w 8
      let good := field w 63 9 = 0 ∧ field w 7 5 = 0 ∧ die < 24 ∧ d.toNat ≤ 28
      let oldest := (s.die die).faults.find? (fun e => e.hyp == hyp && !e.popped && (hyp || e.part == s.cpu.part))
      (¬ good → exec (.fqpop d a b) s = .next (s.trap 0x03 s.cpu.operandVal)) ∧
      (good → b ≠ 0#5 → (s.rd b).toNat % 8 ≠ 0 → exec (.fqpop d a b) s = .next (s.trap 0x10 (s.rd b))) ∧
      let bell := (s.rd b).toNat % 8 = 0 ∧ field (s.rd b) 63 56 = 0 ∧ ∃ c, s.quiet (s.rd b) = some c ∧ c.w = false ∧ c.wr = true
      (good → b = 0#5 ∨ bell →
        (p.dies.contains die = false ∨ (hyp = true ∧ p.hyp = false) → GivesFour s (.fqpop d a b) s d [refused 4]) ∧
        (p.dies.contains die = true → hyp = false ∨ p.hyp = true →
          (∀ e, oldest = some e → GivesFour s (.fqpop d a b) ((s.drain (fun p => p.by_.part == e.part)).modDie die (fun (x : Die) => { x with
            faults := x.faults.map (fun y => if y.token = e.token then { y with popped := true } else y) })) d (e.words die)) ∧
          (oldest = none → s.rd b = 0#64 → GivesFour s (.fqpop d a b) s d []) ∧
          (oldest = none → s.rd b ≠ 0#64 →
            GivesFour s (.fqpop d a b) (s.armBell die (bellKey die hyp s.cpu.part) (s.rd b).toNat) d []))) ∧
      (good → b ≠ 0#5 → (s.rd b).toNat % 8 = 0 → field (s.rd b) 63 56 ≠ 0 ∨ s.quiet (s.rd b) = none ∨
          (∃ c, s.quiet (s.rd b) = some c ∧ (c.w = true ∨ c.wr = false)) → GivesFour s (.fqpop d a b) s d [refused 2])) ∧
    (s.cpu.sup = true →
      let w := s.rd a
      let die := field w 55 48
      let good := (s.rd b).toNat ≤ 1 ∧ field w 63 56 = 0 ∧ die < 24
      (¬ good → exec rep s = .next (s.trap 0x03 s.cpu.operandVal)) ∧
      (good → (∀ e ∈ (s.die die).faults, e.token ≠ field w 31 0) → Refuses s rep d 3) ∧
      (∀ e, good → (s.die die).faults.find? (fun e => e.token == field w 31 0) = some e →
        (field w 47 32 ≠ s.cpu.part ∨ e.part ≠ s.cpu.part ∨ (e.hyp = true ∧ s.hypGrant = false) → Refuses s rep d 4) ∧
        (field w 47 32 = s.cpu.part → e.part = s.cpu.part → e.hyp = false ∨ s.hypGrant = true →
          Gives s rep ((s.release .part).settleFault die e (decide (s.rd b = 1#64))) d (word e.wcnt))))

/-- R392 and R405: `PGMAP` writes one table entry, where its old value is what the request expects, and answers the old value, its bit 63
clear (R94); a replaced entry is invalidated. An entry of a guest table is written through the hypervisor leaf that maps it, whose D is set.
A read of the request that stops ends it there, and one of walked memory is BADSHAPE. A record in a device page, and how far a replaced
entry reaches, follow logs 47 and 77. It also rests on log 128. -/
def Obligations.PageMaps : Prop :=
  ∀ (s : State) (d a : Reg), s.noPrefix →
    (s.cpu.sup = false → exec (.pgmap d a) s = .next (s.trap 0x07 (s.cpu.head.setWidth 64))) ∧
    (s.cpu.sup = true → (s.rd a).toNat % 32 ≠ 0 → exec (.pgmap d a) s = .next (s.trap 0x10 (s.rd a))) ∧
    (s.cpu.sup = true → (s.rd a).toNat % 32 = 0 → RecordStops s (.pgmap d a) d (s.rd a) 32) ∧
    ∀ s1 ws p, s.cpu.sup = true → (s.rd a).toNat % 32 = 0 → s.readRecord (s.rd a) 32 = .ok s1 ws → s1.part? s1.cpu.part = some p →
      let addr := (ws.getD 0 0#64).toNat
      let e := ws.getD 1 0#64
      let w := ws.getD 2 0#64
      let hyp := bitOf w 24
      (mapOk ws = false → Gives s (.pgmap d a) s1 d (refused 2)) ∧
      (mapOk ws = true → hyp = true → p.hyp = false → Gives s (.pgmap d a) s1 d (refused 4)) ∧
      (mapOk ws = true → hyp = false ∨ p.hyp = true →
        (∀ r, s1.mapEntry p hyp (field w 15 0) addr (field w 23 16) = .error r → Gives s (.pgmap d a) s1 d r) ∧
        ∀ at_ tleaf, s1.mapEntry p hyp (field w 15 0) addr (field w 23 16) = .ok (at_, tleaf) →
          let s2 := s1.release .part
          let old := word (s2.hbmWord at_)
          let s3 := (match tleaf with | some x => s2.setD x | none => s2).writeAt s2.here (.direct at_) e.toNat 8
          let n := levelSize (field w 23 16)
          (bitOf w 25 = true → old ≠ ws.getD 3 0#64 → Gives s (.pgmap d a) s2 d (refused 1)) ∧
          (bitOf w 25 = false ∨ old = ws.getD 3 0#64 →
            Gives s (.pgmap d a) (if bitOf old 0 = true ∧ old ≠ e then
              s3.invalidate p.num (if hyp then .hyp addr n else .guest (field w 15 0) addr n) else s3) d (word (field old 62 0))))

/-- R421, R422 and R429: `PRTN` queries, splits and merges nodes of the buddy tree; what changes it needs the hypervisor grant. A node below
one that is not split follows log 79. -/
def Obligations.PartitionNodes : Prop :=
  ∀ (s : State) (d a : Reg), s.noPrefix →
    let w := s.rd a
    let die := field w 4 0
    let lvl := field w 7 5
    let idx := field w 11 8
    let st := s.nodeState die lvl idx
    (∀ i ∈ [.prtnQry d a, .prtnSplit d a, .prtnMerge d a],
      (s.cpu.sup = false → exec i s = .next (s.trap 0x07 (s.cpu.head.setWidth 64))) ∧
      (s.cpu.sup = true → field w 63 12 ≠ 0 → exec i s = .next (s.trap 0x03 s.cpu.operandVal)) ∧
      (s.cpu.sup = true → field w 63 12 = 0 → 24 ≤ die → exec i s = .next (s.trap 0x03 w)) ∧
      (s.cpu.sup = true → field w 63 12 = 0 → die < 24 → 4 < lvl ∨ 2 ^ lvl ≤ idx → Refuses s i d 2)) ∧
    (s.cpu.sup = true → NodeWord w →
      Gives s (.prtnQry d a) s d (word (st.1 + if 2 ≤ st.1 then st.2 * 2 ^ 16 else 0)) ∧
      (s.hypGrant = false → Refuses s (.prtnSplit d a) d 4 ∧ Refuses s (.prtnMerge d a) d 4) ∧
      (s.hypGrant = true →
        (lvl = 4 → Refuses s (.prtnSplit d a) d 2) ∧
        (lvl ≠ 4 → s.nodeFree die lvl idx = false → Refuses s (.prtnSplit d a) d 1) ∧
        (lvl ≠ 4 → s.nodeFree die lvl idx = true → Gives s (.prtnSplit d a) (s.setNode ⟨die, lvl, idx, 1, 0⟩) d 0#64) ∧
        let split := s.stands die lvl idx = true ∧ ∃ n, s.node? die lvl idx = some n ∧ n.state = 1
        let free := s.nodeFree die (lvl + 1) (2 * idx) = true ∧ s.nodeFree die (lvl + 1) (2 * idx + 1) = true
        (¬ split → Refuses s (.prtnMerge d a) d 2) ∧
        (split → ¬ free → Refuses s (.prtnMerge d a) d 1) ∧
        (split → free → Gives s (.prtnMerge d a) (s.freeNode die lvl idx) d 0#64)))

/-! ### Events of the module -/

/-- R8 and the rules of launches, strands, messages, barriers, accesses from outside, memory and blocks: an event of these rows, where it is
due, does what the rules give it. A queue port takes the write of the tag whose turn it is, and answers it: a launch whose descriptor is
right and finds room, a retry, or a refusal that is logged (R114, R430). It rests on logs 36, 51, 76, 78, 83, 87, 93, 95, 102, 111, 113,
119, 125, 126, 132, 134 and 136 of the model. -/
def Obligations.ContactEvents : Prop :=
  ∀ (s : State) (e : Event) (t : State), s.subject = some e → contactEvent s e = some t ∨ memoryEvent s e = some t →
    exec e.row s = .next t

/-- R8 and the rules of movement engines, matrix engines, state-space runs, joins and slices. How much one event does, the DETAIL of a task
that ends in code 0x04, a member whose task ends in an error, and when tiles are released are the model's (logs 16, 53, 64, 91). It also
rests on logs 22, 35, 41, 52, 58, 59, 60, 62, 68, 112, 118, 138, 139 and 141. -/
def Obligations.EngineEvents : Prop :=
  ∀ (s : State) (e : Event) (t : State), s.subject = some e → engineEvent s e = some t → exec e.row s = .next t

/-- R8 and the rules of failures, resets and control registers; a write of 8 bytes to the service space is the write of the register there,
a write to a partition record's earlier words keeps the word, and any other write is logged; a read of 8 bytes answers the register, a
partition record without its reserved bits (R4, R425), zero at a reserved offset and where the rule says so, and any other read is logged
(R437). The codes of the management log, and what outlives a reset, are the model's (logs 84, 85, 89). It also rests on logs 52, 80, 81, 82,
83, 86, 88, 90, 117, 119, 122, 133 and 135. -/
def Obligations.ControlEvents : Prop :=
  (∀ (s : State) (e : Event) (t : State), s.subject = some e → failureEvent s e = some t ∨ controlEvent s e = some t →
    exec e.row s = .next t) ∧
  (∀ (s : State) (off size : Nat) (v : Word), s.subject = some (.serviceSpaceWrite off size v) →
    (∀ e t, size = 8 → serviceRegister off v = some e → controlEvent s e = some t → exec .serviceSpaceWrite s = .next t) ∧
    (size = 8 → 0x1000080 ≤ off → off < 0x1020000 → off % 8 = 0 → off % 128 ≠ 120 →
      exec .serviceSpaceWrite s = .next { s with prec := insert ((off - 0x1000000) / 8) v s.prec }) ∧
    (size ≠ 8 ∨ (serviceRegister off v = none ∧ (off < 0x1000080 ∨ 0x1020000 ≤ off ∨ off % 8 ≠ 0)) →
      exec .serviceSpaceWrite s = .next (s.mgmt 0x437 (word off) v))) ∧
  ∀ (s : State) (off size : Nat), s.subject = some (.serviceSpaceRead off size) →
    (size ≠ 8 ∨ off % 8 ≠ 0 → exec .serviceSpaceWrite s = .next (s.mgmt 0x437 (word off) 0#64)) ∧
    (size = 8 → off % 8 = 0 → ∃ v, exec .serviceSpaceWrite s = .next { s with replies := s.replies ++ [v] } ∧
      let c := (off - 0x10000) / 0x100
      let k := (off - 0x1000000) / 8
      (off = 0 → v = s.msr) ∧
      (0x1000 ≤ off → off < 0x1030 → v = s.ahash.getD ((off - 0x1000) / 8) 0#64) ∧
      (0x10000 ≤ off → off < 0x12000 → off % 0x100 < 32 → v = (lookup (4 * c + off % 0x100 / 8) s.stackErr).getD 0#64) ∧
      (0x20000 ≤ off → off < 0x21800 → off % 0x100 = 0 → v = (s.die ((off - 0x20000) / 0x100)).pewcfg) ∧
      (0x100000 ≤ off → off < 0x10C300 → v = 0#64) ∧
      (0x1000080 ≤ off → off < 0x1020000 →
        let w := (lookup k s.prec).getD 0#64
        v = if k % 16 = 0 then w &&& ~~~0xFC000000#64 else if k % 16 = 8 then w &&& 0xFFFF#64 else if k % 16 < 10 then w else 0#64) ∧
      (0x2000008 ≤ off → off < 0x2002000 → v = if (s.part? ((off - 0x2000000) / 8)).isSome then 1#64 else 0#64) ∧
      (serviceRegister off 0#64 = none → off < 0x1000080 ∨ 0x1020000 ≤ off → v = 0#64))

/-! ### The machine as a whole -/

/-- R41 to R53 and the tables of R89 to R91: the manual's two worked lines and its worked words decode to what it says they are. -/
def Obligations.DecodeWords : Prop :=
  lineInstrs workedLine = some [.ok (.add 16#5 9#5 10#5), .ok (.addi 8#5 8#5 0xFFFD#16), .ok .nop, .ok (.br 0xFFE1#16)] ∧
  lineInstrs workedLoop = some [.ok (.ldv ⟨false, none⟩ 1#3 16#5 0#16), .ok (.ldv ⟨false, none⟩ 2#3 17#5 0#16),
    .ok (.vffma ⟨false, none⟩ 2#3 0#3 1#3), .ok (.addi 16#5 16#5 0x40#16), .ok (.addi 17#5 17#5 0x40#16),
    .ok (.stv ⟨false, none⟩ 17#5 2#3 0xFFC0#16), .ok (.loop 18#5 1#16)] ∧
  decodeInstr 0x7643#16 0x2D49#64 = .ok (.kand .andn 1#2 2#2 3#2) ∧
  decodeInstr 0xB086#16 0x006102D7#64 = .ok (.spawnLabel .p2 23#5 22#5 0x0061#16) ∧
  decodeInstr 0x0800#16 0#64 = .ok .save ∧ decodeInstr 0x0700#16 0#64 = .ok .ret ∧
  decodeInstr 0x0382#16 0xFFC30100#64 = .ok (.brc .lt 8#5 0#5 0xFFC3#16) ∧
  decodeInstr 0x3540#16 0x00D1#64 = .ok (.movs 17#5 6#6) ∧ decodeInstr 0x3640#16 0x02A9#64 = .ok (.movt 9#6 21#5) ∧
  decodeInstr 0x2B81#16 0x030802B1#64 = .ok (.bfx true 17#5 21#5 8#6 12#7) ∧
  decodeInstr 0x7100#16 0#64 = .ok .rlx ∧ decodeInstr 0x8680#16 0x00000289#64 = .ok (.ldfe 9#5 20#5 0#16) ∧
  decodeInstr 0x9680#16 0x000026C0#64 = .ok (.stef 22#5 9#5 0#16) ∧ decodeInstr 0x9881#16 0x00000280#64 = .ok (.fesetF 20#5 0#16) ∧
  decodeInstr 0x838D#16 0x00000E02#64 = .ok (.ldvg ⟨true, some 1#2⟩ 2#3 16#5 3#3 0#16) ∧
  decodeInstr 0x8A83#16 0x00100330#64 = .ok (.ldm 3#3 16#5 25#5 16#16) ∧
  decodeInstr 0x9A81#16 0x00084612#64 = .ok (.stx .w 18#5 16#5 17#5 8#16) ∧
  decodeInstr 0xA784#16 0x00002E6A#64 = .ok (.acas .die 10#5 19#5 11#5 0#16) ∧ decodeInstr 0x8681#16 0x00000289#64 = .bad .operand ∧
  decodeInstr 0x8B80#16 0x00085211#64 = .ok (.ldnp .d 17#5 16#5 20#5 8#16) ∧
  decodeInstr 0xAB81#16 0x00000248#64 = .ok (.bhintPin 8#5 18#5 0#16) ∧
  decodeInstr 0xA904#16 0#64 = .ok (.fence .die) ∧ decodeInstr 0xA90C#16 0#64 = .bad .operand ∧
  decodeInstr 0x7002#16 0#64 = .ok (.fmt .bf16) ∧ decodeInstr 0xC940#16 0x0232#64 = .ok (.ssmrun 18#5 17#5 0#5) ∧
  decodeInstr 0xCA40#16 0x024A#64 = .ok (.ssmstat 10#5 18#5) ∧ decodeInstr 0xD901#16 0#64 = .ok .kmaskOn ∧
  decodeInstr 0xF005#16 0#64 = .ok (.trap 5#4) ∧ decodeInstr 0xF280#16 0x80030000#64 = .ok .sret ∧
  decodeInstr 0xFA41#16 0x0228#64 = .ok (.prtnSplit 8#5 17#5)

/-- R49 to R53, R60, R61 and R90: an instruction encoded with any stall count decodes to itself, alone in its line; the rows that a run
tells apart by its state share their words with the plain row; and what any head and tail decode to encodes to that head and tail again,
`NOP` and `ILL` apart, whose tails say nothing. -/
def Obligations.EncodeDecode : Prop :=
  (∀ (i : Instr) (e : Enc) (st : BitVec 2), i.canonical = true → encode i = some e →
    decodeInstr (e.head st) e.tail = .ok i ∧ decodeLine (oneLine (e.head st) e.tail) = some [⟨e.head st, e.tail⟩]) ∧
  (∀ (c : BitVec 2) (d a b : Reg), encode (.sendLoopback c d a b) = encode (.send c d a b) ∧
    encode (.sendEndOverflow c d a b) = encode (.send c d a b) ∧ encode (.recvArrival d a) = encode (.recv d a)) ∧
  ∀ (h : BitVec 16) (t : BitVec 64) (i : Instr), t.toNat < 2 ^ (16 * tailSlots (headTl h)) → decodeInstr h t = .ok i →
    i.canonical = true ∧ ∃ e, encode i = some e ∧
      (2 ≤ (headOp h).toNat → e.head (h.extractLsb' 4 2) = h ∧ e.tail = t)

/-- R59, R60, R92, R93 and R196: the instruction in the latch is checked in the order of R60's table, and the first condition that holds
gives the trap: no SUP where its opcode needs it, a Utell core without the unit, a tail length its opcode does not permit, an operand that
is no operand, the scope of a barrier that a Utell core lacks or a pending prefix its opcode does not accept, and, with CHK set, an operand
whose latency is unmet. The trap of an illegal opcode, the first in the order, is that instruction's own effect. An instruction that must
wait for an answer stays in its slot (R58, R219). That a trap for latencies names the first register in the order of the model's list is the
model's choice (log 105). It also rests on logs 18 and 124. -/
def Obligations.IssueChecks : Prop :=
  ∀ (s : State),
    let head : Word := s.cpu.head.setWidth 64
    let op := (headOp s.cpu.head).toNat
    let sup : Prop := s.cpu.sup = true ∨ ¬ ((op / 16 = 15 ∧ op ≠ 0xF0 ∧ op ≠ 0xF2) ∨ op ∈ [0xE7, 0xE8, 0xDB])
    let unit : Prop := isUtell s.cpu.core = false ∨ op / 16 ∉ [5, 6, 7, 12, 13, 14]
    (op = 0 ∨ 12 ≤ op % 16 → ∀ i, decodeInstr s.cpu.head s.cpu.tail = .ok i →
      s.checked = .inl i ∧ exec i s = .next (s.trap 0x01 head)) ∧
    (op ≠ 0 → op % 16 < 12 →
      (¬ sup → s.checked = .inr (s.trap 0x07 head)) ∧
      (sup → ¬ unit → s.checked = .inr (s.trap 0x18 head)) ∧
      (sup → unit → decodeInstr s.cpu.head s.cpu.tail = .bad .format → s.checked = .inr (s.trap 0x04 head)) ∧
      (sup → unit → decodeInstr s.cpu.head s.cpu.tail = .bad .operand → s.checked = .inr (s.trap 0x03 s.cpu.operandVal)) ∧
      ∀ i, sup → unit → decodeInstr s.cpu.head s.cpu.tail = .ok i →
        (isUtell s.cpu.core = true → (∃ sc x y z, (sc = .quad ∨ sc = .sect) ∧ (i = .bar sc x y ∨ i = .bara sc x y z)) →
          s.checked = .inr (s.trap 0x03 s.cpu.operandVal)) ∧
        (op ∉ [0x70, 0x71, 0x35, 0x36] →
          (s.cpu.pfxf = true ∧ op ∉ [0x72, 0x81, 0x82, 0x83, 0x85, 0x91, 0x92, 0x93, 0x95]) ∨
          (s.cpu.pfxr = true ∧ (op / 16 ∉ [8, 9] ∨ op ∈ [0x86, 0x87, 0x88, 0x96, 0x97, 0x98])) →
          s.checked = .inr (s.trap 0x03 s.cpu.operandVal)) ∧
        (badScope s.cpu.core i = false → s.cpu.prefixFits op = true →
          (∀ r short, s.cpu.chk = true → s.cpu.undersized (s.cpu.sources s.isSup i) = some (r, short) →
            s.checked = .inr (s.trap 0x06 (word (r + short * 2 ^ 8)))) ∧
          (s.cpu.chk = false ∨ s.cpu.undersized (s.cpu.sources s.isSup i) = none →
            (s.cpu.mustWait s.isSup op i = true → s.checked = .inr s) ∧ (s.cpu.mustWait s.isSup op i = false → s.checked = .inl i))))

/-- R208, R248, R276 and R317: after reset every byte of memory reads as zero and every word is full; every core's supervisor context is
idle with STS.SUP alone set and its registers zero; no strand, no partition, no raised trigger counter; nothing is ready to issue. That the
module holds no verified image is the model's choice (DESIGN CHOICE, log 17). Memory is in order. -/
def Obligations.ResetState : Prop :=
  (∀ (d : Nat) (l : Loc), State.reset.byteAt d l = 0#8 ∧ State.reset.fullAt l = true ∧ State.reset.poisonedAt l = false) ∧
  (∀ c < 6240, ∃ t, State.reset.thread? (.sup c) = some t ∧ t.sts = word (2 ^ 11) ∧ (∀ n, t.reg n = 0) ∧
    t.tpc = 0#64 ∧ t.tcause = 0#64 ∧ t.tval = 0#64 ∧ (State.reset.core c).supMode = .idle ∧ (State.reset.core c).events = []) ∧
  State.reset.strands = [] ∧ State.reset.parts = [] ∧
  (∀ d < 24, (State.reset.die d).trig = [] ∧ field (State.reset.die d).pewcfg 51 32 = 40000 ∧
    field (State.reset.die d).pewcfg 31 16 = 2000 ∧ field (State.reset.die d).pewcfg 7 0 = 64) ∧
  (∀ c, State.reset.ready c = false) ∧ State.reset.image = none ∧ State.reset.memoryOk

/-- R16, R43, R44, R47, R54 and R60: where it is the turn of the context in issue, which is ready and owes nothing before its instruction,
and the line at its PC decodes so that the instruction there is `i`, the step is `exec i` in the state where the line is held, the
instruction stands in the latch and a cycle of its core has passed; then the step ends. The line is the copy the context holds (how long it
holds one is DEDUCED, log 11), or what `DecodeLine` makes of the 64 bytes at its address, in the local store or in memory; of a line that is
fetched again, stores that no fence has shown the context stay hidden (R44). It also rests on logs 28 and 103. -/
def Obligations.StepRunsDecoded : Prop :=
  (∀ (s : State) (src : Option Found) (is : List Slotted) (sl : Slotted) (i : Instr),
    s.turn = some (.issue s.cur) → s.ready s.cur = true → s.cpu.fresh = false → s.cpu.flushed = false → s.cpu.trapDue = none →
    s.onlyFetch = false → s.cpu.staleCur = false → field s.cpu.pc 63 57 = 0 → field s.cpu.pc 5 0 ≠ 0 →
    s.entering.lineOf (lineAddr s.cpu.pc) = .ok src is → is[field s.cpu.pc 5 0 - 1]? = some sl →
    decodeInstr sl.head sl.tail = .ok i → (s.entered src is sl).issues sl i →
    step s = ended (exec i ((s.entered src is sl).noteStep s.cur s.cpu.core))) ∧
  ∀ (s : State) (la : Word),
    (∀ c, s.cpu.copy? (s.cpu.lineKey la) = some c → c.stale = false → s.lineOf la = .ok none c.insts) ∧
    (∀ l, let m := BitVec.ofNat 512 (s.readAt s.here l 64)
      (s.cpu.copy? (s.cpu.lineKey la) = none → s.lineSeen la l = m) ∧
      ∀ c, s.cpu.copyAt la l = some c →
        ((∀ x ∈ c.stores, x.seen = true) → s.lineSeen la l = m) ∧
        ((∀ x ∈ c.stores, x.seen = false) →
          let hidden := c.stores.foldl (fun (h : BitVec 512) x => h ||| x.mask) 0
          s.lineSeen la l = (c.bytes &&& hidden) ||| (m &&& ~~~hidden))) ∧
    (s.cpu.copy? (s.cpu.lineKey la) = none ∨ (∃ c, s.cpu.copy? (s.cpu.lineKey la) = some c ∧ c.stale = true) →
      ∀ l is, s.anyPoison l 64 = false → decodeLine (bytesOf (s.lineSeen la l).toNat 64) = some is →
      (l = .loc s.cpu.core (field la 17 0) → bitOf la 56 = true → field la 55 18 = 0 → s.regionOk (field la 17 0) 64 .exec = true →
        s.lineOf la = .ok (some (.at_ l la none)) is) ∧
      (∀ va c, bitOf la 56 = false → s.locateVirt la .exec = .at_ l va c → (∃ pa, l = .direct pa) → s.lineOf la = .ok (some (.at_ l la c)) is))

/-- R8, R95 and R247: no step of the module stops; what a program or an agent does wrong is a trap, a refusal in a register, a fault wait or
a log entry, and the module goes on. -/
def Obligations.NeverStops : Prop :=
  ∀ (s : State), ∃ t, step s = .next t

/-- R205, R207 and R229: every step keeps every bank in canonical form, so that equal memories are equal data, and posts no write of a local
store. -/
def Obligations.MemoryStaysInOrder : Prop :=
  ∀ (s t : State), s.memoryOk → step s = .next t → t.memoryOk
end

