-- ==== Sys2Proof/Laws/Registers.lean ====
section
/-! SUPPORT. Registers and results in flight: what is in place once every result has landed does not depend on when each landed. -/

namespace Sys2Proof.Machine

/-! ### Putting results in place -/

theorem Thread.put_zero (t : Thread) (v : Nat) : t.put 0 v = t := by rw [Thread.put, if_pos rfl]

theorem Thread.put_scalar (t : Thread) {n : Nat} (v : Nat) (h0 : n ≠ 0) (h : n < 32) :
    t.put n v = { t with regs := t.regs.set n (word v) h } := by rw [Thread.put, if_neg h0, dif_pos h]

theorem Thread.put_vector (t : Thread) {n : Nat} (v : Nat) (h1 : ¬ n < 32) (h : n - 32 < 8) :
    t.put n v = { t with vregs := t.vregs.set (n - 32) (BitVec.ofNat 512 v) h } := by
  rw [Thread.put, if_neg (by omega), dif_neg h1, dif_pos h]

theorem Thread.put_mask (t : Thread) {n : Nat} (v : Nat) (h1 : ¬ n < 32) (h2 : ¬ n - 32 < 8) (h : n - 40 < 4) :
    t.put n v = { t with kregs := t.kregs.set (n - 40) (BitVec.ofNat 16 v) h } := by
  rw [Thread.put, if_neg (by omega), dif_neg h1, dif_neg h2, dif_pos h]

theorem Thread.put_none (t : Thread) {n : Nat} (v : Nat) (h1 : ¬ n < 32) (h2 : ¬ n - 32 < 8) (h : ¬ n - 40 < 4) :
    t.put n v = t := by rw [Thread.put, if_neg (by omega), dif_neg h1, dif_neg h2, dif_neg h]

/-- The four kinds of register number, and those that name none. -/
theorem Thread.put_kinds (n : Nat) : n = 0 ∨ (n ≠ 0 ∧ n < 32) ∨ (¬ n < 32 ∧ n - 32 < 8) ∨
    (¬ n < 32 ∧ ¬ n - 32 < 8 ∧ n - 40 < 4) ∨ (¬ n < 32 ∧ ¬ n - 32 < 8 ∧ ¬ n - 40 < 4) := by omega

theorem Thread.put_put_same (t : Thread) (n v w : Nat) : (t.put n v).put n w = t.put n w := by
  rcases Thread.put_kinds n with h | ⟨h, h'⟩ | ⟨h, h'⟩ | ⟨h, h', h''⟩ | ⟨h, h', h''⟩
  · subst h; simp only [put_zero]
  · simp only [put_scalar _ _ h h', Vector.set_set]
  · simp only [put_vector _ _ h h', Vector.set_set]
  · simp only [put_mask _ _ h h' h'', Vector.set_set]
  · simp only [put_none _ _ h h' h'']

theorem Thread.put_comm (t : Thread) {n m : Nat} (ne : n ≠ m) (v w : Nat) : (t.put n v).put m w = (t.put m w).put n v := by
  rcases Thread.put_kinds n with h | ⟨h, h'⟩ | ⟨h, h'⟩ | ⟨h, h', h''⟩ | ⟨h, h', h''⟩ <;>
  rcases Thread.put_kinds m with k | ⟨k, k'⟩ | ⟨k, k'⟩ | ⟨k, k', k''⟩ | ⟨k, k', k''⟩
  all_goals first
    | (subst h; simp only [put_zero])
    | (subst k; simp only [put_zero])
    | (simp only [put_none _ _ h h' h''])
    | (simp only [put_none _ _ k k' k''])
    | (simp only [put_scalar _ _ h h', put_scalar _ _ k k', Vector.set_comm _ _ ne])
    | (simp only [put_vector _ _ h h', put_vector _ _ k k', Vector.set_comm _ _ (show n - 32 ≠ m - 32 by omega)])
    | (simp only [put_mask _ _ h h' h'', put_mask _ _ k k' k'', Vector.set_comm _ _ (show n - 40 ≠ m - 40 by omega)])
    | (simp only [put_scalar _ _ h h', put_vector _ _ k k'])
    | (simp only [put_scalar _ _ h h', put_mask _ _ k k' k''])
    | (simp only [put_vector _ _ h h', put_scalar _ _ k k'])
    | (simp only [put_vector _ _ h h', put_mask _ _ k k' k''])
    | (simp only [put_mask _ _ h h' h'', put_scalar _ _ k k'])
    | (simp only [put_mask _ _ h h' h'', put_vector _ _ k k'])

theorem modify_modify_same {α : Type} (l : List α) (i : Nat) (f g : α → α) : (l.modify i f).modify i g = l.modify i (g ∘ f) := by
  induction l generalizing i with
  | nil => simp
  | cons x xs ih => cases i <;> simp [ih]

theorem modify_comm_ne {α : Type} (l : List α) {i j : Nat} (h : i ≠ j) (f g : α → α) :
    (l.modify i f).modify j g = (l.modify j g).modify i f := by
  induction l generalizing i j with
  | nil => simp
  | cons x xs ih =>
    cases i <;> cases j <;> simp at h ⊢
    exact ih h

/-- A result in an older window, over one in the same place. -/
theorem Thread.putOlder_same (t : Thread) (up n v w : Nat) : (t.putOlder up n v).putOlder up n w = t.putOlder up n w := by
  simp only [Thread.putOlder, modify_modify_same]
  congr 1; congr 1; funext x
  simp only [Function.comp]
  split_ifs <;> simp

theorem Thread.putOlder_comm (t : Thread) {up up' n m : Nat} (hu : up ≠ 0) (hu' : up' ≠ 0) (ne : ¬ (n = m ∧ up = up')) (v w : Nat) :
    (t.putOlder up n v).putOlder up' m w = (t.putOlder up' m w).putOlder up n v := by
  simp only [Thread.putOlder]
  by_cases e : up = up'
  · subst e
    have ne : n ≠ m := fun h => ne ⟨h, rfl⟩
    simp only [modify_modify_same]
    congr 1; congr 1; funext x
    simp only [Function.comp]
    split_ifs <;> first
      | rfl
      | rw [Vector.set_comm _ _ (show n - 16 ≠ m - 16 by omega)]
      | rw [Vector.set_comm _ _ (show n - 24 ≠ m - 24 by omega)]
  · congr 1; exact modify_comm_ne _ (show up - 1 ≠ up' - 1 by omega) _ _

theorem Thread.put_putOlder (t : Thread) (up n m v w : Nat) : (t.put n v).putOlder up m w = (t.putOlder up m w).put n v := by
  rcases Thread.put_kinds n with h | ⟨h, h'⟩ | ⟨h, h'⟩ | ⟨h, h', h''⟩ | ⟨h, h', h''⟩
  · subst h; simp only [put_zero]
  · simp only [put_scalar _ _ h h', putOlder]
  · simp only [put_vector _ _ h h', putOlder]
  · simp only [put_mask _ _ h h' h'', putOlder]
  · simp only [put_none _ _ h h' h'', putOlder]

/-- Two results for one place: the later one stands. -/
theorem Thread.putFly_same (t : Thread) {f g : Fly} (hr : f.reg = g.reg) (hu : f.up = g.up) : (t.putFly f).putFly g = t.putFly g := by
  simp only [Thread.putFly, hr, hu]
  split
  · exact t.put_put_same _ _ _
  · exact t.putOlder_same _ _ _ _

/-- Results for two places, in either order. -/
theorem Thread.putFly_comm (t : Thread) {f g : Fly} (ne : ¬ (f.reg = g.reg ∧ f.up = g.up)) :
    (t.putFly f).putFly g = (t.putFly g).putFly f := by
  simp only [Thread.putFly]
  by_cases hf : f.up = 0 <;> by_cases hg : g.up = 0
  · simp only [hf, hg, if_true]; exact t.put_comm (fun h => ne ⟨h, by omega⟩) _ _
  · simp only [hf, hg, if_true, if_false]; exact t.put_putOlder _ _ _ _ _
  · simp only [hf, hg, if_true, if_false]; exact (t.put_putOlder _ _ _ _ _).symm
  · simp only [hf, hg, if_false]; exact t.putOlder_comm hf hg ne _ _

/-! ### Settling -/

/-- A result with its latency met. -/
def Fly.landed (f : Fly) : Fly := { f with left := 0 }

theorem Thread.putFly_landed (t : Thread) (f : Fly) : t.putFly f.landed = t.putFly f := rfl

/-- The places that settling has written or keeps. -/
theorem settle_places (t : Thread) (fl : List Fly) (p : Nat × Nat) :
    p ∈ fl.map (fun f => (f.reg, f.up)) ↔
      p ∈ (settle t fl).2.2 ∨ p ∈ (settle t fl).2.1.map (fun f => (f.reg, f.up)) := by
  induction fl with
  | nil => simp [settle]
  | cons f rest ih =>
    simp only [List.map_cons, List.mem_cons, ih, settle]
    split
    · rename_i h
      simp only [List.contains_iff_mem] at h
      constructor
      · rintro (rfl | h1 | h1)
        · exact .inl h
        · exact .inl h1
        · exact .inr h1
      · exact .inr
    · split
      · simp only [List.mem_cons, or_assoc]
      · simp only [List.map_cons, List.mem_cons, or_left_comm]

/-- A result in place before others settle counts for nothing where one of them has its place. -/
theorem settle_putFly_mem (fl : List Fly) (t : Thread) (g : Fly) (h : (g.reg, g.up) ∈ fl.map (fun f => (f.reg, f.up))) :
    fl.foldl Thread.putFly (t.putFly g) = fl.foldl Thread.putFly t := by
  induction fl generalizing t with
  | nil => simp at h
  | cons f rest ih =>
    simp only [List.foldl_cons]
    by_cases e : g.reg = f.reg ∧ g.up = f.up
    · rw [t.putFly_same e.1 e.2]
    · rw [t.putFly_comm e]
      refine ih _ ?_
      simp only [List.map_cons, List.mem_cons, Prod.mk.injEq] at h
      exact h.resolve_left e

/-- A result whose place no other has may as well be put last. -/
theorem settle_putFly_not_mem (fl : List Fly) (t : Thread) (g : Fly) (h : (g.reg, g.up) ∉ fl.map (fun f => (f.reg, f.up))) :
    fl.foldl Thread.putFly (t.putFly g) = (fl.foldl Thread.putFly t).putFly g := by
  induction fl generalizing t with
  | nil => rfl
  | cons f rest ih =>
    simp only [List.map_cons, List.mem_cons, Prod.mk.injEq, not_or] at h
    simp only [List.foldl_cons]
    rw [t.putFly_comm h.1, ih _ h.2]

/-- Settling in two goes comes to the same as in one. -/
theorem foldl_settle (t : Thread) (fl : List Fly) :
    (settle t fl).2.1.foldl Thread.putFly (settle t fl).1 = fl.foldl Thread.putFly t := by
  induction fl generalizing t with
  | nil => rfl
  | cons f rest ih =>
    have places := settle_places t rest (f.reg, f.up)
    simp only [List.foldl_cons, settle]
    split
    · rename_i h
      simp only [List.contains_iff_mem] at h
      rw [ih, settle_putFly_mem _ _ _ (places.mpr (.inl h))]
    · rename_i h
      simp only [List.contains_iff_mem] at h
      have same : (f.reg, f.up) ∈ (settle t rest).2.1.map (fun f => (f.reg, f.up)) ↔
          (f.reg, f.up) ∈ rest.map (fun f => (f.reg, f.up)) := by
        rw [places]; simp [h]
      by_cases m : (f.reg, f.up) ∈ rest.map (fun f => (f.reg, f.up))
      · rw [settle_putFly_mem _ _ _ m]
        split
        · rw [settle_putFly_mem _ _ _ (same.mpr m), ih]
        · rw [List.foldl_cons, settle_putFly_mem _ _ _ (same.mpr m), ih]
      · rw [settle_putFly_not_mem _ _ _ m]
        split
        · rw [settle_putFly_not_mem _ _ _ (fun x => m (same.mp x)), ih]
        · rw [List.foldl_cons, settle_putFly_not_mem _ _ _ (fun x => m (same.mp x)), ih]

/-- With every latency met, nothing stays in flight. -/
theorem settle_landed (t : Thread) (fl : List Fly) : (settle t (fl.map Fly.landed)).2.1 = [] := by
  induction fl with
  | nil => rfl
  | cons f rest ih =>
    simp only [List.map_cons, settle]
    split
    · exact ih
    · rw [if_pos (by rfl)]; exact ih

theorem foldl_landed (t : Thread) (fl : List Fly) : (fl.map Fly.landed).foldl Thread.putFly t = fl.foldl Thread.putFly t := by
  rw [List.foldl_map]; rfl

/-- What commits: every result in flight, oldest first. -/
theorem Thread.commit_eq (t : Thread) : t.commit = { t.fly.foldl Thread.putFly t with fly := [] } := by
  have key : (settle t (t.fly.map Fly.landed)).1 = t.fly.foldl Thread.putFly t := by
    rw [← foldl_landed, ← foldl_settle, settle_landed]; rfl
  rw [Thread.commit]
  split
  · rename_i h
    cases t; simp only at h; subst h; rfl
  · exact congrArg (fun (x : Thread) => { x with fly := [] }) key

end Sys2Proof.Machine
end

