-- ==== Sys2Proof/Laws/State.lean ====
section
/-! SUPPORT. One lemma per field of the state and update of it, true by `rfl`: an update leaves every other field as it was. -/

namespace Sys2Proof.Machine

/-! ### `State.modCpu` -/

@[simp] theorem State.modCpu_cur (s : State) (f : Thread → Thread) : (s.modCpu f).cur = s.cur := rfl
@[simp] theorem State.modCpu_turn (s : State) (f : Thread → Thread) : (s.modCpu f).turn = s.turn := rfl
@[simp] theorem State.modCpu_subject (s : State) (f : Thread → Thread) : (s.modCpu f).subject = s.subject := rfl
@[simp] theorem State.modCpu_tick (s : State) (f : Thread → Thread) : (s.modCpu f).tick = s.tick := rfl
@[simp] theorem State.modCpu_inputs (s : State) (f : Thread → Thread) : (s.modCpu f).inputs = s.inputs := rfl
@[simp] theorem State.modCpu_now (s : State) (f : Thread → Thread) : (s.modCpu f).now = s.now := rfl
@[simp] theorem State.modCpu_threads (s : State) (f : Thread → Thread) : (s.modCpu f).threads = s.threads := rfl
@[simp] theorem State.modCpu_sups (s : State) (f : Thread → Thread) : (s.modCpu f).sups = s.sups := rfl
@[simp] theorem State.modCpu_cores (s : State) (f : Thread → Thread) : (s.modCpu f).cores = s.cores := rfl
@[simp] theorem State.modCpu_dies (s : State) (f : Thread → Thread) : (s.modCpu f).dies = s.dies := rfl
@[simp] theorem State.modCpu_parts (s : State) (f : Thread → Thread) : (s.modCpu f).parts = s.parts := rfl
@[simp] theorem State.modCpu_hbm (s : State) (f : Thread → Thread) : (s.modCpu f).hbm = s.hbm := rfl
@[simp] theorem State.modCpu_lstore (s : State) (f : Thread → Thread) : (s.modCpu f).lstore = s.lstore := rfl
@[simp] theorem State.modCpu_posted (s : State) (f : Thread → Thread) : (s.modCpu f).posted = s.posted := rfl
@[simp] theorem State.modCpu_wire (s : State) (f : Thread → Thread) : (s.modCpu f).wire = s.wire := rfl
@[simp] theorem State.modCpu_tlb (s : State) (f : Thread → Thread) : (s.modCpu f).tlb = s.tlb := rfl
@[simp] theorem State.modCpu_ptes (s : State) (f : Thread → Thread) : (s.modCpu f).ptes = s.ptes := rfl
@[simp] theorem State.modCpu_nodes (s : State) (f : Thread → Thread) : (s.modCpu f).nodes = s.nodes := rfl
@[simp] theorem State.modCpu_msr (s : State) (f : Thread → Thread) : (s.modCpu f).msr = s.msr := rfl
@[simp] theorem State.modCpu_ahash (s : State) (f : Thread → Thread) : (s.modCpu f).ahash = s.ahash := rfl
@[simp] theorem State.modCpu_ahashForce (s : State) (f : Thread → Thread) : (s.modCpu f).ahashForce = s.ahashForce := rfl
@[simp] theorem State.modCpu_stackErr (s : State) (f : Thread → Thread) : (s.modCpu f).stackErr = s.stackErr := rfl
@[simp] theorem State.modCpu_lostStacks (s : State) (f : Thread → Thread) : (s.modCpu f).lostStacks = s.lostStacks := rfl
@[simp] theorem State.modCpu_retired (s : State) (f : Thread → Thread) : (s.modCpu f).retired = s.retired := rfl
@[simp] theorem State.modCpu_prec (s : State) (f : Thread → Thread) : (s.modCpu f).prec = s.prec := rfl
@[simp] theorem State.modCpu_modNum (s : State) (f : Thread → Thread) : (s.modCpu f).modNum = s.modNum := rfl
@[simp] theorem State.modCpu_pod (s : State) (f : Thread → Thread) : (s.modCpu f).pod = s.pod := rfl
@[simp] theorem State.modCpu_linkDown (s : State) (f : Thread → Thread) : (s.modCpu f).linkDown = s.linkDown := rfl
@[simp] theorem State.modCpu_mgmtLog (s : State) (f : Thread → Thread) : (s.modCpu f).mgmtLog = s.mgmtLog := rfl
@[simp] theorem State.modCpu_checks (s : State) (f : Thread → Thread) : (s.modCpu f).checks = s.checks := rfl
@[simp] theorem State.modCpu_qports (s : State) (f : Thread → Thread) : (s.modCpu f).qports = s.qports := rfl
@[simp] theorem State.modCpu_qanswers (s : State) (f : Thread → Thread) : (s.modCpu f).qanswers = s.qanswers := rfl
@[simp] theorem State.modCpu_replies (s : State) (f : Thread → Thread) : (s.modCpu f).replies = s.replies := rfl
@[simp] theorem State.modCpu_outside (s : State) (f : Thread → Thread) : (s.modCpu f).outside = s.outside := rfl
@[simp] theorem State.modCpu_nextOutside (s : State) (f : Thread → Thread) : (s.modCpu f).nextOutside = s.nextOutside := rfl
@[simp] theorem State.modCpu_linkOut (s : State) (f : Thread → Thread) : (s.modCpu f).linkOut = s.linkOut := rfl
@[simp] theorem State.modCpu_image (s : State) (f : Thread → Thread) : (s.modCpu f).image = s.image := rfl
@[simp] theorem State.modCpu_reports (s : State) (f : Thread → Thread) : (s.modCpu f).reports = s.reports := rfl
@[simp] theorem State.modCpu_memInited (s : State) (f : Thread → Thread) : (s.modCpu f).memInited = s.memInited := rfl
@[simp] theorem State.modCpu_clearing (s : State) (f : Thread → Thread) : (s.modCpu f).clearing = s.clearing := rfl
@[simp] theorem State.modCpu_rta (s : State) (f : Thread → Thread) : (s.modCpu f).rta = s.rta := rfl
@[simp] theorem State.modCpu_wbTags (s : State) (f : Thread → Thread) : (s.modCpu f).wbTags = s.wbTags := rfl
@[simp] theorem State.modCpu_scanWait (s : State) (f : Thread → Thread) : (s.modCpu f).scanWait = s.scanWait := rfl
@[simp] theorem State.modCpu_nextTag (s : State) (f : Thread → Thread) : (s.modCpu f).nextTag = s.nextTag := rfl

/-! ### `State.setCore` -/

@[simp] theorem State.setCore_cpu (s : State) (c : Nat) (v : Core) : (s.setCore c v).cpu = s.cpu := rfl
@[simp] theorem State.setCore_cur (s : State) (c : Nat) (v : Core) : (s.setCore c v).cur = s.cur := rfl
@[simp] theorem State.setCore_turn (s : State) (c : Nat) (v : Core) : (s.setCore c v).turn = s.turn := rfl
@[simp] theorem State.setCore_subject (s : State) (c : Nat) (v : Core) : (s.setCore c v).subject = s.subject := rfl
@[simp] theorem State.setCore_tick (s : State) (c : Nat) (v : Core) : (s.setCore c v).tick = s.tick := rfl
@[simp] theorem State.setCore_inputs (s : State) (c : Nat) (v : Core) : (s.setCore c v).inputs = s.inputs := rfl
@[simp] theorem State.setCore_now (s : State) (c : Nat) (v : Core) : (s.setCore c v).now = s.now := rfl
@[simp] theorem State.setCore_threads (s : State) (c : Nat) (v : Core) : (s.setCore c v).threads = s.threads := rfl
@[simp] theorem State.setCore_sups (s : State) (c : Nat) (v : Core) : (s.setCore c v).sups = s.sups := rfl
@[simp] theorem State.setCore_dies (s : State) (c : Nat) (v : Core) : (s.setCore c v).dies = s.dies := rfl
@[simp] theorem State.setCore_parts (s : State) (c : Nat) (v : Core) : (s.setCore c v).parts = s.parts := rfl
@[simp] theorem State.setCore_hbm (s : State) (c : Nat) (v : Core) : (s.setCore c v).hbm = s.hbm := rfl
@[simp] theorem State.setCore_lstore (s : State) (c : Nat) (v : Core) : (s.setCore c v).lstore = s.lstore := rfl
@[simp] theorem State.setCore_posted (s : State) (c : Nat) (v : Core) : (s.setCore c v).posted = s.posted := rfl
@[simp] theorem State.setCore_wire (s : State) (c : Nat) (v : Core) : (s.setCore c v).wire = s.wire := rfl
@[simp] theorem State.setCore_tlb (s : State) (c : Nat) (v : Core) : (s.setCore c v).tlb = s.tlb := rfl
@[simp] theorem State.setCore_ptes (s : State) (c : Nat) (v : Core) : (s.setCore c v).ptes = s.ptes := rfl
@[simp] theorem State.setCore_nodes (s : State) (c : Nat) (v : Core) : (s.setCore c v).nodes = s.nodes := rfl
@[simp] theorem State.setCore_msr (s : State) (c : Nat) (v : Core) : (s.setCore c v).msr = s.msr := rfl
@[simp] theorem State.setCore_ahash (s : State) (c : Nat) (v : Core) : (s.setCore c v).ahash = s.ahash := rfl
@[simp] theorem State.setCore_ahashForce (s : State) (c : Nat) (v : Core) : (s.setCore c v).ahashForce = s.ahashForce := rfl
@[simp] theorem State.setCore_stackErr (s : State) (c : Nat) (v : Core) : (s.setCore c v).stackErr = s.stackErr := rfl
@[simp] theorem State.setCore_lostStacks (s : State) (c : Nat) (v : Core) : (s.setCore c v).lostStacks = s.lostStacks := rfl
@[simp] theorem State.setCore_retired (s : State) (c : Nat) (v : Core) : (s.setCore c v).retired = s.retired := rfl
@[simp] theorem State.setCore_prec (s : State) (c : Nat) (v : Core) : (s.setCore c v).prec = s.prec := rfl
@[simp] theorem State.setCore_modNum (s : State) (c : Nat) (v : Core) : (s.setCore c v).modNum = s.modNum := rfl
@[simp] theorem State.setCore_pod (s : State) (c : Nat) (v : Core) : (s.setCore c v).pod = s.pod := rfl
@[simp] theorem State.setCore_linkDown (s : State) (c : Nat) (v : Core) : (s.setCore c v).linkDown = s.linkDown := rfl
@[simp] theorem State.setCore_mgmtLog (s : State) (c : Nat) (v : Core) : (s.setCore c v).mgmtLog = s.mgmtLog := rfl
@[simp] theorem State.setCore_checks (s : State) (c : Nat) (v : Core) : (s.setCore c v).checks = s.checks := rfl
@[simp] theorem State.setCore_qports (s : State) (c : Nat) (v : Core) : (s.setCore c v).qports = s.qports := rfl
@[simp] theorem State.setCore_qanswers (s : State) (c : Nat) (v : Core) : (s.setCore c v).qanswers = s.qanswers := rfl
@[simp] theorem State.setCore_replies (s : State) (c : Nat) (v : Core) : (s.setCore c v).replies = s.replies := rfl
@[simp] theorem State.setCore_outside (s : State) (c : Nat) (v : Core) : (s.setCore c v).outside = s.outside := rfl
@[simp] theorem State.setCore_nextOutside (s : State) (c : Nat) (v : Core) : (s.setCore c v).nextOutside = s.nextOutside := rfl
@[simp] theorem State.setCore_linkOut (s : State) (c : Nat) (v : Core) : (s.setCore c v).linkOut = s.linkOut := rfl
@[simp] theorem State.setCore_image (s : State) (c : Nat) (v : Core) : (s.setCore c v).image = s.image := rfl
@[simp] theorem State.setCore_reports (s : State) (c : Nat) (v : Core) : (s.setCore c v).reports = s.reports := rfl
@[simp] theorem State.setCore_memInited (s : State) (c : Nat) (v : Core) : (s.setCore c v).memInited = s.memInited := rfl
@[simp] theorem State.setCore_clearing (s : State) (c : Nat) (v : Core) : (s.setCore c v).clearing = s.clearing := rfl
@[simp] theorem State.setCore_rta (s : State) (c : Nat) (v : Core) : (s.setCore c v).rta = s.rta := rfl
@[simp] theorem State.setCore_wbTags (s : State) (c : Nat) (v : Core) : (s.setCore c v).wbTags = s.wbTags := rfl
@[simp] theorem State.setCore_scanWait (s : State) (c : Nat) (v : Core) : (s.setCore c v).scanWait = s.scanWait := rfl
@[simp] theorem State.setCore_nextTag (s : State) (c : Nat) (v : Core) : (s.setCore c v).nextTag = s.nextTag := rfl

/-! ### `State.modCore` -/

@[simp] theorem State.modCore_cpu (s : State) (c : Nat) (f : Core → Core) : (s.modCore c f).cpu = s.cpu := rfl
@[simp] theorem State.modCore_cur (s : State) (c : Nat) (f : Core → Core) : (s.modCore c f).cur = s.cur := rfl
@[simp] theorem State.modCore_turn (s : State) (c : Nat) (f : Core → Core) : (s.modCore c f).turn = s.turn := rfl
@[simp] theorem State.modCore_subject (s : State) (c : Nat) (f : Core → Core) : (s.modCore c f).subject = s.subject := rfl
@[simp] theorem State.modCore_tick (s : State) (c : Nat) (f : Core → Core) : (s.modCore c f).tick = s.tick := rfl
@[simp] theorem State.modCore_inputs (s : State) (c : Nat) (f : Core → Core) : (s.modCore c f).inputs = s.inputs := rfl
@[simp] theorem State.modCore_now (s : State) (c : Nat) (f : Core → Core) : (s.modCore c f).now = s.now := rfl
@[simp] theorem State.modCore_threads (s : State) (c : Nat) (f : Core → Core) : (s.modCore c f).threads = s.threads := rfl
@[simp] theorem State.modCore_sups (s : State) (c : Nat) (f : Core → Core) : (s.modCore c f).sups = s.sups := rfl
@[simp] theorem State.modCore_dies (s : State) (c : Nat) (f : Core → Core) : (s.modCore c f).dies = s.dies := rfl
@[simp] theorem State.modCore_parts (s : State) (c : Nat) (f : Core → Core) : (s.modCore c f).parts = s.parts := rfl
@[simp] theorem State.modCore_hbm (s : State) (c : Nat) (f : Core → Core) : (s.modCore c f).hbm = s.hbm := rfl
@[simp] theorem State.modCore_lstore (s : State) (c : Nat) (f : Core → Core) : (s.modCore c f).lstore = s.lstore := rfl
@[simp] theorem State.modCore_posted (s : State) (c : Nat) (f : Core → Core) : (s.modCore c f).posted = s.posted := rfl
@[simp] theorem State.modCore_wire (s : State) (c : Nat) (f : Core → Core) : (s.modCore c f).wire = s.wire := rfl
@[simp] theorem State.modCore_tlb (s : State) (c : Nat) (f : Core → Core) : (s.modCore c f).tlb = s.tlb := rfl
@[simp] theorem State.modCore_ptes (s : State) (c : Nat) (f : Core → Core) : (s.modCore c f).ptes = s.ptes := rfl
@[simp] theorem State.modCore_nodes (s : State) (c : Nat) (f : Core → Core) : (s.modCore c f).nodes = s.nodes := rfl
@[simp] theorem State.modCore_msr (s : State) (c : Nat) (f : Core → Core) : (s.modCore c f).msr = s.msr := rfl
@[simp] theorem State.modCore_ahash (s : State) (c : Nat) (f : Core → Core) : (s.modCore c f).ahash = s.ahash := rfl
@[simp] theorem State.modCore_ahashForce (s : State) (c : Nat) (f : Core → Core) : (s.modCore c f).ahashForce = s.ahashForce := rfl
@[simp] theorem State.modCore_stackErr (s : State) (c : Nat) (f : Core → Core) : (s.modCore c f).stackErr = s.stackErr := rfl
@[simp] theorem State.modCore_lostStacks (s : State) (c : Nat) (f : Core → Core) : (s.modCore c f).lostStacks = s.lostStacks := rfl
@[simp] theorem State.modCore_retired (s : State) (c : Nat) (f : Core → Core) : (s.modCore c f).retired = s.retired := rfl
@[simp] theorem State.modCore_prec (s : State) (c : Nat) (f : Core → Core) : (s.modCore c f).prec = s.prec := rfl
@[simp] theorem State.modCore_modNum (s : State) (c : Nat) (f : Core → Core) : (s.modCore c f).modNum = s.modNum := rfl
@[simp] theorem State.modCore_pod (s : State) (c : Nat) (f : Core → Core) : (s.modCore c f).pod = s.pod := rfl
@[simp] theorem State.modCore_linkDown (s : State) (c : Nat) (f : Core → Core) : (s.modCore c f).linkDown = s.linkDown := rfl
@[simp] theorem State.modCore_mgmtLog (s : State) (c : Nat) (f : Core → Core) : (s.modCore c f).mgmtLog = s.mgmtLog := rfl
@[simp] theorem State.modCore_checks (s : State) (c : Nat) (f : Core → Core) : (s.modCore c f).checks = s.checks := rfl
@[simp] theorem State.modCore_qports (s : State) (c : Nat) (f : Core → Core) : (s.modCore c f).qports = s.qports := rfl
@[simp] theorem State.modCore_qanswers (s : State) (c : Nat) (f : Core → Core) : (s.modCore c f).qanswers = s.qanswers := rfl
@[simp] theorem State.modCore_replies (s : State) (c : Nat) (f : Core → Core) : (s.modCore c f).replies = s.replies := rfl
@[simp] theorem State.modCore_outside (s : State) (c : Nat) (f : Core → Core) : (s.modCore c f).outside = s.outside := rfl
@[simp] theorem State.modCore_nextOutside (s : State) (c : Nat) (f : Core → Core) : (s.modCore c f).nextOutside = s.nextOutside := rfl
@[simp] theorem State.modCore_linkOut (s : State) (c : Nat) (f : Core → Core) : (s.modCore c f).linkOut = s.linkOut := rfl
@[simp] theorem State.modCore_image (s : State) (c : Nat) (f : Core → Core) : (s.modCore c f).image = s.image := rfl
@[simp] theorem State.modCore_reports (s : State) (c : Nat) (f : Core → Core) : (s.modCore c f).reports = s.reports := rfl
@[simp] theorem State.modCore_memInited (s : State) (c : Nat) (f : Core → Core) : (s.modCore c f).memInited = s.memInited := rfl
@[simp] theorem State.modCore_clearing (s : State) (c : Nat) (f : Core → Core) : (s.modCore c f).clearing = s.clearing := rfl
@[simp] theorem State.modCore_rta (s : State) (c : Nat) (f : Core → Core) : (s.modCore c f).rta = s.rta := rfl
@[simp] theorem State.modCore_wbTags (s : State) (c : Nat) (f : Core → Core) : (s.modCore c f).wbTags = s.wbTags := rfl
@[simp] theorem State.modCore_scanWait (s : State) (c : Nat) (f : Core → Core) : (s.modCore c f).scanWait = s.scanWait := rfl
@[simp] theorem State.modCore_nextTag (s : State) (c : Nat) (f : Core → Core) : (s.modCore c f).nextTag = s.nextTag := rfl

/-! ### `State.setDie` -/

@[simp] theorem State.setDie_cpu (s : State) (d : Nat) (v : Die) : (s.setDie d v).cpu = s.cpu := rfl
@[simp] theorem State.setDie_cur (s : State) (d : Nat) (v : Die) : (s.setDie d v).cur = s.cur := rfl
@[simp] theorem State.setDie_turn (s : State) (d : Nat) (v : Die) : (s.setDie d v).turn = s.turn := rfl
@[simp] theorem State.setDie_subject (s : State) (d : Nat) (v : Die) : (s.setDie d v).subject = s.subject := rfl
@[simp] theorem State.setDie_tick (s : State) (d : Nat) (v : Die) : (s.setDie d v).tick = s.tick := rfl
@[simp] theorem State.setDie_inputs (s : State) (d : Nat) (v : Die) : (s.setDie d v).inputs = s.inputs := rfl
@[simp] theorem State.setDie_now (s : State) (d : Nat) (v : Die) : (s.setDie d v).now = s.now := rfl
@[simp] theorem State.setDie_threads (s : State) (d : Nat) (v : Die) : (s.setDie d v).threads = s.threads := rfl
@[simp] theorem State.setDie_sups (s : State) (d : Nat) (v : Die) : (s.setDie d v).sups = s.sups := rfl
@[simp] theorem State.setDie_cores (s : State) (d : Nat) (v : Die) : (s.setDie d v).cores = s.cores := rfl
@[simp] theorem State.setDie_parts (s : State) (d : Nat) (v : Die) : (s.setDie d v).parts = s.parts := rfl
@[simp] theorem State.setDie_hbm (s : State) (d : Nat) (v : Die) : (s.setDie d v).hbm = s.hbm := rfl
@[simp] theorem State.setDie_lstore (s : State) (d : Nat) (v : Die) : (s.setDie d v).lstore = s.lstore := rfl
@[simp] theorem State.setDie_posted (s : State) (d : Nat) (v : Die) : (s.setDie d v).posted = s.posted := rfl
@[simp] theorem State.setDie_wire (s : State) (d : Nat) (v : Die) : (s.setDie d v).wire = s.wire := rfl
@[simp] theorem State.setDie_tlb (s : State) (d : Nat) (v : Die) : (s.setDie d v).tlb = s.tlb := rfl
@[simp] theorem State.setDie_ptes (s : State) (d : Nat) (v : Die) : (s.setDie d v).ptes = s.ptes := rfl
@[simp] theorem State.setDie_nodes (s : State) (d : Nat) (v : Die) : (s.setDie d v).nodes = s.nodes := rfl
@[simp] theorem State.setDie_msr (s : State) (d : Nat) (v : Die) : (s.setDie d v).msr = s.msr := rfl
@[simp] theorem State.setDie_ahash (s : State) (d : Nat) (v : Die) : (s.setDie d v).ahash = s.ahash := rfl
@[simp] theorem State.setDie_ahashForce (s : State) (d : Nat) (v : Die) : (s.setDie d v).ahashForce = s.ahashForce := rfl
@[simp] theorem State.setDie_stackErr (s : State) (d : Nat) (v : Die) : (s.setDie d v).stackErr = s.stackErr := rfl
@[simp] theorem State.setDie_lostStacks (s : State) (d : Nat) (v : Die) : (s.setDie d v).lostStacks = s.lostStacks := rfl
@[simp] theorem State.setDie_retired (s : State) (d : Nat) (v : Die) : (s.setDie d v).retired = s.retired := rfl
@[simp] theorem State.setDie_prec (s : State) (d : Nat) (v : Die) : (s.setDie d v).prec = s.prec := rfl
@[simp] theorem State.setDie_modNum (s : State) (d : Nat) (v : Die) : (s.setDie d v).modNum = s.modNum := rfl
@[simp] theorem State.setDie_pod (s : State) (d : Nat) (v : Die) : (s.setDie d v).pod = s.pod := rfl
@[simp] theorem State.setDie_linkDown (s : State) (d : Nat) (v : Die) : (s.setDie d v).linkDown = s.linkDown := rfl
@[simp] theorem State.setDie_mgmtLog (s : State) (d : Nat) (v : Die) : (s.setDie d v).mgmtLog = s.mgmtLog := rfl
@[simp] theorem State.setDie_checks (s : State) (d : Nat) (v : Die) : (s.setDie d v).checks = s.checks := rfl
@[simp] theorem State.setDie_qports (s : State) (d : Nat) (v : Die) : (s.setDie d v).qports = s.qports := rfl
@[simp] theorem State.setDie_qanswers (s : State) (d : Nat) (v : Die) : (s.setDie d v).qanswers = s.qanswers := rfl
@[simp] theorem State.setDie_replies (s : State) (d : Nat) (v : Die) : (s.setDie d v).replies = s.replies := rfl
@[simp] theorem State.setDie_outside (s : State) (d : Nat) (v : Die) : (s.setDie d v).outside = s.outside := rfl
@[simp] theorem State.setDie_nextOutside (s : State) (d : Nat) (v : Die) : (s.setDie d v).nextOutside = s.nextOutside := rfl
@[simp] theorem State.setDie_linkOut (s : State) (d : Nat) (v : Die) : (s.setDie d v).linkOut = s.linkOut := rfl
@[simp] theorem State.setDie_image (s : State) (d : Nat) (v : Die) : (s.setDie d v).image = s.image := rfl
@[simp] theorem State.setDie_reports (s : State) (d : Nat) (v : Die) : (s.setDie d v).reports = s.reports := rfl
@[simp] theorem State.setDie_memInited (s : State) (d : Nat) (v : Die) : (s.setDie d v).memInited = s.memInited := rfl
@[simp] theorem State.setDie_clearing (s : State) (d : Nat) (v : Die) : (s.setDie d v).clearing = s.clearing := rfl
@[simp] theorem State.setDie_rta (s : State) (d : Nat) (v : Die) : (s.setDie d v).rta = s.rta := rfl
@[simp] theorem State.setDie_wbTags (s : State) (d : Nat) (v : Die) : (s.setDie d v).wbTags = s.wbTags := rfl
@[simp] theorem State.setDie_scanWait (s : State) (d : Nat) (v : Die) : (s.setDie d v).scanWait = s.scanWait := rfl
@[simp] theorem State.setDie_nextTag (s : State) (d : Nat) (v : Die) : (s.setDie d v).nextTag = s.nextTag := rfl

/-! ### `State.modDie` -/

@[simp] theorem State.modDie_cpu (s : State) (d : Nat) (f : Die → Die) : (s.modDie d f).cpu = s.cpu := rfl
@[simp] theorem State.modDie_cur (s : State) (d : Nat) (f : Die → Die) : (s.modDie d f).cur = s.cur := rfl
@[simp] theorem State.modDie_turn (s : State) (d : Nat) (f : Die → Die) : (s.modDie d f).turn = s.turn := rfl
@[simp] theorem State.modDie_subject (s : State) (d : Nat) (f : Die → Die) : (s.modDie d f).subject = s.subject := rfl
@[simp] theorem State.modDie_tick (s : State) (d : Nat) (f : Die → Die) : (s.modDie d f).tick = s.tick := rfl
@[simp] theorem State.modDie_inputs (s : State) (d : Nat) (f : Die → Die) : (s.modDie d f).inputs = s.inputs := rfl
@[simp] theorem State.modDie_now (s : State) (d : Nat) (f : Die → Die) : (s.modDie d f).now = s.now := rfl
@[simp] theorem State.modDie_threads (s : State) (d : Nat) (f : Die → Die) : (s.modDie d f).threads = s.threads := rfl
@[simp] theorem State.modDie_sups (s : State) (d : Nat) (f : Die → Die) : (s.modDie d f).sups = s.sups := rfl
@[simp] theorem State.modDie_cores (s : State) (d : Nat) (f : Die → Die) : (s.modDie d f).cores = s.cores := rfl
@[simp] theorem State.modDie_parts (s : State) (d : Nat) (f : Die → Die) : (s.modDie d f).parts = s.parts := rfl
@[simp] theorem State.modDie_hbm (s : State) (d : Nat) (f : Die → Die) : (s.modDie d f).hbm = s.hbm := rfl
@[simp] theorem State.modDie_lstore (s : State) (d : Nat) (f : Die → Die) : (s.modDie d f).lstore = s.lstore := rfl
@[simp] theorem State.modDie_posted (s : State) (d : Nat) (f : Die → Die) : (s.modDie d f).posted = s.posted := rfl
@[simp] theorem State.modDie_wire (s : State) (d : Nat) (f : Die → Die) : (s.modDie d f).wire = s.wire := rfl
@[simp] theorem State.modDie_tlb (s : State) (d : Nat) (f : Die → Die) : (s.modDie d f).tlb = s.tlb := rfl
@[simp] theorem State.modDie_ptes (s : State) (d : Nat) (f : Die → Die) : (s.modDie d f).ptes = s.ptes := rfl
@[simp] theorem State.modDie_nodes (s : State) (d : Nat) (f : Die → Die) : (s.modDie d f).nodes = s.nodes := rfl
@[simp] theorem State.modDie_msr (s : State) (d : Nat) (f : Die → Die) : (s.modDie d f).msr = s.msr := rfl
@[simp] theorem State.modDie_ahash (s : State) (d : Nat) (f : Die → Die) : (s.modDie d f).ahash = s.ahash := rfl
@[simp] theorem State.modDie_ahashForce (s : State) (d : Nat) (f : Die → Die) : (s.modDie d f).ahashForce = s.ahashForce := rfl
@[simp] theorem State.modDie_stackErr (s : State) (d : Nat) (f : Die → Die) : (s.modDie d f).stackErr = s.stackErr := rfl
@[simp] theorem State.modDie_lostStacks (s : State) (d : Nat) (f : Die → Die) : (s.modDie d f).lostStacks = s.lostStacks := rfl
@[simp] theorem State.modDie_retired (s : State) (d : Nat) (f : Die → Die) : (s.modDie d f).retired = s.retired := rfl
@[simp] theorem State.modDie_prec (s : State) (d : Nat) (f : Die → Die) : (s.modDie d f).prec = s.prec := rfl
@[simp] theorem State.modDie_modNum (s : State) (d : Nat) (f : Die → Die) : (s.modDie d f).modNum = s.modNum := rfl
@[simp] theorem State.modDie_pod (s : State) (d : Nat) (f : Die → Die) : (s.modDie d f).pod = s.pod := rfl
@[simp] theorem State.modDie_linkDown (s : State) (d : Nat) (f : Die → Die) : (s.modDie d f).linkDown = s.linkDown := rfl
@[simp] theorem State.modDie_mgmtLog (s : State) (d : Nat) (f : Die → Die) : (s.modDie d f).mgmtLog = s.mgmtLog := rfl
@[simp] theorem State.modDie_checks (s : State) (d : Nat) (f : Die → Die) : (s.modDie d f).checks = s.checks := rfl
@[simp] theorem State.modDie_qports (s : State) (d : Nat) (f : Die → Die) : (s.modDie d f).qports = s.qports := rfl
@[simp] theorem State.modDie_qanswers (s : State) (d : Nat) (f : Die → Die) : (s.modDie d f).qanswers = s.qanswers := rfl
@[simp] theorem State.modDie_replies (s : State) (d : Nat) (f : Die → Die) : (s.modDie d f).replies = s.replies := rfl
@[simp] theorem State.modDie_outside (s : State) (d : Nat) (f : Die → Die) : (s.modDie d f).outside = s.outside := rfl
@[simp] theorem State.modDie_nextOutside (s : State) (d : Nat) (f : Die → Die) : (s.modDie d f).nextOutside = s.nextOutside := rfl
@[simp] theorem State.modDie_linkOut (s : State) (d : Nat) (f : Die → Die) : (s.modDie d f).linkOut = s.linkOut := rfl
@[simp] theorem State.modDie_image (s : State) (d : Nat) (f : Die → Die) : (s.modDie d f).image = s.image := rfl
@[simp] theorem State.modDie_reports (s : State) (d : Nat) (f : Die → Die) : (s.modDie d f).reports = s.reports := rfl
@[simp] theorem State.modDie_memInited (s : State) (d : Nat) (f : Die → Die) : (s.modDie d f).memInited = s.memInited := rfl
@[simp] theorem State.modDie_clearing (s : State) (d : Nat) (f : Die → Die) : (s.modDie d f).clearing = s.clearing := rfl
@[simp] theorem State.modDie_rta (s : State) (d : Nat) (f : Die → Die) : (s.modDie d f).rta = s.rta := rfl
@[simp] theorem State.modDie_wbTags (s : State) (d : Nat) (f : Die → Die) : (s.modDie d f).wbTags = s.wbTags := rfl
@[simp] theorem State.modDie_scanWait (s : State) (d : Nat) (f : Die → Die) : (s.modDie d f).scanWait = s.scanWait := rfl
@[simp] theorem State.modDie_nextTag (s : State) (d : Nat) (f : Die → Die) : (s.modDie d f).nextTag = s.nextTag := rfl

/-! ### `State.mapDies` -/

@[simp] theorem State.mapDies_cpu (s : State) (f : Nat → Die → Die) : (s.mapDies f).cpu = s.cpu := rfl
@[simp] theorem State.mapDies_cur (s : State) (f : Nat → Die → Die) : (s.mapDies f).cur = s.cur := rfl
@[simp] theorem State.mapDies_turn (s : State) (f : Nat → Die → Die) : (s.mapDies f).turn = s.turn := rfl
@[simp] theorem State.mapDies_subject (s : State) (f : Nat → Die → Die) : (s.mapDies f).subject = s.subject := rfl
@[simp] theorem State.mapDies_tick (s : State) (f : Nat → Die → Die) : (s.mapDies f).tick = s.tick := rfl
@[simp] theorem State.mapDies_inputs (s : State) (f : Nat → Die → Die) : (s.mapDies f).inputs = s.inputs := rfl
@[simp] theorem State.mapDies_now (s : State) (f : Nat → Die → Die) : (s.mapDies f).now = s.now := rfl
@[simp] theorem State.mapDies_threads (s : State) (f : Nat → Die → Die) : (s.mapDies f).threads = s.threads := rfl
@[simp] theorem State.mapDies_sups (s : State) (f : Nat → Die → Die) : (s.mapDies f).sups = s.sups := rfl
@[simp] theorem State.mapDies_cores (s : State) (f : Nat → Die → Die) : (s.mapDies f).cores = s.cores := rfl
@[simp] theorem State.mapDies_parts (s : State) (f : Nat → Die → Die) : (s.mapDies f).parts = s.parts := rfl
@[simp] theorem State.mapDies_hbm (s : State) (f : Nat → Die → Die) : (s.mapDies f).hbm = s.hbm := rfl
@[simp] theorem State.mapDies_lstore (s : State) (f : Nat → Die → Die) : (s.mapDies f).lstore = s.lstore := rfl
@[simp] theorem State.mapDies_posted (s : State) (f : Nat → Die → Die) : (s.mapDies f).posted = s.posted := rfl
@[simp] theorem State.mapDies_wire (s : State) (f : Nat → Die → Die) : (s.mapDies f).wire = s.wire := rfl
@[simp] theorem State.mapDies_tlb (s : State) (f : Nat → Die → Die) : (s.mapDies f).tlb = s.tlb := rfl
@[simp] theorem State.mapDies_ptes (s : State) (f : Nat → Die → Die) : (s.mapDies f).ptes = s.ptes := rfl
@[simp] theorem State.mapDies_nodes (s : State) (f : Nat → Die → Die) : (s.mapDies f).nodes = s.nodes := rfl
@[simp] theorem State.mapDies_msr (s : State) (f : Nat → Die → Die) : (s.mapDies f).msr = s.msr := rfl
@[simp] theorem State.mapDies_ahash (s : State) (f : Nat → Die → Die) : (s.mapDies f).ahash = s.ahash := rfl
@[simp] theorem State.mapDies_ahashForce (s : State) (f : Nat → Die → Die) : (s.mapDies f).ahashForce = s.ahashForce := rfl
@[simp] theorem State.mapDies_stackErr (s : State) (f : Nat → Die → Die) : (s.mapDies f).stackErr = s.stackErr := rfl
@[simp] theorem State.mapDies_lostStacks (s : State) (f : Nat → Die → Die) : (s.mapDies f).lostStacks = s.lostStacks := rfl
@[simp] theorem State.mapDies_retired (s : State) (f : Nat → Die → Die) : (s.mapDies f).retired = s.retired := rfl
@[simp] theorem State.mapDies_prec (s : State) (f : Nat → Die → Die) : (s.mapDies f).prec = s.prec := rfl
@[simp] theorem State.mapDies_modNum (s : State) (f : Nat → Die → Die) : (s.mapDies f).modNum = s.modNum := rfl
@[simp] theorem State.mapDies_pod (s : State) (f : Nat → Die → Die) : (s.mapDies f).pod = s.pod := rfl
@[simp] theorem State.mapDies_linkDown (s : State) (f : Nat → Die → Die) : (s.mapDies f).linkDown = s.linkDown := rfl
@[simp] theorem State.mapDies_mgmtLog (s : State) (f : Nat → Die → Die) : (s.mapDies f).mgmtLog = s.mgmtLog := rfl
@[simp] theorem State.mapDies_checks (s : State) (f : Nat → Die → Die) : (s.mapDies f).checks = s.checks := rfl
@[simp] theorem State.mapDies_qports (s : State) (f : Nat → Die → Die) : (s.mapDies f).qports = s.qports := rfl
@[simp] theorem State.mapDies_qanswers (s : State) (f : Nat → Die → Die) : (s.mapDies f).qanswers = s.qanswers := rfl
@[simp] theorem State.mapDies_replies (s : State) (f : Nat → Die → Die) : (s.mapDies f).replies = s.replies := rfl
@[simp] theorem State.mapDies_outside (s : State) (f : Nat → Die → Die) : (s.mapDies f).outside = s.outside := rfl
@[simp] theorem State.mapDies_nextOutside (s : State) (f : Nat → Die → Die) : (s.mapDies f).nextOutside = s.nextOutside := rfl
@[simp] theorem State.mapDies_linkOut (s : State) (f : Nat → Die → Die) : (s.mapDies f).linkOut = s.linkOut := rfl
@[simp] theorem State.mapDies_image (s : State) (f : Nat → Die → Die) : (s.mapDies f).image = s.image := rfl
@[simp] theorem State.mapDies_reports (s : State) (f : Nat → Die → Die) : (s.mapDies f).reports = s.reports := rfl
@[simp] theorem State.mapDies_memInited (s : State) (f : Nat → Die → Die) : (s.mapDies f).memInited = s.memInited := rfl
@[simp] theorem State.mapDies_clearing (s : State) (f : Nat → Die → Die) : (s.mapDies f).clearing = s.clearing := rfl
@[simp] theorem State.mapDies_rta (s : State) (f : Nat → Die → Die) : (s.mapDies f).rta = s.rta := rfl
@[simp] theorem State.mapDies_wbTags (s : State) (f : Nat → Die → Die) : (s.mapDies f).wbTags = s.wbTags := rfl
@[simp] theorem State.mapDies_scanWait (s : State) (f : Nat → Die → Die) : (s.mapDies f).scanWait = s.scanWait := rfl
@[simp] theorem State.mapDies_nextTag (s : State) (f : Nat → Die → Die) : (s.mapDies f).nextTag = s.nextTag := rfl

/-! ### `State.modPart` -/

@[simp] theorem State.modPart_cpu (s : State) (p : Nat) (f : Part → Part) : (s.modPart p f).cpu = s.cpu := rfl
@[simp] theorem State.modPart_cur (s : State) (p : Nat) (f : Part → Part) : (s.modPart p f).cur = s.cur := rfl
@[simp] theorem State.modPart_turn (s : State) (p : Nat) (f : Part → Part) : (s.modPart p f).turn = s.turn := rfl
@[simp] theorem State.modPart_subject (s : State) (p : Nat) (f : Part → Part) : (s.modPart p f).subject = s.subject := rfl
@[simp] theorem State.modPart_tick (s : State) (p : Nat) (f : Part → Part) : (s.modPart p f).tick = s.tick := rfl
@[simp] theorem State.modPart_inputs (s : State) (p : Nat) (f : Part → Part) : (s.modPart p f).inputs = s.inputs := rfl
@[simp] theorem State.modPart_now (s : State) (p : Nat) (f : Part → Part) : (s.modPart p f).now = s.now := rfl
@[simp] theorem State.modPart_threads (s : State) (p : Nat) (f : Part → Part) : (s.modPart p f).threads = s.threads := rfl
@[simp] theorem State.modPart_sups (s : State) (p : Nat) (f : Part → Part) : (s.modPart p f).sups = s.sups := rfl
@[simp] theorem State.modPart_cores (s : State) (p : Nat) (f : Part → Part) : (s.modPart p f).cores = s.cores := rfl
@[simp] theorem State.modPart_dies (s : State) (p : Nat) (f : Part → Part) : (s.modPart p f).dies = s.dies := rfl
@[simp] theorem State.modPart_hbm (s : State) (p : Nat) (f : Part → Part) : (s.modPart p f).hbm = s.hbm := rfl
@[simp] theorem State.modPart_lstore (s : State) (p : Nat) (f : Part → Part) : (s.modPart p f).lstore = s.lstore := rfl
@[simp] theorem State.modPart_posted (s : State) (p : Nat) (f : Part → Part) : (s.modPart p f).posted = s.posted := rfl
@[simp] theorem State.modPart_wire (s : State) (p : Nat) (f : Part → Part) : (s.modPart p f).wire = s.wire := rfl
@[simp] theorem State.modPart_tlb (s : State) (p : Nat) (f : Part → Part) : (s.modPart p f).tlb = s.tlb := rfl
@[simp] theorem State.modPart_ptes (s : State) (p : Nat) (f : Part → Part) : (s.modPart p f).ptes = s.ptes := rfl
@[simp] theorem State.modPart_nodes (s : State) (p : Nat) (f : Part → Part) : (s.modPart p f).nodes = s.nodes := rfl
@[simp] theorem State.modPart_msr (s : State) (p : Nat) (f : Part → Part) : (s.modPart p f).msr = s.msr := rfl
@[simp] theorem State.modPart_ahash (s : State) (p : Nat) (f : Part → Part) : (s.modPart p f).ahash = s.ahash := rfl
@[simp] theorem State.modPart_ahashForce (s : State) (p : Nat) (f : Part → Part) : (s.modPart p f).ahashForce = s.ahashForce := rfl
@[simp] theorem State.modPart_stackErr (s : State) (p : Nat) (f : Part → Part) : (s.modPart p f).stackErr = s.stackErr := rfl
@[simp] theorem State.modPart_lostStacks (s : State) (p : Nat) (f : Part → Part) : (s.modPart p f).lostStacks = s.lostStacks := rfl
@[simp] theorem State.modPart_retired (s : State) (p : Nat) (f : Part → Part) : (s.modPart p f).retired = s.retired := rfl
@[simp] theorem State.modPart_prec (s : State) (p : Nat) (f : Part → Part) : (s.modPart p f).prec = s.prec := rfl
@[simp] theorem State.modPart_modNum (s : State) (p : Nat) (f : Part → Part) : (s.modPart p f).modNum = s.modNum := rfl
@[simp] theorem State.modPart_pod (s : State) (p : Nat) (f : Part → Part) : (s.modPart p f).pod = s.pod := rfl
@[simp] theorem State.modPart_linkDown (s : State) (p : Nat) (f : Part → Part) : (s.modPart p f).linkDown = s.linkDown := rfl
@[simp] theorem State.modPart_mgmtLog (s : State) (p : Nat) (f : Part → Part) : (s.modPart p f).mgmtLog = s.mgmtLog := rfl
@[simp] theorem State.modPart_checks (s : State) (p : Nat) (f : Part → Part) : (s.modPart p f).checks = s.checks := rfl
@[simp] theorem State.modPart_qports (s : State) (p : Nat) (f : Part → Part) : (s.modPart p f).qports = s.qports := rfl
@[simp] theorem State.modPart_qanswers (s : State) (p : Nat) (f : Part → Part) : (s.modPart p f).qanswers = s.qanswers := rfl
@[simp] theorem State.modPart_replies (s : State) (p : Nat) (f : Part → Part) : (s.modPart p f).replies = s.replies := rfl
@[simp] theorem State.modPart_outside (s : State) (p : Nat) (f : Part → Part) : (s.modPart p f).outside = s.outside := rfl
@[simp] theorem State.modPart_nextOutside (s : State) (p : Nat) (f : Part → Part) : (s.modPart p f).nextOutside = s.nextOutside := rfl
@[simp] theorem State.modPart_linkOut (s : State) (p : Nat) (f : Part → Part) : (s.modPart p f).linkOut = s.linkOut := rfl
@[simp] theorem State.modPart_image (s : State) (p : Nat) (f : Part → Part) : (s.modPart p f).image = s.image := rfl
@[simp] theorem State.modPart_reports (s : State) (p : Nat) (f : Part → Part) : (s.modPart p f).reports = s.reports := rfl
@[simp] theorem State.modPart_memInited (s : State) (p : Nat) (f : Part → Part) : (s.modPart p f).memInited = s.memInited := rfl
@[simp] theorem State.modPart_clearing (s : State) (p : Nat) (f : Part → Part) : (s.modPart p f).clearing = s.clearing := rfl
@[simp] theorem State.modPart_rta (s : State) (p : Nat) (f : Part → Part) : (s.modPart p f).rta = s.rta := rfl
@[simp] theorem State.modPart_wbTags (s : State) (p : Nat) (f : Part → Part) : (s.modPart p f).wbTags = s.wbTags := rfl
@[simp] theorem State.modPart_scanWait (s : State) (p : Nat) (f : Part → Part) : (s.modPart p f).scanWait = s.scanWait := rfl
@[simp] theorem State.modPart_nextTag (s : State) (p : Nat) (f : Part → Part) : (s.modPart p f).nextTag = s.nextTag := rfl

/-! ### `State.machineCheck` -/

@[simp] theorem State.machineCheck_cpu (s : State) (w c : Nat) : (s.machineCheck w c).cpu = s.cpu := rfl
@[simp] theorem State.machineCheck_cur (s : State) (w c : Nat) : (s.machineCheck w c).cur = s.cur := rfl
@[simp] theorem State.machineCheck_turn (s : State) (w c : Nat) : (s.machineCheck w c).turn = s.turn := rfl
@[simp] theorem State.machineCheck_subject (s : State) (w c : Nat) : (s.machineCheck w c).subject = s.subject := rfl
@[simp] theorem State.machineCheck_tick (s : State) (w c : Nat) : (s.machineCheck w c).tick = s.tick := rfl
@[simp] theorem State.machineCheck_inputs (s : State) (w c : Nat) : (s.machineCheck w c).inputs = s.inputs := rfl
@[simp] theorem State.machineCheck_now (s : State) (w c : Nat) : (s.machineCheck w c).now = s.now := rfl
@[simp] theorem State.machineCheck_threads (s : State) (w c : Nat) : (s.machineCheck w c).threads = s.threads := rfl
@[simp] theorem State.machineCheck_sups (s : State) (w c : Nat) : (s.machineCheck w c).sups = s.sups := rfl
@[simp] theorem State.machineCheck_cores (s : State) (w c : Nat) : (s.machineCheck w c).cores = s.cores := rfl
@[simp] theorem State.machineCheck_dies (s : State) (w c : Nat) : (s.machineCheck w c).dies = s.dies := rfl
@[simp] theorem State.machineCheck_parts (s : State) (w c : Nat) : (s.machineCheck w c).parts = s.parts := rfl
@[simp] theorem State.machineCheck_hbm (s : State) (w c : Nat) : (s.machineCheck w c).hbm = s.hbm := rfl
@[simp] theorem State.machineCheck_lstore (s : State) (w c : Nat) : (s.machineCheck w c).lstore = s.lstore := rfl
@[simp] theorem State.machineCheck_posted (s : State) (w c : Nat) : (s.machineCheck w c).posted = s.posted := rfl
@[simp] theorem State.machineCheck_wire (s : State) (w c : Nat) : (s.machineCheck w c).wire = s.wire := rfl
@[simp] theorem State.machineCheck_tlb (s : State) (w c : Nat) : (s.machineCheck w c).tlb = s.tlb := rfl
@[simp] theorem State.machineCheck_ptes (s : State) (w c : Nat) : (s.machineCheck w c).ptes = s.ptes := rfl
@[simp] theorem State.machineCheck_nodes (s : State) (w c : Nat) : (s.machineCheck w c).nodes = s.nodes := rfl
@[simp] theorem State.machineCheck_msr (s : State) (w c : Nat) : (s.machineCheck w c).msr = s.msr := rfl
@[simp] theorem State.machineCheck_ahash (s : State) (w c : Nat) : (s.machineCheck w c).ahash = s.ahash := rfl
@[simp] theorem State.machineCheck_ahashForce (s : State) (w c : Nat) : (s.machineCheck w c).ahashForce = s.ahashForce := rfl
@[simp] theorem State.machineCheck_stackErr (s : State) (w c : Nat) : (s.machineCheck w c).stackErr = s.stackErr := rfl
@[simp] theorem State.machineCheck_lostStacks (s : State) (w c : Nat) : (s.machineCheck w c).lostStacks = s.lostStacks := rfl
@[simp] theorem State.machineCheck_retired (s : State) (w c : Nat) : (s.machineCheck w c).retired = s.retired := rfl
@[simp] theorem State.machineCheck_prec (s : State) (w c : Nat) : (s.machineCheck w c).prec = s.prec := rfl
@[simp] theorem State.machineCheck_modNum (s : State) (w c : Nat) : (s.machineCheck w c).modNum = s.modNum := rfl
@[simp] theorem State.machineCheck_pod (s : State) (w c : Nat) : (s.machineCheck w c).pod = s.pod := rfl
@[simp] theorem State.machineCheck_linkDown (s : State) (w c : Nat) : (s.machineCheck w c).linkDown = s.linkDown := rfl
@[simp] theorem State.machineCheck_mgmtLog (s : State) (w c : Nat) : (s.machineCheck w c).mgmtLog = s.mgmtLog := rfl
@[simp] theorem State.machineCheck_qports (s : State) (w c : Nat) : (s.machineCheck w c).qports = s.qports := rfl
@[simp] theorem State.machineCheck_qanswers (s : State) (w c : Nat) : (s.machineCheck w c).qanswers = s.qanswers := rfl
@[simp] theorem State.machineCheck_replies (s : State) (w c : Nat) : (s.machineCheck w c).replies = s.replies := rfl
@[simp] theorem State.machineCheck_outside (s : State) (w c : Nat) : (s.machineCheck w c).outside = s.outside := rfl
@[simp] theorem State.machineCheck_nextOutside (s : State) (w c : Nat) : (s.machineCheck w c).nextOutside = s.nextOutside := rfl
@[simp] theorem State.machineCheck_linkOut (s : State) (w c : Nat) : (s.machineCheck w c).linkOut = s.linkOut := rfl
@[simp] theorem State.machineCheck_image (s : State) (w c : Nat) : (s.machineCheck w c).image = s.image := rfl
@[simp] theorem State.machineCheck_reports (s : State) (w c : Nat) : (s.machineCheck w c).reports = s.reports := rfl
@[simp] theorem State.machineCheck_memInited (s : State) (w c : Nat) : (s.machineCheck w c).memInited = s.memInited := rfl
@[simp] theorem State.machineCheck_clearing (s : State) (w c : Nat) : (s.machineCheck w c).clearing = s.clearing := rfl
@[simp] theorem State.machineCheck_rta (s : State) (w c : Nat) : (s.machineCheck w c).rta = s.rta := rfl
@[simp] theorem State.machineCheck_wbTags (s : State) (w c : Nat) : (s.machineCheck w c).wbTags = s.wbTags := rfl
@[simp] theorem State.machineCheck_scanWait (s : State) (w c : Nat) : (s.machineCheck w c).scanWait = s.scanWait := rfl
@[simp] theorem State.machineCheck_nextTag (s : State) (w c : Nat) : (s.machineCheck w c).nextTag = s.nextTag := rfl

/-! ### `State.mgmt` -/

@[simp] theorem State.mgmt_cpu (s : State) (c : Nat) (a b : Word) : (s.mgmt c a b).cpu = s.cpu := rfl
@[simp] theorem State.mgmt_cur (s : State) (c : Nat) (a b : Word) : (s.mgmt c a b).cur = s.cur := rfl
@[simp] theorem State.mgmt_turn (s : State) (c : Nat) (a b : Word) : (s.mgmt c a b).turn = s.turn := rfl
@[simp] theorem State.mgmt_subject (s : State) (c : Nat) (a b : Word) : (s.mgmt c a b).subject = s.subject := rfl
@[simp] theorem State.mgmt_tick (s : State) (c : Nat) (a b : Word) : (s.mgmt c a b).tick = s.tick := rfl
@[simp] theorem State.mgmt_inputs (s : State) (c : Nat) (a b : Word) : (s.mgmt c a b).inputs = s.inputs := rfl
@[simp] theorem State.mgmt_now (s : State) (c : Nat) (a b : Word) : (s.mgmt c a b).now = s.now := rfl
@[simp] theorem State.mgmt_threads (s : State) (c : Nat) (a b : Word) : (s.mgmt c a b).threads = s.threads := rfl
@[simp] theorem State.mgmt_sups (s : State) (c : Nat) (a b : Word) : (s.mgmt c a b).sups = s.sups := rfl
@[simp] theorem State.mgmt_cores (s : State) (c : Nat) (a b : Word) : (s.mgmt c a b).cores = s.cores := rfl
@[simp] theorem State.mgmt_dies (s : State) (c : Nat) (a b : Word) : (s.mgmt c a b).dies = s.dies := rfl
@[simp] theorem State.mgmt_parts (s : State) (c : Nat) (a b : Word) : (s.mgmt c a b).parts = s.parts := rfl
@[simp] theorem State.mgmt_hbm (s : State) (c : Nat) (a b : Word) : (s.mgmt c a b).hbm = s.hbm := rfl
@[simp] theorem State.mgmt_lstore (s : State) (c : Nat) (a b : Word) : (s.mgmt c a b).lstore = s.lstore := rfl
@[simp] theorem State.mgmt_posted (s : State) (c : Nat) (a b : Word) : (s.mgmt c a b).posted = s.posted := rfl
@[simp] theorem State.mgmt_wire (s : State) (c : Nat) (a b : Word) : (s.mgmt c a b).wire = s.wire := rfl
@[simp] theorem State.mgmt_tlb (s : State) (c : Nat) (a b : Word) : (s.mgmt c a b).tlb = s.tlb := rfl
@[simp] theorem State.mgmt_ptes (s : State) (c : Nat) (a b : Word) : (s.mgmt c a b).ptes = s.ptes := rfl
@[simp] theorem State.mgmt_nodes (s : State) (c : Nat) (a b : Word) : (s.mgmt c a b).nodes = s.nodes := rfl
@[simp] theorem State.mgmt_msr (s : State) (c : Nat) (a b : Word) : (s.mgmt c a b).msr = s.msr := rfl
@[simp] theorem State.mgmt_ahash (s : State) (c : Nat) (a b : Word) : (s.mgmt c a b).ahash = s.ahash := rfl
@[simp] theorem State.mgmt_ahashForce (s : State) (c : Nat) (a b : Word) : (s.mgmt c a b).ahashForce = s.ahashForce := rfl
@[simp] theorem State.mgmt_stackErr (s : State) (c : Nat) (a b : Word) : (s.mgmt c a b).stackErr = s.stackErr := rfl
@[simp] theorem State.mgmt_lostStacks (s : State) (c : Nat) (a b : Word) : (s.mgmt c a b).lostStacks = s.lostStacks := rfl
@[simp] theorem State.mgmt_retired (s : State) (c : Nat) (a b : Word) : (s.mgmt c a b).retired = s.retired := rfl
@[simp] theorem State.mgmt_prec (s : State) (c : Nat) (a b : Word) : (s.mgmt c a b).prec = s.prec := rfl
@[simp] theorem State.mgmt_modNum (s : State) (c : Nat) (a b : Word) : (s.mgmt c a b).modNum = s.modNum := rfl
@[simp] theorem State.mgmt_pod (s : State) (c : Nat) (a b : Word) : (s.mgmt c a b).pod = s.pod := rfl
@[simp] theorem State.mgmt_linkDown (s : State) (c : Nat) (a b : Word) : (s.mgmt c a b).linkDown = s.linkDown := rfl
@[simp] theorem State.mgmt_checks (s : State) (c : Nat) (a b : Word) : (s.mgmt c a b).checks = s.checks := rfl
@[simp] theorem State.mgmt_qports (s : State) (c : Nat) (a b : Word) : (s.mgmt c a b).qports = s.qports := rfl
@[simp] theorem State.mgmt_qanswers (s : State) (c : Nat) (a b : Word) : (s.mgmt c a b).qanswers = s.qanswers := rfl
@[simp] theorem State.mgmt_replies (s : State) (c : Nat) (a b : Word) : (s.mgmt c a b).replies = s.replies := rfl
@[simp] theorem State.mgmt_outside (s : State) (c : Nat) (a b : Word) : (s.mgmt c a b).outside = s.outside := rfl
@[simp] theorem State.mgmt_nextOutside (s : State) (c : Nat) (a b : Word) : (s.mgmt c a b).nextOutside = s.nextOutside := rfl
@[simp] theorem State.mgmt_linkOut (s : State) (c : Nat) (a b : Word) : (s.mgmt c a b).linkOut = s.linkOut := rfl
@[simp] theorem State.mgmt_image (s : State) (c : Nat) (a b : Word) : (s.mgmt c a b).image = s.image := rfl
@[simp] theorem State.mgmt_reports (s : State) (c : Nat) (a b : Word) : (s.mgmt c a b).reports = s.reports := rfl
@[simp] theorem State.mgmt_memInited (s : State) (c : Nat) (a b : Word) : (s.mgmt c a b).memInited = s.memInited := rfl
@[simp] theorem State.mgmt_clearing (s : State) (c : Nat) (a b : Word) : (s.mgmt c a b).clearing = s.clearing := rfl
@[simp] theorem State.mgmt_rta (s : State) (c : Nat) (a b : Word) : (s.mgmt c a b).rta = s.rta := rfl
@[simp] theorem State.mgmt_wbTags (s : State) (c : Nat) (a b : Word) : (s.mgmt c a b).wbTags = s.wbTags := rfl
@[simp] theorem State.mgmt_scanWait (s : State) (c : Nat) (a b : Word) : (s.mgmt c a b).scanWait = s.scanWait := rfl
@[simp] theorem State.mgmt_nextTag (s : State) (c : Nat) (a b : Word) : (s.mgmt c a b).nextTag = s.nextTag := rfl

/-! ### `State.countRetired` -/

@[simp] theorem State.countRetired_cpu (s : State) : (s.countRetired).cpu = s.cpu := rfl
@[simp] theorem State.countRetired_cur (s : State) : (s.countRetired).cur = s.cur := rfl
@[simp] theorem State.countRetired_turn (s : State) : (s.countRetired).turn = s.turn := rfl
@[simp] theorem State.countRetired_subject (s : State) : (s.countRetired).subject = s.subject := rfl
@[simp] theorem State.countRetired_tick (s : State) : (s.countRetired).tick = s.tick := rfl
@[simp] theorem State.countRetired_inputs (s : State) : (s.countRetired).inputs = s.inputs := rfl
@[simp] theorem State.countRetired_now (s : State) : (s.countRetired).now = s.now := rfl
@[simp] theorem State.countRetired_threads (s : State) : (s.countRetired).threads = s.threads := rfl
@[simp] theorem State.countRetired_sups (s : State) : (s.countRetired).sups = s.sups := rfl
@[simp] theorem State.countRetired_dies (s : State) : (s.countRetired).dies = s.dies := rfl
@[simp] theorem State.countRetired_parts (s : State) : (s.countRetired).parts = s.parts := rfl
@[simp] theorem State.countRetired_hbm (s : State) : (s.countRetired).hbm = s.hbm := rfl
@[simp] theorem State.countRetired_lstore (s : State) : (s.countRetired).lstore = s.lstore := rfl
@[simp] theorem State.countRetired_posted (s : State) : (s.countRetired).posted = s.posted := rfl
@[simp] theorem State.countRetired_wire (s : State) : (s.countRetired).wire = s.wire := rfl
@[simp] theorem State.countRetired_tlb (s : State) : (s.countRetired).tlb = s.tlb := rfl
@[simp] theorem State.countRetired_ptes (s : State) : (s.countRetired).ptes = s.ptes := rfl
@[simp] theorem State.countRetired_nodes (s : State) : (s.countRetired).nodes = s.nodes := rfl
@[simp] theorem State.countRetired_msr (s : State) : (s.countRetired).msr = s.msr := rfl
@[simp] theorem State.countRetired_ahash (s : State) : (s.countRetired).ahash = s.ahash := rfl
@[simp] theorem State.countRetired_ahashForce (s : State) : (s.countRetired).ahashForce = s.ahashForce := rfl
@[simp] theorem State.countRetired_stackErr (s : State) : (s.countRetired).stackErr = s.stackErr := rfl
@[simp] theorem State.countRetired_lostStacks (s : State) : (s.countRetired).lostStacks = s.lostStacks := rfl
@[simp] theorem State.countRetired_retired (s : State) : (s.countRetired).retired = s.retired := rfl
@[simp] theorem State.countRetired_prec (s : State) : (s.countRetired).prec = s.prec := rfl
@[simp] theorem State.countRetired_modNum (s : State) : (s.countRetired).modNum = s.modNum := rfl
@[simp] theorem State.countRetired_pod (s : State) : (s.countRetired).pod = s.pod := rfl
@[simp] theorem State.countRetired_linkDown (s : State) : (s.countRetired).linkDown = s.linkDown := rfl
@[simp] theorem State.countRetired_mgmtLog (s : State) : (s.countRetired).mgmtLog = s.mgmtLog := rfl
@[simp] theorem State.countRetired_checks (s : State) : (s.countRetired).checks = s.checks := rfl
@[simp] theorem State.countRetired_qports (s : State) : (s.countRetired).qports = s.qports := rfl
@[simp] theorem State.countRetired_qanswers (s : State) : (s.countRetired).qanswers = s.qanswers := rfl
@[simp] theorem State.countRetired_replies (s : State) : (s.countRetired).replies = s.replies := rfl
@[simp] theorem State.countRetired_outside (s : State) : (s.countRetired).outside = s.outside := rfl
@[simp] theorem State.countRetired_nextOutside (s : State) : (s.countRetired).nextOutside = s.nextOutside := rfl
@[simp] theorem State.countRetired_linkOut (s : State) : (s.countRetired).linkOut = s.linkOut := rfl
@[simp] theorem State.countRetired_image (s : State) : (s.countRetired).image = s.image := rfl
@[simp] theorem State.countRetired_reports (s : State) : (s.countRetired).reports = s.reports := rfl
@[simp] theorem State.countRetired_memInited (s : State) : (s.countRetired).memInited = s.memInited := rfl
@[simp] theorem State.countRetired_clearing (s : State) : (s.countRetired).clearing = s.clearing := rfl
@[simp] theorem State.countRetired_rta (s : State) : (s.countRetired).rta = s.rta := rfl
@[simp] theorem State.countRetired_wbTags (s : State) : (s.countRetired).wbTags = s.wbTags := rfl
@[simp] theorem State.countRetired_scanWait (s : State) : (s.countRetired).scanWait = s.scanWait := rfl
@[simp] theorem State.countRetired_nextTag (s : State) : (s.countRetired).nextTag = s.nextTag := rfl

@[simp] theorem State.modCpu_cpu (s : State) (f : Thread → Thread) : (s.modCpu f).cpu = f s.cpu := rfl

/-! ### Line copies, and deliveries -/

/-- A line that no store has met since it was decoded is fetched again as memory has it (R44). -/
theorem LineCopy.view_nil (c : LineCopy) (m : BitVec 512) (h : c.stores = []) : c.view m = m := by
  have ones : ~~~(0#512) = BitVec.allOnes 512 := by rw [← BitVec.neg_one_eq_allOnes, BitVec.neg_eq_not_add]; simp
  simp only [LineCopy.view, LineCopy.settle, h, List.foldl_nil]
  show (c.bytes &&& 0#512) ||| (m &&& ~~~(0#512)) = m
  rw [ones, BitVec.and_allOnes, BitVec.and_zero, BitVec.zero_or]

@[simp] theorem State.delivered_none (s : State) (d : Nat) : s.delivered d none = s := rfl
@[simp] theorem State.delivered_some (s : State) (d kind id : Nat) : s.delivered d (some (kind, id)) = s.unjournal d kind id := rfl
@[simp] theorem State.putRecord_nil (s : State) (d : Nat) (r : RecordWait) : s.putRecord d r [] = s := rfl
@[simp] theorem Hold.gone_none : Hold.none.gone = false := rfl
@[simp] theorem Hold.gone_gaveUp (va : Nat) : (Hold.gaveUp va).gone = true := rfl

end Sys2Proof.Machine
end

