-- ==== Sys2Proof/Laws/Complete.lean ====
section
/-! SUPPORT. Completing an instruction: what `doneTo`, `done` and the result operations leave as it was. -/

namespace Sys2Proof.Machine

/-! ### Registers after a result is put in place -/

/-- The value a place of R59's numbering takes. -/
def placeVal (n v : Nat) : Nat :=
  if n = 0 then 0 else if n < 32 then v % 2 ^ 64 else if n < 40 then v % 2 ^ 512 else if n < 44 then v % 2 ^ 16 else 0

theorem Thread.reg_put_same (t : Thread) (n v : Nat) : (t.put n v).reg n = placeVal n v := by
  rcases Thread.put_kinds n with h | ⟨h, h'⟩ | ⟨h, h'⟩ | ⟨h, h', h''⟩ | ⟨h, h', h''⟩
  · subst h; rfl
  · rw [Thread.put_scalar _ _ h h', Thread.reg, placeVal, if_neg h, dif_pos h', if_neg h, if_pos h']
    simp only [Vector.get_eq_getElem, Vector.getElem_set_self, word, BitVec.toNat_ofNat]
  · rw [Thread.put_vector _ _ h h', Thread.reg, placeVal, if_neg (by omega), dif_neg h, dif_pos h', if_neg (by omega), if_neg h,
      if_pos (by omega)]
    simp only [Vector.get_eq_getElem, Vector.getElem_set_self, BitVec.toNat_ofNat]
  · rw [Thread.put_mask _ _ h h' h'', Thread.reg, placeVal, if_neg (by omega), dif_neg h, dif_neg h', dif_pos h'',
      if_neg (by omega), if_neg h, if_neg (by omega), if_pos (by omega)]
    simp only [Vector.get_eq_getElem, Vector.getElem_set_self, BitVec.toNat_ofNat]
  · rw [Thread.put_none _ _ h h' h'', Thread.reg, placeVal, if_neg (by omega), dif_neg h, dif_neg h', dif_neg h'',
      if_neg (by omega), if_neg h, if_neg (by omega), if_neg (by omega)]

theorem Thread.reg_put_ne (t : Thread) {n m : Nat} (ne : n ≠ m) (v : Nat) : (t.put n v).reg m = t.reg m := by
  rcases Thread.put_kinds n with h | ⟨h, h'⟩ | ⟨h, h'⟩ | ⟨h, h', h''⟩ | ⟨h, h', h''⟩
  · subst h; rw [Thread.put_zero]
  · rw [Thread.put_scalar _ _ h h']
    simp only [Thread.reg]
    split_ifs <;> simp only [Vector.get_eq_getElem, Vector.getElem_set_ne _ _ ne]
  · rw [Thread.put_vector _ _ h h']
    simp only [Thread.reg]
    split_ifs <;> first | rfl | (simp only [Vector.get_eq_getElem]; rw [Vector.getElem_set_ne]; omega)
  · rw [Thread.put_mask _ _ h h' h'']
    simp only [Thread.reg]
    split_ifs <;> first | rfl | (simp only [Vector.get_eq_getElem]; rw [Vector.getElem_set_ne]; omega)
  · rw [Thread.put_none _ _ h h' h'']

theorem Thread.rd_eq_reg (t : Thread) (r : Reg) : t.rd r = BitVec.ofNat 64 (t.reg r.toNat) := by
  simp only [Thread.rd, Thread.reg]
  by_cases h : r = 0#5
  · subst h; rfl
  · have h' : r.toNat ≠ 0 := fun e => h (BitVec.eq_of_toNat_eq e)
    rw [if_neg h, if_neg h', dif_pos r.isLt]
    simp

theorem Thread.rd_congr {t u : Thread} {r : Reg} (h : t.reg r.toNat = u.reg r.toNat) : t.rd r = u.rd r := by
  rw [Thread.rd_eq_reg, Thread.rd_eq_reg, h]

/-! ### What results leave alone -/

theorem Thread.put_rest (t : Thread) (n v : Nat) : (t.put n v).rest = t.rest := by
  rcases Thread.put_kinds n with h | ⟨h, h'⟩ | ⟨h, h'⟩ | ⟨h, h', h''⟩ | ⟨h, h', h''⟩
  · subst h; rw [put_zero]
  · rw [put_scalar _ _ h h']; rfl
  · rw [put_vector _ _ h h']; rfl
  · rw [put_mask _ _ h h' h'']; rfl
  · rw [put_none _ _ h h' h'']

theorem Thread.put_older (t : Thread) (n v : Nat) : (t.put n v).older = t.older := by
  rcases Thread.put_kinds n with h | ⟨h, h'⟩ | ⟨h, h'⟩ | ⟨h, h', h''⟩ | ⟨h, h', h''⟩
  · subst h; rw [put_zero]
  · rw [put_scalar _ _ h h']
  · rw [put_vector _ _ h h']
  · rw [put_mask _ _ h h' h'']
  · rw [put_none _ _ h h' h'']

theorem Thread.putFly_rest (t : Thread) (f : Fly) : (t.putFly f).rest = t.rest := by
  rw [Thread.putFly]
  split
  · exact t.put_rest _ _
  · rfl

theorem Thread.foldl_rest (fl : List Fly) (t : Thread) : (fl.foldl Thread.putFly t).rest = t.rest := by
  induction fl generalizing t with
  | nil => rfl
  | cons f rest ih => rw [List.foldl_cons, ih, Thread.putFly_rest]

theorem settle_rest (fl : List Fly) (t : Thread) : (settle t fl).1.rest = t.rest := by
  induction fl generalizing t with
  | nil => rfl
  | cons f rest ih =>
    simp only [settle]
    split
    · exact ih t
    · split
      · exact (Thread.putFly_rest _ _).trans (ih t)
      · exact ih t

theorem Thread.commit_rest (t : Thread) : t.commit.rest = t.rest := by
  rw [Thread.commit_eq]; exact Thread.foldl_rest _ _

theorem Thread.age_rest (t : Thread) (n : Nat) : (t.age n).rest = t.rest := by
  rw [Thread.age]
  split
  · rfl
  · exact settle_rest _ _

theorem Thread.produce_rest (t : Thread) (lat n v : Nat) : (t.produce lat n v).rest = t.rest := by
  rw [Thread.produce]
  split
  · exact t.put_rest _ _
  · rfl

/-! ### Ageing -/

theorem foldl_left (fl : List Fly) (n : Nat) (t : Thread) :
    (fl.map (fun (f : Fly) => { f with left := f.left - n })).foldl Thread.putFly t = fl.foldl Thread.putFly t := by
  rw [List.foldl_map]; rfl

/-- Two contexts that differ in nothing but what is in flight. -/
theorem Thread.putFly_fly (t : Thread) (f : Fly) (l : List Fly) :
    ({ t with fly := l } : Thread).putFly f = { t.putFly f with fly := l } := by
  simp only [Thread.putFly]
  split
  · rcases Thread.put_kinds f.reg with h | ⟨h, h'⟩ | ⟨h, h'⟩ | ⟨h, h', h''⟩ | ⟨h, h', h''⟩
    · rw [h, put_zero, put_zero]
    · rw [put_scalar _ _ h h', put_scalar _ _ h h']
    · rw [put_vector _ _ h h', put_vector _ _ h h']
    · rw [put_mask _ _ h h' h'', put_mask _ _ h h' h'']
    · rw [put_none _ _ h h' h'', put_none _ _ h h' h'']
  · rfl

theorem foldl_fly (fl : List Fly) (t : Thread) (l : List Fly) :
    fl.foldl Thread.putFly { t with fly := l } = { fl.foldl Thread.putFly t with fly := l } := by
  induction fl generalizing t with
  | nil => rfl
  | cons f rest ih => rw [List.foldl_cons, List.foldl_cons, Thread.putFly_fly, ih]

/-- Letting issue distance pass changes nothing of what is in place in the end. -/
theorem Thread.commit_age (t : Thread) (n : Nat) : (t.age n).commit = t.commit := by
  rw [Thread.commit_eq, Thread.commit_eq, Thread.age]
  split
  · rename_i h; rw [h]
  · show { List.foldl Thread.putFly { (settle t _).1 with fly := _ } (settle t _).2.1 with fly := [] } = _
    rw [foldl_fly, foldl_settle, foldl_left]

/-! ### Results -/

theorem Thread.foldl_filter (fl : List Fly) (t : Thread) (n v : Nat) :
    (fl.filter (fun f => !(f.reg == n && f.up == 0))).foldl Thread.putFly (t.put n v) = (fl.foldl Thread.putFly t).put n v := by
  induction fl generalizing t with
  | nil => rfl
  | cons f rest ih =>
    by_cases e : f.reg = n ∧ f.up = 0
    · have : (t.putFly f).put n v = t.put n v := by
        simp only [Thread.putFly, e.2, if_true, e.1]; exact t.put_put_same _ _ _
      rw [List.filter_cons, if_neg (by simp [e.1, e.2]), List.foldl_cons, ← ih, this]
    · have : (t.put n v).putFly f = (t.putFly f).put n v :=
        t.putFly_comm (f := ⟨n, 0, v, 0, 0⟩) (g := f) (by rintro ⟨a, b⟩; exact e ⟨a.symm, b.symm⟩)
      rw [List.filter_cons, if_pos (by simpa using not_and_or.mp e), List.foldl_cons, List.foldl_cons, this, ih]

/-- Whatever its latency, a result is in place in the end, over every other. -/
theorem Thread.commit_produce (t : Thread) (lat n v : Nat) : (t.produce lat n v).commit = t.commit.put n v := by
  have out (x : Thread) : ({ x with fly := [] } : Thread).put n v = { x.put n v with fly := [] } :=
    x.putFly_fly ⟨n, 0, v, 0, 0⟩ []
  rw [Thread.commit_eq, Thread.commit_eq, Thread.produce, out]
  split
  · show { List.foldl Thread.putFly { t.put n v with fly := _ } (List.filter _ t.fly) with fly := [] } = _
    rw [foldl_fly, Thread.foldl_filter]
  · show { List.foldl Thread.putFly { t with fly := _ } (t.fly ++ [_]) with fly := [] } = _
    rw [foldl_fly, List.foldl_append]
    rfl

/-! ### Effects on a context -/

/-- The parts of an instruction's effect on its context: registers of `ds`, bits `sets` of STS, answers `reqs`. -/
structure Effect (t u : Thread) (ds : List Nat) (sets : Word) (reqs : List Req) : Prop where
  rest : u.rest = { t with sts := t.sts ||| sets, outs := t.outs ++ reqs }.rest
  others : ∀ n, n ∉ ds → u.settled n = t.settled n
  windows : u.commit.older = t.commit.older

theorem Effect.refl (t : Thread) : Effect t t [] 0#64 [] where
  rest := by simp
  others _ _ := rfl
  windows := rfl

/-- The register files and results in flight of `t` over the rest of `u`. -/
def Thread.over (t u : Thread) : Thread :=
  { u with regs := t.regs, vregs := t.vregs, kregs := t.kregs, older := t.older, fly := t.fly }

theorem Thread.over_reg (t u : Thread) (n : Nat) : (t.over u).reg n = t.reg n := rfl

theorem Thread.over_putFly (t u : Thread) (f : Fly) : (t.over u).putFly f = (t.putFly f).over u := by
  simp only [Thread.putFly]
  split
  · rcases Thread.put_kinds f.reg with h | ⟨h, h'⟩ | ⟨h, h'⟩ | ⟨h, h', h''⟩ | ⟨h, h', h''⟩
    · rw [h, put_zero, put_zero]
    · rw [put_scalar _ _ h h', put_scalar _ _ h h']; rfl
    · rw [put_vector _ _ h h', put_vector _ _ h h']; rfl
    · rw [put_mask _ _ h h' h'', put_mask _ _ h h' h'']; rfl
    · rw [put_none _ _ h h' h'', put_none _ _ h h' h'']
  · rfl

theorem Thread.over_foldl (fl : List Fly) (t u : Thread) :
    fl.foldl Thread.putFly (t.over u) = (fl.foldl Thread.putFly t).over u := by
  induction fl generalizing t with
  | nil => rfl
  | cons f rest ih => rw [List.foldl_cons, List.foldl_cons, Thread.over_putFly, ih]

/-- What commits depends on the register files and the results in flight alone. -/
theorem Thread.over_commit (t u : Thread) : (t.over u).commit = t.commit.over u := by
  rw [Thread.commit_eq, Thread.commit_eq]
  show { List.foldl Thread.putFly (t.over u) t.fly with fly := [] } = _
  rw [Thread.over_foldl]; rfl

theorem Thread.over_settled (t u : Thread) (n : Nat) : (t.over u).settled n = t.settled n := by
  rw [Thread.settled, Thread.over_commit]; rfl

theorem Thread.over_windows (t u : Thread) : (t.over u).commit.older = t.commit.older := by rw [Thread.over_commit]; rfl

/-- A result adds its register. -/
theorem Effect.produce {t u : Thread} {ds : List Nat} {sets : Word} {reqs : List Req} (e : Effect t u ds sets reqs)
    (lat n v : Nat) : Effect t (u.produce lat n v) (n :: ds) sets reqs where
  rest := (u.produce_rest lat n v).trans e.rest
  others m hm := by
    simp only [List.mem_cons, not_or] at hm
    rw [Thread.settled, Thread.commit_produce, Thread.reg_put_ne _ (Ne.symm hm.1)]
    exact e.others m hm.2
  windows := by rw [Thread.commit_produce, Thread.put_older]; exact e.windows

/-- Setting bits of STS. -/
theorem Effect.sts {t u : Thread} {ds : List Nat} {sets : Word} {reqs : List Req} (e : Effect t u ds sets reqs) (x : Word) :
    Effect t { u with sts := u.sts ||| x } ds (sets ||| x) reqs where
  rest := by
    have h : u.sts = t.sts ||| sets := congrArg (·.sts) e.rest
    have := congrArg (fun (r : Thread) => { r with sts := u.sts ||| x }) e.rest
    refine Eq.trans this ?_
    rw [h, BitVec.or_assoc]; rfl
  others m hm := (u.over_settled { u with sts := u.sts ||| x } m).trans (e.others m hm)
  windows := (u.over_windows { u with sts := u.sts ||| x }).trans e.windows

/-- Adding an answer. -/
theorem Effect.outs {t u : Thread} {ds : List Nat} {sets : Word} {reqs : List Req} (e : Effect t u ds sets reqs) (r : Req) :
    Effect t { u with outs := u.outs ++ [r] } ds sets (reqs ++ [r]) where
  rest := by
    have h : u.outs = t.outs ++ reqs := congrArg (·.outs) e.rest
    have := congrArg (fun (x : Thread) => { x with outs := u.outs ++ [r] }) e.rest
    refine Eq.trans this ?_
    rw [h, List.append_assoc]; rfl
  others m hm := (u.over_settled { u with outs := u.outs ++ [r] } m).trans (e.others m hm)
  windows := (u.over_windows { u with outs := u.outs ++ [r] }).trans e.windows

theorem Effect.live {t u : Thread} {ds : List Nat} {sets : Word} {reqs : List Req} (e : Effect t u ds sets reqs) :
    Effect t u.live ds (sets ||| 2#64) reqs := e.sts _

theorem Effect.raise {t u : Thread} {ds : List Nat} {sets : Word} {reqs : List Req} (e : Effect t u ds sets reqs) (f : BitVec 5) :
    Effect t (u.raise f) ds (sets ||| (f.setWidth 64 <<< 16)) reqs := e.sts _

/-- Results of latency 1 for several registers. -/
theorem Effect.produces {t u : Thread} {ds : List Nat} {sets : Word} {reqs : List Req} (e : Effect t u ds sets reqs)
    (l : List (Nat × Nat)) : Effect t (l.foldl (fun t (p : Nat × Nat) => t.produce 1 p.1 p.2) u) (l.map (·.1) ++ ds) sets reqs := by
  induction l generalizing u ds with
  | nil => exact e
  | cons p rest ih =>
    have := ih (e.produce 1 p.1 p.2)
    refine ⟨this.rest, fun m hm => this.others m ?_, this.windows⟩
    simp only [List.mem_append, List.mem_cons, List.map_cons, not_or] at hm ⊢
    exact ⟨hm.1.2, hm.1.1, hm.2⟩

/-- An answer of a variable-latency operation. -/
theorem Effect.answer {t u : Thread} {ds : List Nat} {sets : Word} {reqs : List Req} (e : Effect t u ds sets reqs)
    (l : List (Nat × Nat)) (o r : Bool) (op : Nat) :
    Effect t (u.answer l o r op) (l.map (·.1) ++ ds) sets (reqs ++ [⟨(l.map (·.1)).filter (· != 0), o, r, op⟩]) :=
  (e.produces l).outs _

/-! ### Completion -/

theorem State.doneTo_cpu (s : State) (h : Nat) (pc : Word) : (s.doneTo h pc).cpu =
    { s.cpu.clearPrefix.age (1 + (headStall s.cpu.head + h)) with hold := headStall s.cpu.head + h, pc := pc, wait := .none } := rfl

theorem State.doneTo_module (s : State) (h : Nat) (pc : Word) : s.doneTo h pc = { s.countRetired with cpu := (s.doneTo h pc).cpu } := by
  have : (s.cpu.clearPrefix.age (1 + (headStall s.cpu.head + h))).core = s.cpu.core :=
    congrArg (·.core) (Thread.age_rest s.cpu.clearPrefix _)
  simp only [State.doneTo, State.countRetired, State.modCore, State.setCore, State.core, State.modCpu, this]

theorem State.doneTo_rest (s : State) (h : Nat) (pc : Word) : (s.doneTo h pc).cpu.rest =
    { s.cpu with sts := s.cpu.sts &&& ~~~0x1F4#64, hold := headStall s.cpu.head + h, pc := pc, wait := .none }.rest := by
  have := congrArg (fun (r : Thread) => { r with hold := headStall s.cpu.head + h, pc := pc, wait := .none })
    (Thread.age_rest s.cpu.clearPrefix (1 + (headStall s.cpu.head + h)))
  exact this

theorem State.doneTo_commit (s : State) (h : Nat) (pc : Word) : (s.doneTo h pc).cpu.commit = s.cpu.commit.over (s.doneTo h pc).cpu.rest := by
  have key (t u : Thread) (e : t.commit = u.commit) (r : Thread) : (t.over r).commit = u.commit.over r := by
    rw [Thread.over_commit, e]
  have := key (s.cpu.clearPrefix.age (1 + (headStall s.cpu.head + h))) _ (Thread.commit_age _ _) (s.doneTo h pc).cpu
  have e : s.cpu.clearPrefix.commit = s.cpu.commit.over s.cpu.clearPrefix := s.cpu.over_commit s.cpu.clearPrefix
  rw [e] at this
  exact this

/-- Completing an instruction whose effect is on its context only. -/
theorem completes_doneTo {s : State} {f : Thread → Thread} {ds : List Nat} {sets : Word} {reqs : List Req}
    (e : Effect s.cpu (f s.cpu) ds sets reqs) (h : Nat) (pc : Word) :
    Completes s ((s.modCpu f).doneTo h pc) h pc ds sets reqs where
  module := by
    rw [State.doneTo_module]
    have : (f s.cpu).core = s.cpu.core := congrArg (·.core) e.rest
    simp only [State.countRetired, State.modCore, State.setCore, State.core, State.modCpu, this]
  context := by
    have head : (f s.cpu).head = s.cpu.head := congrArg (·.head) e.rest
    rw [State.doneTo_rest]
    have := congrArg (fun (r : Thread) => { r with
      sts := (f s.cpu).sts &&& ~~~0x1F4#64, hold := headStall s.cpu.head + h, pc := pc, wait := .none }) e.rest
    have sts : (f s.cpu).sts = s.cpu.sts ||| sets := congrArg (·.sts) e.rest
    simp only [sts] at this
    show Thread.rest { f s.cpu with sts := (f s.cpu).sts &&& _, hold := headStall (f s.cpu).head + h, pc := _, wait := _ } = _
    rw [head, sts, BitVec.or_zero]
    exact this
  others n hn := by
    rw [Thread.settled, State.doneTo_commit]
    exact e.others n hn
  windows := by rw [State.doneTo_commit]; exact e.windows
  bytes d l := by rw [State.doneTo_module]; rfl

/-- Completing with sequential flow. -/
theorem completes_doneHold {s : State} {f : Thread → Thread} {ds : List Nat} {sets : Word} {reqs : List Req}
    (fl : s.flows) (e : Effect s.cpu (f s.cpu) ds sets reqs) (h : Nat) :
    Completes s ((s.modCpu f).doneHold h) h s.seqPc ds sets reqs := by
  have pc : (f s.cpu).pc = s.cpu.pc := congrArg (·.pc) e.rest
  have n : (f s.cpu).lineN = s.cpu.lineN := congrArg (·.lineN) e.rest
  have : (s.modCpu f).doneHold h = (s.modCpu f).doneTo h s.seqPc := by
    show (if field (nextPc (f s.cpu).pc (f s.cpu).lineN) 63 57 ≠ 0 then _ else _) = _
    rw [pc, n, if_neg (by rw [not_not]; exact fl)]
    show (s.modCpu f).doneTo h (nextPc (f s.cpu).pc (f s.cpu).lineN) = _
    rw [pc, n]; rfl
  rw [this]
  exact completes_doneTo e h _

/-- The result of an instruction that writes one register reads as its value in the end. -/
theorem doneTo_settled (s : State) (h : Nat) (pc : Word) (n : Nat) : (s.doneTo h pc).cpu.settled n = s.cpu.settled n := by
  rw [Thread.settled, State.doneTo_commit]; rfl

theorem doneHold_eq {s u : State} (fl : s.flows) (pc : u.cpu.pc = s.cpu.pc) (n : u.cpu.lineN = s.cpu.lineN) (h : Nat) :
    u.doneHold h = u.doneTo h s.seqPc := by
  show (if field (nextPc u.cpu.pc u.cpu.lineN) 63 57 ≠ 0 then _ else _) = _
  rw [pc, n, if_neg (by rw [not_not]; exact fl)]; rfl

theorem Effect.pc {t u : Thread} {ds : List Nat} {sets : Word} {reqs : List Req} (e : Effect t u ds sets reqs) : u.pc = t.pc :=
  congrArg (·.pc) e.rest

theorem Effect.lineN {t u : Thread} {ds : List Nat} {sets : Word} {reqs : List Req} (e : Effect t u ds sets reqs) :
    u.lineN = t.lineN := congrArg (·.lineN) e.rest

/-- What is in place in the end after an instruction with sequential flow. -/
theorem doneHold_settled {s : State} (f : Thread → Thread) {ds : List Nat} {sets : Word} {reqs : List Req}
    (fl : s.flows) (e : Effect s.cpu (f s.cpu) ds sets reqs) (h n : Nat) :
    ((s.modCpu f).doneHold h).cpu.settled n = (f s.cpu).settled n := by
  rw [doneHold_eq (s := s) fl e.pc e.lineN, doneTo_settled]; rfl

/-- A result of latency 1 is in its register at once. -/
theorem Thread.produce_one (t : Thread) (n v : Nat) : (t.produce 1 n v).reg n = placeVal n v ∧
    ∀ f ∈ (t.produce 1 n v).fly, ¬ (f.reg = n ∧ f.up = 0) := by
  constructor
  · exact t.reg_put_same n v
  · intro f hf
    have := (List.mem_filter.mp hf).2
    exact not_and_or.mpr (by simpa using this)

theorem settle_reg (fl : List Fly) (t : Thread) (n : Nat) (h : ∀ f ∈ fl, ¬ (f.reg = n ∧ f.up = 0)) :
    (settle t fl).1.reg n = t.reg n := by
  induction fl generalizing t with
  | nil => rfl
  | cons f rest ih =>
    have ih := ih t (fun g hg => h g (List.mem_cons_of_mem _ hg))
    simp only [settle]
    split
    · exact ih
    · split
      · have hf := h f List.mem_cons_self
        show (Thread.putFly _ f).reg n = _
        rw [Thread.putFly]
        split
        · rename_i hu
          rw [Thread.reg_put_ne _ (fun e => hf ⟨e, hu⟩)]; exact ih
        · exact ih
      · exact ih

/-- A register with nothing in flight stays as it is while issue distance passes. -/
theorem Thread.age_reg (t : Thread) (k n : Nat) (h : ∀ f ∈ t.fly, ¬ (f.reg = n ∧ f.up = 0)) : (t.age k).reg n = t.reg n := by
  rw [Thread.age]
  split
  · rfl
  · refine settle_reg _ t n (fun g hg => ?_)
    obtain ⟨f, hf, rfl⟩ := List.mem_map.mp hg
    exact h f hf

theorem doneTo_reg (s : State) (h : Nat) (pc : Word) (n : Nat) (hn : ∀ f ∈ s.cpu.fly, ¬ (f.reg = n ∧ f.up = 0)) :
    (s.doneTo h pc).cpu.reg n = s.cpu.reg n := s.cpu.clearPrefix.age_reg _ n hn

/-- An integer result and sequential flow: what completes, and the register. -/
theorem setR_doneHold {s : State} (fl : s.flows) (d : Reg) (v : Word) (h : Nat) :
    Completes s ((s.setR d v).doneHold h) h s.seqPc [d.toNat] 0#64 [] ∧
      ((s.setR d v).doneHold h).rd d = if d = 0#5 then 0#64 else v := by
  have e := (Effect.refl s.cpu).produce 1 d.toNat v.toNat
  refine ⟨completes_doneHold (f := fun t => t.produce 1 d.toNat v.toNat) fl e h, ?_⟩
  have p := s.cpu.produce_one d.toNat v.toNat
  show Thread.rd (State.doneHold _ h).cpu d = _
  rw [doneHold_eq (s := s) (u := s.setR d v) fl e.pc e.lineN, Thread.rd_eq_reg, doneTo_reg _ _ _ _ p.2]
  show BitVec.ofNat 64 ((s.cpu.produce 1 d.toNat v.toNat).reg d.toNat) = _
  rw [p.1, placeVal]
  by_cases z : d = 0#5
  · subst z; rfl
  · have z' : d.toNat ≠ 0 := fun x => z (BitVec.eq_of_toNat_eq x)
    rw [if_neg z', if_pos d.isLt, if_neg z, Nat.mod_eq_of_lt v.isLt, BitVec.ofNat_toNat, BitVec.setWidth_eq]

/-- `FMT`, `RLX`, `MOVS` and `MOVT`: completing with prefix bits left pending. -/
theorem leaves_donePrefix {s : State} {f : Thread → Thread} {ds : List Nat} {sets : Word} {reqs : List Req}
    (fl : s.flows) (e : Effect s.cpu (f s.cpu) ds sets reqs) (w : Word) :
    Leaves s ((s.modCpu f).donePrefix w) 0 s.seqPc ds sets reqs (w &&& 0x1F4#64) := by
  have c := completes_doneHold (f := f) fl e 0
  refine ⟨?_, ?_, fun n hn => ?_, ?_, fun d l => ?_⟩
  · have := congrArg (fun (x : State) => { x with cpu := ((s.modCpu f).donePrefix w).cpu }) c.module
    exact this
  · have := congrArg (fun (x : Thread) => { x with sts := (x.sts &&& ~~~0x1F4#64) ||| (w &&& 0x1F4#64) }) c.context
    have e : ((s.cpu.sts ||| sets) &&& ~~~0x1F4#64 ||| 0#64) &&& ~~~0x1F4#64 = (s.cpu.sts ||| sets) &&& ~~~0x1F4#64 := by
      rw [BitVec.or_zero, BitVec.and_assoc, BitVec.and_self]
    exact this.trans (congrArg (fun (y : Word) => Thread.rest { s.cpu with
      pc := s.seqPc, hold := headStall s.cpu.head + 0, wait := .none, sts := y ||| (w &&& 0x1F4#64), outs := s.cpu.outs ++ reqs }) e)
  · exact (Thread.over_settled _ ((s.modCpu f).donePrefix w).cpu n).trans (c.others n hn)
  · exact (Thread.over_windows _ ((s.modCpu f).donePrefix w).cpu).trans c.windows
  · exact c.bytes d l

/-! ### The checks before an effect -/

theorem plain_next {s : State} (p : s.noPrefix) (k : State → State) : plain s k = .next (k s) := by
  simp [plain, p.1, p.2]

theorem onBarrel_next {s : State} (p : s.noPrefix) (b : isUtell s.cpu.core = false) (k : State → State) :
    onBarrel s k = .next (k s) := by
  rw [onBarrel, if_neg (by simp [b]), plain_next p]

theorem needSup_next {s : State} (p : s.noPrefix) (b : s.cpu.sup = true) (k : State → State) : needSup s k = .next (k s) := by
  rw [needSup, if_pos b, plain_next p]

theorem needSupBarrel_next {s : State} (p : s.noPrefix) (u : s.cpu.sup = true) (b : isUtell s.cpu.core = false) (k : State → State) :
    needSupBarrel s k = .next (k s) := by
  rw [needSupBarrel, if_pos u, onBarrel_next p b]

end Sys2Proof.Machine
end

