-- ==== Sys2Proof/Laws/Memory.lean ====
section
/-! SUPPORT. Banks: a read after a write, what a write leaves alone, and that every operation keeps the canonical form. -/

namespace Sys2Proof.Machine

/-! ### Cell lists -/

theorem cellsWf_mono {lo lo' : Nat} {l : List Host.Cell} (h : lo ≤ lo') (w : cellsWf lo' l = true) : cellsWf lo l = true := by
  cases l with
  | nil => rfl
  | cons c rest => simp only [cellsWf, Bool.and_eq_true, decide_eq_true_eq] at w ⊢; exact ⟨⟨by omega, w.1.2⟩, w.2⟩

theorem cellGet_below {lo x : Nat} : ∀ {l : List Host.Cell}, cellsWf lo l = true → x < lo → cellGet l x = 0#8
  | [], _, _ => rfl
  | (a, b) :: rest, w, h => by
    simp only [cellsWf, Bool.and_eq_true, decide_eq_true_eq] at w
    simp only [cellGet]
    rw [if_neg (by omega), if_pos (by omega)]

theorem cellsWf_cellSet {x : Nat} {v : Byte} : ∀ {l : List Host.Cell} {lo : Nat},
    cellsWf lo l = true → lo ≤ x → cellsWf lo (cellSet l x v) = true
  | [], lo, _, h => by by_cases hv : v = 0#8 <;> simp [cellSet, hv, cellsWf, h]
  | (a, b) :: rest, lo, w, h => by
    simp only [cellsWf, Bool.and_eq_true, decide_eq_true_eq] at w
    simp only [cellSet]
    split
    · simp only [cellsWf, Bool.and_eq_true, decide_eq_true_eq]
      exact ⟨w.1, cellsWf_cellSet w.2 (by omega)⟩
    · split
      · rename_i _ e
        split
        · exact cellsWf_mono (by omega) w.2
        · rename_i hv
          subst e
          simp [cellsWf, hv, w.2, h]
      · split
        · simp [cellsWf, w]
        · rename_i h1 h2 hv
          simp only [cellsWf, Bool.and_eq_true, decide_eq_true_eq]
          exact ⟨⟨h, by simpa using hv⟩, ⟨by omega, w.1.2⟩, w.2⟩

theorem cellGet_cellSet {x y : Nat} {v : Byte} : ∀ {l : List Host.Cell} {lo : Nat},
    cellsWf lo l = true → cellGet (cellSet l x v) y = if x = y then v else cellGet l y
  | [], lo, _ => by
    by_cases hv : v = 0#8 <;> by_cases e : x = y <;> simp [cellSet, hv, cellGet, e]
  | (a, b) :: rest, lo, w => by
    simp only [cellsWf, Bool.and_eq_true, decide_eq_true_eq] at w
    have ih := @cellGet_cellSet x y v rest (a + 1) w.2
    simp only [cellSet]
    by_cases h1 : a < x
    · simp only [h1, if_true, cellGet, ih]
      by_cases e : x = y
      · subst e; rw [if_neg (by omega), if_neg (by omega), if_pos rfl, if_pos rfl]
      · simp [e]
    · simp only [h1, if_false]
      by_cases h2 : a = x
      · subst h2
        by_cases hv : v = 0#8
        · simp only [hv, if_true, cellGet]
          by_cases e : a = y
          · subst e; simp [cellGet_below w.2]
          · simp only [e, if_false]
            by_cases h3 : y < a
            · rw [if_pos h3, cellGet_below w.2 (by omega)]
            · rw [if_neg h3]
        · simp only [hv, if_true, if_false, cellGet]
          by_cases e : a = y <;> simp [e]
      · simp only [h2, if_false]
        by_cases hv : v = 0#8
        · simp only [hv, if_true]
          by_cases e : x = y
          · subst e; simp only [cellGet, if_true]; rw [if_neg h2, if_pos (by omega)]
          · simp [e]
        · simp only [hv, if_false, cellGet]
          by_cases e : x = y
          · simp [e]
          · simp only [e, if_false]
            by_cases h3 : y < x
            · rw [if_pos h3, if_neg (by omega), if_pos (by omega)]
            · rw [if_neg h3]

/-! ### Rising lists -/

theorem risingFrom_mono {lo lo' : Nat} {l : List Nat} (h : lo ≤ lo') (w : risingFrom lo' l = true) : risingFrom lo l = true := by
  cases l with
  | nil => rfl
  | cons c rest => simp only [risingFrom, Bool.and_eq_true, decide_eq_true_eq] at w ⊢; exact ⟨by omega, w.2⟩

theorem risingFrom_risingSet {x : Nat} {v : Bool} : ∀ {l : List Nat} {lo : Nat},
    risingFrom lo l = true → lo ≤ x → risingFrom lo (risingSet l x v) = true
  | [], lo, _, h => by cases v <;> simp [risingSet, risingFrom, h]
  | a :: rest, lo, w, h => by
    simp only [risingFrom, Bool.and_eq_true, decide_eq_true_eq] at w
    simp only [risingSet]
    split
    · simp only [risingFrom, Bool.and_eq_true, decide_eq_true_eq]
      exact ⟨w.1, risingFrom_risingSet w.2 (by omega)⟩
    · split
      · cases v
        · exact risingFrom_mono (by omega) w.2
        · simp [risingFrom, w]
      · cases v
        · simp [risingFrom, w]
        · simp only [risingFrom, if_true, Bool.and_eq_true, decide_eq_true_eq]; exact ⟨h, by omega, w.2⟩

theorem risingMem_below {lo x : Nat} : ∀ {l : List Nat}, risingFrom lo l = true → x < lo → risingMem l x = false
  | [], _, _ => rfl
  | a :: rest, w, h => by
    simp only [risingFrom, Bool.and_eq_true, decide_eq_true_eq] at w
    simp only [risingMem]
    rw [if_neg (by omega), if_pos (by omega)]

theorem risingMem_risingSet {x y : Nat} {v : Bool} : ∀ {l : List Nat} {lo : Nat},
    risingFrom lo l = true → risingMem (risingSet l x v) y = if x = y then v else risingMem l y
  | [], lo, _ => by
    cases v
    · by_cases e : x = y <;> simp [risingSet, risingMem, e]
    · by_cases e : x = y
      · simp [risingSet, risingMem, e]
      · simp [risingSet, risingMem, e]
  | a :: rest, lo, w => by
    simp only [risingFrom, Bool.and_eq_true, decide_eq_true_eq] at w
    have ih := @risingMem_risingSet x y v rest (a + 1) w.2
    simp only [risingSet]
    by_cases h1 : a < x
    · simp only [h1, if_true, risingMem, ih]
      by_cases e : x = y
      · subst e; rw [if_neg (by omega), if_neg (by omega), if_pos rfl, if_pos rfl]
      · simp [e]
    · simp only [h1, if_false]
      by_cases h2 : a = x
      · subst h2
        cases v
        · simp only [if_true, risingMem, Bool.false_eq_true, if_false]
          by_cases e : a = y
          · subst e; simp [risingMem_below w.2]
          · simp only [e, if_false]
            by_cases h3 : y < a
            · rw [if_pos h3, risingMem_below w.2 (by omega)]
            · rw [if_neg h3]
        · by_cases e : a = y <;> simp [risingMem, e]
      · simp only [h2, if_false]
        cases v
        · simp only [Bool.false_eq_true, if_false]
          by_cases e : x = y
          · subst e; simp only [risingMem, if_true]; rw [if_neg h2, if_pos (by omega)]
          · simp [e]
        · simp only [if_true, risingMem]
          by_cases e : x = y
          · simp [e]
          · simp only [e, if_false]
            by_cases h3 : y < x
            · rw [if_pos h3, if_neg (by omega), if_pos (by omega)]
            · rw [if_neg h3]

/-! ### Banks -/

theorem Bank.wf_iff {m : Bank} :
    m.wf = true ↔ cellsWf 0 m.cells = true ∧ risingFrom 0 m.empty = true ∧ risingFrom 0 m.poison = true := by
  simp [Bank.wf, and_assoc]

theorem Bank.empty_wf : ({} : Bank).wf = true := rfl

theorem Bank.setByte_wf {m : Bank} (h : m.wf = true) (a : Nat) (v : Byte) : (m.setByte a v).wf = true := by
  rw [Bank.wf_iff] at *; exact ⟨cellsWf_cellSet h.1 (Nat.zero_le _), h.2⟩

theorem Bank.write_wf {m : Bank} (h : m.wf = true) (a v n : Nat) : (m.write a v n).wf = true := by
  induction n generalizing m a v with
  | zero => exact h
  | succ n ih => exact ih (Bank.setByte_wf h _ _) _ _

theorem Bank.setFull_wf {m : Bank} (h : m.wf = true) (a : Nat) (f : Bool) : (m.setFull a f).wf = true := by
  rw [Bank.wf_iff] at *; exact ⟨h.1, risingFrom_risingSet h.2.1 (Nat.zero_le _), h.2.2⟩

theorem Bank.setPoison_wf {m : Bank} (h : m.wf = true) (a : Nat) (f : Bool) : (m.setPoison a f).wf = true := by
  rw [Bank.wf_iff] at *; exact ⟨h.1, h.2.1, risingFrom_risingSet h.2.2 (Nat.zero_le _)⟩

theorem Bank.spoil_wf {m : Bank} (h : m.wf = true) (tick a : Nat) : (m.spoil tick a).wf = true :=
  Bank.setPoison_wf (Bank.setFull_wf (Bank.write_wf h _ _ _) _ _) _ _

theorem Bank.eachWord_wf {f : Bank → Nat → Bank} (hf : ∀ m a, m.wf = true → (f m a).wf = true) {m : Bank} (h : m.wf = true)
    (a n : Nat) : (m.eachWord f a n).wf = true := by
  induction n generalizing m a with
  | zero => exact h
  | succ n ih => exact ih (hf _ _ h) _

/-- A byte after a byte is written. -/
theorem Bank.byte_setByte {m : Bank} (h : m.wf = true) (a x : Nat) (v : Byte) :
    (m.setByte a v).byte x = if a = x then v else m.byte x :=
  cellGet_cellSet (Bank.wf_iff.mp h).1

/-- A byte after a write of `n` bytes: its byte of the value inside the bytes written, as before outside them. -/
theorem Bank.byte_write {m : Bank} (h : m.wf = true) (a v n x : Nat) :
    (m.write a v n).byte x = if a ≤ x ∧ x < a + n then BitVec.ofNat 8 (v >>> (8 * (x - a))) else m.byte x := by
  induction n generalizing m a v with
  | zero => simp only [Bank.write]; rw [if_neg (by omega)]
  | succ n ih =>
    simp only [Bank.write, ih (Bank.setByte_wf h _ _), Bank.byte_setByte h]
    by_cases e : a = x
    · subst e; simp
    · by_cases h1 : a ≤ x ∧ x < a + (n + 1)
      · rw [if_pos (by omega), if_pos h1, ← Nat.shiftRight_add]
        congr 2; omega
      · rw [if_neg (by omega), if_neg e, if_neg h1]

/-- The full/empty bit of a word after one is set. -/
theorem Bank.full_setFull {m : Bank} (h : m.wf = true) (a x : Nat) (f : Bool) :
    (m.setFull a f).full x = if a / 8 = x / 8 then f else m.full x := by
  simp only [Bank.full, Bank.setFull, risingMem_risingSet (Bank.wf_iff.mp h).2.1]
  split <;> simp

/-- The poison of a word after one is set or cleared. -/
theorem Bank.poisoned_setPoison {m : Bank} (h : m.wf = true) (a x : Nat) (p : Bool) :
    (m.setPoison a p).poisoned x = if a / 8 = x / 8 then p else m.poisoned x := by
  simp only [Bank.poisoned, Bank.setPoison, risingMem_risingSet (Bank.wf_iff.mp h).2.2]

/-- A value read where it was written. -/
theorem Bank.read_write {m : Bank} (h : m.wf = true) (a v n : Nat) : (m.write a v n).read a n = v % 2 ^ (8 * n) := by
  have key : ∀ (k b : Nat), a ≤ b → b + k = a + n →
      (m.write a v n).read b k = (v >>> (8 * (b - a))) % 2 ^ (8 * k) := by
    intro k
    induction k with
    | zero => intro b _ _; simp [Bank.read, Nat.mod_one]
    | succ k ih =>
      intro b hb hk
      rw [Bank.read, ih (b + 1) (by omega) (by omega), Bank.byte_write h, if_pos (by omega)]
      have e : 8 * (b + 1 - a) = 8 * (b - a) + 8 := by omega
      rw [e, Nat.shiftRight_add, Nat.shiftLeft_eq, Nat.shiftRight_eq_div_pow _ 8, BitVec.toNat_ofNat]
      have : 2 ^ (8 * (k + 1)) = 2 ^ 8 * 2 ^ (8 * k) := by rw [← pow_add]; congr 1; omega
      rw [this, Nat.mod_mul, Nat.mul_comm (2 ^ 8) _]
  have := key n a (Nat.le_refl _) rfl
  simpa using this

end Sys2Proof.Machine
end

