-- ==== Sys2Proof/Laws/PerInstr.lean ====
section
/-! SUPPORT. Decoding undoes encoding, instruction by instruction. -/

namespace Sys2Proof.Laws

/-! ### Fields of heads and tails -/

theorem low_append {m n : Nat} (x : BitVec m) (y : BitVec n) : (x ++ y).extractLsb' 0 n = y := by
  apply BitVec.eq_of_getLsbD_eq
  intro j hj
  rw [BitVec.getLsbD_extractLsb', BitVec.getLsbD_append]
  simp [hj]

theorem high_append {m n : Nat} (x : BitVec m) (y : BitVec n) (k w : Nat) (h : n ≤ k) :
    (x ++ y).extractLsb' k w = x.extractLsb' (k - n) w := by
  apply BitVec.eq_of_getLsbD_eq
  intro j hj
  rw [BitVec.getLsbD_extractLsb', BitVec.getLsbD_extractLsb', BitVec.getLsbD_append, if_neg (by omega)]
  congr 2
  omega

@[simp] theorem headM_head (e : Enc) (s : BitVec 2) : headM (e.head s) = e.m := low_append _ _

@[simp] theorem headTl_head (e : Enc) (s : BitVec 2) : headTl (e.head s) = e.tl :=
  (high_append _ e.m 6 2 (by decide)).trans ((high_append _ s 2 2 (by decide)).trans (low_append _ _))

@[simp] theorem headOp_head (e : Enc) (s : BitVec 2) : headOp (e.head s) = e.op :=
  (high_append _ e.m 8 8 (by decide)).trans ((high_append _ s 4 8 (by decide)).trans
    ((high_append _ e.tl 2 8 (by decide)).trans BitVec.extractLsb'_eq_self))

section

variable (i : BitVec 48) (x : BitVec 1) (b a d : BitVec 5)

@[simp] theorem tail_d : Tail.d (mkTail i x b a d) = d := low_append _ _

@[simp] theorem tail_a : Tail.a (mkTail i x b a d) = a := (high_append _ d 5 5 (by decide)).trans (low_append _ _)

@[simp] theorem tail_b : Tail.b (mkTail i x b a d) = b :=
  (high_append _ d 10 5 (by decide)).trans ((high_append _ a 5 5 (by decide)).trans (low_append _ _))

@[simp] theorem tail_x : Tail.x (mkTail i x b a d) = x :=
  (high_append _ d 15 1 (by decide)).trans ((high_append _ a 10 1 (by decide)).trans
    ((high_append _ b 5 1 (by decide)).trans (low_append _ _)))

theorem tail_imm (w : Nat) : (mkTail i x b a d).extractLsb' 16 w = i.extractLsb' 0 w :=
  (high_append _ d 16 w (by decide)).trans ((high_append _ a 11 w (by decide)).trans
    ((high_append _ b 6 w (by decide)).trans (high_append _ x 1 w (by decide))))

@[simp] theorem tail_imm48 : Tail.imm48 (mkTail i x b a d) = i := (tail_imm i x b a d 48).trans BitVec.extractLsb'_eq_self

@[simp] theorem tail_imm16 (v : BitVec 16) : Tail.imm16 (mkTail (0#32 ++ v) x b a d) = v :=
  (tail_imm _ x b a d 16).trans (low_append _ _)

/-- A shorter immediate lies low in imm16, zero above it. -/
theorem imm16_short (m n k : Nat) (hm : m + n = 48) (hk : k + n = 16) (v : BitVec n) :
    Tail.imm16 (mkTail ((0#m ++ v).cast hm) x b a d) = (0#k ++ v).cast hk := by
  refine (tail_imm _ x b a d 16).trans ?_
  apply BitVec.eq_of_getLsbD_eq
  intro j hj
  simp only [BitVec.getLsbD_extractLsb', BitVec.getLsbD_cast, BitVec.getLsbD_append, hj, decide_true, Bool.true_and, Nat.zero_add,
    BitVec.getLsbD_zero]

@[simp] theorem tail_imm6 (v : BitVec 6) : Tail.imm16 (mkTail (0#42 ++ v) x b a d) = 0#10 ++ v :=
  imm16_short x b a d 42 6 10 rfl rfl v

@[simp] theorem tail_imm4 (v : BitVec 4) : Tail.imm16 (mkTail (0#44 ++ v) x b a d) = 0#12 ++ v :=
  imm16_short x b a d 44 4 12 rfl rfl v

@[simp] theorem tail_imm13 (w : BitVec 7) (p : BitVec 6) : Tail.imm16 (mkTail (0#35 ++ w ++ p) x b a d) = 0#3 ++ w ++ p := by
  refine (tail_imm _ x b a d 16).trans ?_
  apply BitVec.eq_of_getLsbD_eq
  intro j hj
  rw [BitVec.getLsbD_extractLsb', BitVec.getLsbD_append, BitVec.getLsbD_append, BitVec.getLsbD_append, BitVec.getLsbD_append]
  simp only [hj, decide_true, Bool.true_and, Nat.zero_add, BitVec.getLsbD_zero]

end

@[simp] theorem toVReg_ofVReg : ∀ v : VReg, toVReg (ofVReg v) = some v := by decide
@[simp] theorem toKReg_ofKReg : ∀ k : KReg, toKReg (ofKReg k) = some k := by decide
@[simp] theorem ofCode_vecM : ∀ v : VecM, VecM.ofCode v.toCode = some v := by
  rintro ⟨w, _ | k⟩
  · cases w <;> decide
  · revert k; cases w <;> decide
@[simp] theorem ofCode_cond (c : Cond) : Cond.ofCode c.toCode = some c := by cases c <;> rfl
@[simp] theorem ofCode_fCond (c : FCond) : FCond.ofCode c.toCode = some c := by cases c <;> rfl
@[simp] theorem ofCode_rnd (c : Rnd) : Rnd.ofCode c.toCode = some c := by cases c <;> rfl
@[simp] theorem ofCode_ldSize (c : LdSize) : LdSize.ofCode c.toCode = some c := by cases c <;> rfl
@[simp] theorem ofCode_stSize (c : StSize) : StSize.ofCode c.toCode = some c := by cases c <;> rfl
@[simp] theorem ofCode_logOp (c : LogOp) : LogOp.ofCode c.toCode = some c := by cases c <;> rfl
@[simp] theorem ofCode_fcvtCode (c : FcvtCode) : FcvtCode.ofCode c.toCode = some c := by cases c <;> rfl
@[simp] theorem ofCode_sgnOp (c : SgnOp) : SgnOp.ofCode c.toCode = some c := by cases c <;> rfl
@[simp] theorem ofCode_vShiftOp (c : VShiftOp) : VShiftOp.ofCode c.toCode = some c := by cases c <;> rfl
@[simp] theorem ofCode_redOp (c : RedOp) : RedOp.ofCode c.toCode = some c := by cases c <;> rfl
@[simp] theorem ofCode_fmt (c : Fmt) : Fmt.ofCode c.toCode = some c := by cases c <;> rfl
@[simp] theorem ofCode_fp8 (c : Fp8) : Fp8.ofCode c.toCode = some c := by cases c <;> rfl
@[simp] theorem ofCode_packFmt (c : PackFmt) : PackFmt.ofCode c.toCode = some c := by cases c <;> rfl
@[simp] theorem ofCode_idsSel (c : IdsSel) : IdsSel.ofCode c.toCode = some c := by cases c <;> rfl
@[simp] theorem ofCode_spawnPri (c : SpawnPri) : SpawnPri.ofCode c.toCode = some c := by cases c <;> rfl
@[simp] theorem ofCode_prec (c : Prec) : Prec.ofCode c.toCode = some c := by cases c <;> rfl
@[simp] theorem ofCode_scope (c : Scope) : Scope.ofCode c.toCode = some c := by cases c <;> rfl

/-- Decoding a head and tail made of fields decodes the fields. -/
theorem decode_head (e : Enc) (s : BitVec 2) : decodeInstr (e.head s) e.tail = decodeFields e.op e.tl e.m e.tail := by
  simp only [decodeInstr, headM_head, headTl_head, headOp_head]

theorem decode_ok {op : BitVec 8} {tl : BitVec 2} {m : BitVec 4} {t : BitVec 64} {i : Instr} (h1 : opReserved op = false)
    (h2 : (tailMask op.toNat).testBit tl.toNat = true) (h3 : decodeBody op tl m t = some i) : decodeFields op tl m t = .ok i := by
  simp only [decodeFields, h1, h2, h3]
  rfl

theorem canonical_wf {i : Instr} (h : i.canonical = true) : i.wf = true := by
  cases i <;> first | rfl | cases h | exact (Bool.and_eq_true _ _ ▸ h).1

theorem needWf_of {i : Instr} (h : i.canonical = true) : needWf i = some i := by
  simp only [needWf, canonical_wf h, if_true]

theorem special_number : ∀ sp : BitVec 6, sp.extractLsb' 5 1 ++ sp.extractLsb' 0 5 = sp := by decide

@[simp] theorem imm6 : ∀ n : BitVec 6, (0#10 ++ n).toNat < 64 ∧ BitVec.extractLsb' 0 6 (0#10 ++ n) = n := by decide

@[simp] theorem imm4 : ∀ n : BitVec 4, (0#12 ++ n).toNat < 16 ∧ BitVec.extractLsb' 0 4 (0#12 ++ n) = n := by decide

theorem fields3 : ∀ n : BitVec 3, (0#1 ++ n).toNat < 8 ∧ BitVec.extractLsb' 0 3 (0#1 ++ n) = n := by decide

@[simp] theorem imm13 (w : BitVec 7) (p : BitVec 6) : BitVec.extractLsb' 13 3 (0#3 ++ w ++ p) = 0#3 ∧
    BitVec.extractLsb' 0 6 (0#3 ++ w ++ p) = p ∧ BitVec.extractLsb' 6 7 (0#3 ++ w ++ p) = w :=
  ⟨(high_append _ p 13 3 (by decide)).trans ((high_append _ w 7 3 (by decide)).trans BitVec.extractLsb'_eq_self), low_append _ _,
    (high_append _ p 6 7 (by decide)).trans (low_append _ _)⟩

/-! ### Decoding undoes encoding -/

/-- An instruction that its encoding determines decodes from it to itself, whatever its stall count (R49 to R53, R90). -/
def RoundTrip.Statement (i : Instr) : Prop :=
  ∀ (e : Enc) (s : BitVec 2), i.canonical = true → encode i = some e → decodeInstr (e.head s) e.tail = .ok i

theorem RoundTrip.of_fields {i : Instr} {op : BitVec 8} {tl : BitVec 2} {m : BitVec 4} {t : BitVec 64}
    (h : encode i = some ⟨op, tl, m, t⟩) (hd : i.canonical = true → decodeFields op tl m t = .ok i) : RoundTrip.Statement i := by
  intro e s hc he
  rw [h] at he
  cases he
  rw [decode_head]
  exact hd hc

theorem RoundTrip.of_not {i : Instr} (h : i.canonical = false) : RoundTrip.Statement i := by
  intro e s hc
  rw [h] at hc
  cases hc

theorem RoundTrip.ill (m : BitVec 4) : RoundTrip.Statement (.ill m) := of_fields rfl fun hc => decode_ok rfl rfl (by
  simp [decodeBody, decodeRow0])
theorem RoundTrip.br (target : BrImm) : RoundTrip.Statement (.br target) := of_fields rfl fun hc => decode_ok rfl rfl (by
  simp [decodeBody, decodeRow0]
  exact low_append _ _)
theorem RoundTrip.brc (c : Cond) (a : Reg) (b : Reg) (target : BrImm) : RoundTrip.Statement (.brc c a b target) := of_fields rfl fun hc => decode_ok rfl rfl (by
  simp [decodeBody, decodeRow0])
theorem RoundTrip.jmp (a : Reg) : RoundTrip.Statement (.jmp a) := of_fields rfl fun hc => decode_ok rfl rfl (by
  simp [decodeBody, decodeRow0])
theorem RoundTrip.call (target : BrImm) : RoundTrip.Statement (.call target) := of_fields rfl fun hc => decode_ok rfl rfl (by
  simp [decodeBody, decodeRow0]
  exact low_append _ _)
theorem RoundTrip.callr (a : Reg) : RoundTrip.Statement (.callr a) := of_fields rfl fun hc => decode_ok rfl rfl (by
  simp [decodeBody, decodeRow0])
theorem RoundTrip.loop (d : Reg) (target : BrImm) : RoundTrip.Statement (.loop d target) := of_fields rfl fun hc => decode_ok rfl rfl (by
  simp [decodeBody, decodeRow0, needWf_of hc])
theorem RoundTrip.add (d : Reg) (a : Reg) (b : Reg) : RoundTrip.Statement (.add d a b) := of_fields rfl fun hc => decode_ok rfl rfl (by
  simp [decodeBody, decodeRow1])
theorem RoundTrip.sub (d : Reg) (a : Reg) (b : Reg) : RoundTrip.Statement (.sub d a b) := of_fields rfl fun hc => decode_ok rfl rfl (by
  simp [decodeBody, decodeRow1])
theorem RoundTrip.addi (d : Reg) (a : Reg) (imm : BitVec 16) : RoundTrip.Statement (.addi d a imm) := of_fields rfl fun hc => decode_ok rfl rfl (by
  simp [decodeBody, decodeRow1])
theorem RoundTrip.addiT4 (d : Reg) (a : Reg) (imm : BitVec 48) : RoundTrip.Statement (.addiT4 d a imm) := of_fields rfl fun hc => decode_ok rfl rfl (by
  simp [decodeBody, decodeRow1])
theorem RoundTrip.mul (d : Reg) (a : Reg) (b : Reg) : RoundTrip.Statement (.mul d a b) := of_fields rfl fun hc => decode_ok rfl rfl (by
  simp [decodeBody, decodeRow1])
theorem RoundTrip.mulh (us : Bool) (d : Reg) (a : Reg) (b : Reg) : RoundTrip.Statement (.mulh us d a b) := of_fields rfl fun hc => decode_ok rfl rfl (by
  cases us <;> simp [decodeBody, decodeRow1] <;> first | rfl | exact ⟨by decide, rfl⟩)
theorem RoundTrip.div (us : Bool) (d : Reg) (a : Reg) (b : Reg) : RoundTrip.Statement (.div us d a b) := of_fields rfl fun hc => decode_ok rfl rfl (by
  cases us <;> simp [decodeBody, decodeRow1] <;> first | rfl | exact ⟨by decide, rfl⟩)
theorem RoundTrip.rem (us : Bool) (d : Reg) (a : Reg) (b : Reg) : RoundTrip.Statement (.rem us d a b) := of_fields rfl fun hc => decode_ok rfl rfl (by
  cases us <;> simp [decodeBody, decodeRow1] <;> first | rfl | exact ⟨by decide, rfl⟩)
theorem RoundTrip.min (us : Bool) (d : Reg) (a : Reg) (b : Reg) : RoundTrip.Statement (.min us d a b) := of_fields rfl fun hc => decode_ok rfl rfl (by
  cases us <;> simp [decodeBody, decodeRow1] <;> first | rfl | exact ⟨by decide, rfl⟩)
theorem RoundTrip.max (us : Bool) (d : Reg) (a : Reg) (b : Reg) : RoundTrip.Statement (.max us d a b) := of_fields rfl fun hc => decode_ok rfl rfl (by
  cases us <;> simp [decodeBody, decodeRow1] <;> first | rfl | exact ⟨by decide, rfl⟩)
theorem RoundTrip.slt (us : Bool) (d : Reg) (a : Reg) (b : Reg) : RoundTrip.Statement (.slt us d a b) := of_fields rfl fun hc => decode_ok rfl rfl (by
  cases us <;> simp [decodeBody, decodeRow1] <;> first | rfl | exact ⟨by decide, rfl⟩)
theorem RoundTrip.slti (us : Bool) (d : Reg) (a : Reg) (imm : BitVec 16) : RoundTrip.Statement (.slti us d a imm) := of_fields rfl fun hc => decode_ok rfl rfl (by
  cases us <;> simp [decodeBody, decodeRow1] <;> first | rfl | exact ⟨by decide, rfl⟩)
theorem RoundTrip.sltiT4 (us : Bool) (d : Reg) (a : Reg) (imm : BitVec 48) : RoundTrip.Statement (.sltiT4 us d a imm) := of_fields rfl fun hc => decode_ok rfl rfl (by
  cases us <;> simp [decodeBody, decodeRow1] <;> first | rfl | exact ⟨by decide, rfl⟩)
theorem RoundTrip.madd (d : Reg) (a : Reg) (b : Reg) : RoundTrip.Statement (.madd d a b) := of_fields rfl fun hc => decode_ok rfl rfl (by
  simp [decodeBody, decodeRow1])
theorem RoundTrip.and (d : Reg) (a : Reg) (b : Reg) : RoundTrip.Statement (.and d a b) := of_fields rfl fun hc => decode_ok rfl rfl (by
  simp [decodeBody, decodeRow2])
theorem RoundTrip.or (d : Reg) (a : Reg) (b : Reg) : RoundTrip.Statement (.or d a b) := of_fields rfl fun hc => decode_ok rfl rfl (by
  simp [decodeBody, decodeRow2])
theorem RoundTrip.xor (d : Reg) (a : Reg) (b : Reg) : RoundTrip.Statement (.xor d a b) := of_fields rfl fun hc => decode_ok rfl rfl (by
  simp [decodeBody, decodeRow2])
theorem RoundTrip.andn (d : Reg) (a : Reg) (b : Reg) : RoundTrip.Statement (.andn d a b) := of_fields rfl fun hc => decode_ok rfl rfl (by
  simp [decodeBody, decodeRow2])
theorem RoundTrip.logi (op : LogOp) (d : Reg) (a : Reg) (imm : BitVec 16) : RoundTrip.Statement (.logi op d a imm) := of_fields rfl fun hc => decode_ok rfl rfl (by
  simp [decodeBody, decodeRow2])
theorem RoundTrip.logiT4 (op : LogOp) (d : Reg) (a : Reg) (imm : BitVec 48) : RoundTrip.Statement (.logiT4 op d a imm) := of_fields rfl fun hc => decode_ok rfl rfl (by
  simp [decodeBody, decodeRow2])
theorem RoundTrip.shl (d : Reg) (a : Reg) (b : Reg) : RoundTrip.Statement (.shl d a b) := of_fields rfl fun hc => decode_ok rfl rfl (by
  simp [decodeBody, decodeRow2])
theorem RoundTrip.shlImm (d : Reg) (a : Reg) (n : BitVec 6) : RoundTrip.Statement (.shlImm d a n) := of_fields rfl fun hc => decode_ok rfl rfl (by
  simp [decodeBody, decodeRow2])
theorem RoundTrip.shr (d : Reg) (a : Reg) (b : Reg) : RoundTrip.Statement (.shr d a b) := of_fields rfl fun hc => decode_ok rfl rfl (by
  simp [decodeBody, decodeRow2])
theorem RoundTrip.shrImm (d : Reg) (a : Reg) (n : BitVec 6) : RoundTrip.Statement (.shrImm d a n) := of_fields rfl fun hc => decode_ok rfl rfl (by
  simp [decodeBody, decodeRow2])
theorem RoundTrip.sar (d : Reg) (a : Reg) (b : Reg) : RoundTrip.Statement (.sar d a b) := of_fields rfl fun hc => decode_ok rfl rfl (by
  simp [decodeBody, decodeRow2])
theorem RoundTrip.sarImm (d : Reg) (a : Reg) (n : BitVec 6) : RoundTrip.Statement (.sarImm d a n) := of_fields rfl fun hc => decode_ok rfl rfl (by
  simp [decodeBody, decodeRow2])
theorem RoundTrip.rot (d : Reg) (a : Reg) (b : Reg) : RoundTrip.Statement (.rot d a b) := of_fields rfl fun hc => decode_ok rfl rfl (by
  simp [decodeBody, decodeRow2])
theorem RoundTrip.rotImm (d : Reg) (a : Reg) (n : BitVec 6) : RoundTrip.Statement (.rotImm d a n) := of_fields rfl fun hc => decode_ok rfl rfl (by
  simp [decodeBody, decodeRow2])
theorem RoundTrip.clz (d : Reg) (a : Reg) : RoundTrip.Statement (.clz d a) := of_fields rfl fun hc => decode_ok rfl rfl (by
  simp [decodeBody, decodeRow2])
theorem RoundTrip.popc (d : Reg) (a : Reg) : RoundTrip.Statement (.popc d a) := of_fields rfl fun hc => decode_ok rfl rfl (by
  simp [decodeBody, decodeRow2])
theorem RoundTrip.bfx (sx : Bool) (d : Reg) (a : Reg) (p : BitVec 6) (w : BitVec 7) : RoundTrip.Statement (.bfx sx d a p w) := of_fields rfl fun hc => decode_ok rfl rfl (by
  have h := needWf_of hc
  have e := imm13 w p
  cases sx <;> simp [decodeBody, decodeRow2, e.1, e.2.1, e.2.2] <;> exact ⟨by decide, h⟩)
theorem RoundTrip.mov (d : Reg) (a : Reg) : RoundTrip.Statement (.mov d a) := of_fields rfl fun hc => decode_ok rfl rfl (by
  simp [decodeBody, decodeRow3])
theorem RoundTrip.movi (d : Reg) (imm : BitVec 16) : RoundTrip.Statement (.movi d imm) := of_fields rfl fun hc => decode_ok rfl rfl (by
  simp [decodeBody, decodeRow3])
theorem RoundTrip.moviT4 (d : Reg) (imm : BitVec 48) : RoundTrip.Statement (.moviT4 d imm) := of_fields rfl fun hc => decode_ok rfl rfl (by
  simp [decodeBody, decodeRow3])
theorem RoundTrip.movhi (k : BitVec 2) (d : Reg) (imm : BitVec 16) : RoundTrip.Statement (.movhi k d imm) := of_fields rfl fun hc => decode_ok rfl rfl (by
  simp [decodeBody, decodeRow3]
  clear hc
  revert k
  decide)
theorem RoundTrip.sel (d : Reg) (a : Reg) (b : Reg) : RoundTrip.Statement (.sel d a b) := of_fields rfl fun hc => decode_ok rfl rfl (by
  simp [decodeBody, decodeRow3])
theorem RoundTrip.lea (d : Reg) (a : Reg) (imm : BitVec 16) : RoundTrip.Statement (.lea d a imm) := of_fields rfl fun hc => decode_ok rfl rfl (by
  simp [decodeBody, decodeRow3])
theorem RoundTrip.leaT4 (d : Reg) (a : Reg) (imm : BitVec 48) : RoundTrip.Statement (.leaT4 d a imm) := of_fields rfl fun hc => decode_ok rfl rfl (by
  simp [decodeBody, decodeRow3])
theorem RoundTrip.movs (d : Reg) (sp : BitVec 6) : RoundTrip.Statement (.movs d sp) := of_fields rfl fun hc => decode_ok rfl rfl (by
  have h := canonical_wf hc
  simp only [Instr.wf, Bool.and_eq_true, bne_iff_ne] at h
  simp [decodeBody, decodeRow3, special_number, decodeMovs, h.1.2, h.2, needWf_of hc])
theorem RoundTrip.movsWptr (d : Reg) : RoundTrip.Statement (.movsWptr d) := of_fields rfl fun hc => decode_ok rfl rfl (by
  simp [decodeBody, decodeRow3, decodeMovs])
theorem RoundTrip.movsSsp (d : Reg) : RoundTrip.Statement (.movsSsp d) := of_fields rfl fun hc => decode_ok rfl rfl (by
  simp [decodeBody, decodeRow3, decodeMovs])
theorem RoundTrip.movt (sp : BitVec 6) (a : Reg) : RoundTrip.Statement (.movt sp a) := of_fields rfl fun hc => decode_ok rfl rfl (by
  have h := canonical_wf hc
  simp only [Instr.wf, Bool.and_eq_true, bne_iff_ne] at h
  simp [decodeBody, decodeRow3, special_number, decodeMovt, h.1.1.2, h.1.2, h.2, needWf_of hc])
theorem RoundTrip.movtSts (a : Reg) : RoundTrip.Statement (.movtSts a) := of_fields rfl fun hc => decode_ok rfl rfl (by
  simp [decodeBody, decodeRow3, decodeMovt])
theorem RoundTrip.movtWptr (a : Reg) : RoundTrip.Statement (.movtWptr a) := of_fields rfl fun hc => decode_ok rfl rfl (by
  simp [decodeBody, decodeRow3, decodeMovt])
theorem RoundTrip.movtSsp (a : Reg) : RoundTrip.Statement (.movtSsp a) := of_fields rfl fun hc => decode_ok rfl rfl (by
  simp [decodeBody, decodeRow3, decodeMovt])
theorem RoundTrip.ids (q : IdsSel) (d : Reg) : RoundTrip.Statement (.ids q d) := of_fields rfl fun hc => decode_ok rfl rfl (by
  simp [decodeBody, decodeRow3])
theorem RoundTrip.clk (d : Reg) : RoundTrip.Statement (.clk d) := of_fields rfl fun hc => decode_ok rfl rfl (by
  simp [decodeBody, decodeRow3])
theorem RoundTrip.rng (d : Reg) (a : Reg) (b : Reg) : RoundTrip.Statement (.rng d a b) := of_fields rfl fun hc => decode_ok rfl rfl (by
  simp [decodeBody, decodeRow3])
theorem RoundTrip.cmp (c : Cond) (d : Reg) (a : Reg) (b : Reg) : RoundTrip.Statement (.cmp c d a b) := of_fields rfl fun hc => decode_ok rfl rfl (by
  simp [decodeBody, decodeRow3])
theorem RoundTrip.cmpImm (c : Cond) (d : Reg) (a : Reg) (imm : BitVec 16) : RoundTrip.Statement (.cmpImm c d a imm) := of_fields rfl fun hc => decode_ok rfl rfl (by
  simp [decodeBody, decodeRow3])
theorem RoundTrip.ext (sz : LdSize) (d : Reg) (a : Reg) : RoundTrip.Statement (.ext sz d a) := of_fields rfl fun hc => decode_ok rfl rfl (by
  simp [decodeBody, decodeRow3, needWf_of hc])
theorem RoundTrip.fadd (r : Rnd) (p : Prec) (d : Reg) (a : Reg) (b : Reg) : RoundTrip.Statement (.fadd r p d a b) := of_fields rfl fun hc => decode_ok rfl rfl (by
  cases r <;> cases p <;> simp [decodeBody, decodeRow4] <;> rfl)
theorem RoundTrip.fsub (r : Rnd) (p : Prec) (d : Reg) (a : Reg) (b : Reg) : RoundTrip.Statement (.fsub r p d a b) := of_fields rfl fun hc => decode_ok rfl rfl (by
  cases r <;> cases p <;> simp [decodeBody, decodeRow4] <;> rfl)
theorem RoundTrip.fmul (r : Rnd) (p : Prec) (d : Reg) (a : Reg) (b : Reg) : RoundTrip.Statement (.fmul r p d a b) := of_fields rfl fun hc => decode_ok rfl rfl (by
  cases r <;> cases p <;> simp [decodeBody, decodeRow4] <;> rfl)
theorem RoundTrip.ffma (r : Rnd) (p : Prec) (d : Reg) (a : Reg) (b : Reg) : RoundTrip.Statement (.ffma r p d a b) := of_fields rfl fun hc => decode_ok rfl rfl (by
  cases r <;> cases p <;> simp [decodeBody, decodeRow4] <;> rfl)
theorem RoundTrip.fdiv (r : Rnd) (p : Prec) (d : Reg) (a : Reg) (b : Reg) : RoundTrip.Statement (.fdiv r p d a b) := of_fields rfl fun hc => decode_ok rfl rfl (by
  cases r <;> cases p <;> simp [decodeBody, decodeRow4] <;> rfl)
theorem RoundTrip.fsqrt (r : Rnd) (p : Prec) (d : Reg) (a : Reg) : RoundTrip.Statement (.fsqrt r p d a) := of_fields rfl fun hc => decode_ok rfl rfl (by
  cases r <;> cases p <;> simp [decodeBody, decodeRow4] <;> rfl)
theorem RoundTrip.fmin (p : Prec) (d : Reg) (a : Reg) (b : Reg) : RoundTrip.Statement (.fmin p d a b) := of_fields rfl fun hc => decode_ok rfl rfl (by
  simp [decodeBody, decodeRow4])
theorem RoundTrip.fmax (p : Prec) (d : Reg) (a : Reg) (b : Reg) : RoundTrip.Statement (.fmax p d a b) := of_fields rfl fun hc => decode_ok rfl rfl (by
  simp [decodeBody, decodeRow4])
theorem RoundTrip.fcmp (c : FCond) (p : Prec) (d : Reg) (a : Reg) (b : Reg) : RoundTrip.Statement (.fcmp c p d a b) := of_fields rfl fun hc => decode_ok rfl rfl (by
  cases c <;> cases p <;> simp [decodeBody, decodeRow4] <;> rfl)
theorem RoundTrip.fcvt (k : FcvtCode) (d : Reg) (a : Reg) : RoundTrip.Statement (.fcvt k d a) := of_fields rfl fun hc => decode_ok rfl rfl (by
  simp [decodeBody, decodeRow4])
theorem RoundTrip.fsgn (op : SgnOp) (p : Prec) (d : Reg) (a : Reg) (b : Reg) : RoundTrip.Statement (.fsgn op p d a b) := of_fields rfl fun hc => decode_ok rfl rfl (by
  cases op <;> cases p <;> simp [decodeBody, decodeRow4] <;> first | rfl | exact ⟨by decide, rfl⟩)
theorem RoundTrip.fcls (p : Prec) (d : Reg) (a : Reg) : RoundTrip.Statement (.fcls p d a) := of_fields rfl fun hc => decode_ok rfl rfl (by
  simp [decodeBody, decodeRow4])
theorem RoundTrip.vadd (m : VecM) (d : VReg) (a : VReg) (b : VReg) : RoundTrip.Statement (.vadd m d a b) := of_fields rfl fun hc => decode_ok rfl rfl (by
  simp [decodeBody, decodeRow5])
theorem RoundTrip.vsub (m : VecM) (d : VReg) (a : VReg) (b : VReg) : RoundTrip.Statement (.vsub m d a b) := of_fields rfl fun hc => decode_ok rfl rfl (by
  simp [decodeBody, decodeRow5])
theorem RoundTrip.vmul (m : VecM) (d : VReg) (a : VReg) (b : VReg) : RoundTrip.Statement (.vmul m d a b) := of_fields rfl fun hc => decode_ok rfl rfl (by
  simp [decodeBody, decodeRow5])
theorem RoundTrip.vand (m : VecM) (d : VReg) (a : VReg) (b : VReg) : RoundTrip.Statement (.vand m d a b) := of_fields rfl fun hc => decode_ok rfl rfl (by
  simp [decodeBody, decodeRow5])
theorem RoundTrip.vor (m : VecM) (d : VReg) (a : VReg) (b : VReg) : RoundTrip.Statement (.vor m d a b) := of_fields rfl fun hc => decode_ok rfl rfl (by
  simp [decodeBody, decodeRow5])
theorem RoundTrip.vxor (m : VecM) (d : VReg) (a : VReg) (b : VReg) : RoundTrip.Statement (.vxor m d a b) := of_fields rfl fun hc => decode_ok rfl rfl (by
  simp [decodeBody, decodeRow5])
theorem RoundTrip.vshift (op : VShiftOp) (wide : Bool) (d : VReg) (a : VReg) (b : VReg) : RoundTrip.Statement (.vshift op wide d a b) := of_fields rfl fun hc => decode_ok rfl rfl (by
  cases op <;> cases wide <;> simp [decodeBody, decodeRow5] <;> first | rfl | exact ⟨by decide, rfl⟩)
theorem RoundTrip.vminmax (isMax : Bool) (us : Bool) (wide : Bool) (d : VReg) (a : VReg) (b : VReg) : RoundTrip.Statement (.vminmax isMax us wide d a b) := of_fields rfl fun hc => decode_ok rfl rfl (by
  cases isMax <;> cases us <;> cases wide <;> simp [decodeBody, decodeRow5] <;> decide)
theorem RoundTrip.vsel (wide : Bool) (k : KReg) (d : VReg) (a : VReg) (b : VReg) : RoundTrip.Statement (.vsel wide k d a b) := of_fields rfl fun hc => decode_ok rfl rfl (by
  clear hc
  cases wide <;> simp [decodeBody, decodeRow5] <;> revert k <;> decide)
theorem RoundTrip.vbcast (wide : Bool) (d : VReg) (a : Reg) : RoundTrip.Statement (.vbcast wide d a) := of_fields rfl fun hc => decode_ok rfl rfl (by
  cases wide <;> simp [decodeBody, decodeRow5] <;> first | rfl | exact ⟨by decide, rfl⟩)
theorem RoundTrip.vperm (wide : Bool) (d : VReg) (a : VReg) (b : VReg) : RoundTrip.Statement (.vperm wide d a b) := of_fields rfl fun hc => decode_ok rfl rfl (by
  cases wide <;> simp [decodeBody, decodeRow5] <;> first | rfl | exact ⟨by decide, rfl⟩)
theorem RoundTrip.vextr (wide : Bool) (d : Reg) (a : VReg) (b : Reg) : RoundTrip.Statement (.vextr wide d a b) := of_fields rfl fun hc => decode_ok rfl rfl (by
  cases wide <;> simp [decodeBody, decodeRow5] <;> first | rfl | exact ⟨by decide, rfl⟩)
theorem RoundTrip.vextrImm (wide : Bool) (d : Reg) (a : VReg) (j : BitVec 4) : RoundTrip.Statement (.vextrImm wide d a j) := of_fields rfl fun hc => decode_ok rfl rfl (by
  have h := needWf_of hc
  cases wide <;> simp [decodeBody, decodeRow5] <;> exact ⟨by decide, h⟩)
theorem RoundTrip.vfadd (m : VecM) (d : VReg) (a : VReg) (b : VReg) : RoundTrip.Statement (.vfadd m d a b) := of_fields rfl fun hc => decode_ok rfl rfl (by
  simp [decodeBody, decodeRow6])
theorem RoundTrip.vfsub (m : VecM) (d : VReg) (a : VReg) (b : VReg) : RoundTrip.Statement (.vfsub m d a b) := of_fields rfl fun hc => decode_ok rfl rfl (by
  simp [decodeBody, decodeRow6])
theorem RoundTrip.vfmul (m : VecM) (d : VReg) (a : VReg) (b : VReg) : RoundTrip.Statement (.vfmul m d a b) := of_fields rfl fun hc => decode_ok rfl rfl (by
  simp [decodeBody, decodeRow6])
theorem RoundTrip.vffma (m : VecM) (d : VReg) (a : VReg) (b : VReg) : RoundTrip.Statement (.vffma m d a b) := of_fields rfl fun hc => decode_ok rfl rfl (by
  simp [decodeBody, decodeRow6])
theorem RoundTrip.vfmin (m : VecM) (d : VReg) (a : VReg) (b : VReg) : RoundTrip.Statement (.vfmin m d a b) := of_fields rfl fun hc => decode_ok rfl rfl (by
  simp [decodeBody, decodeRow6])
theorem RoundTrip.vfmax (m : VecM) (d : VReg) (a : VReg) (b : VReg) : RoundTrip.Statement (.vfmax m d a b) := of_fields rfl fun hc => decode_ok rfl rfl (by
  simp [decodeBody, decodeRow6])
theorem RoundTrip.vfrcp (m : VecM) (d : VReg) (a : VReg) : RoundTrip.Statement (.vfrcp m d a) := of_fields rfl fun hc => decode_ok rfl rfl (by
  simp [decodeBody, decodeRow6])
theorem RoundTrip.vfrsq (m : VecM) (d : VReg) (a : VReg) : RoundTrip.Statement (.vfrsq m d a) := of_fields rfl fun hc => decode_ok rfl rfl (by
  simp [decodeBody, decodeRow6])
theorem RoundTrip.vfexp (m : VecM) (d : VReg) (a : VReg) : RoundTrip.Statement (.vfexp m d a) := of_fields rfl fun hc => decode_ok rfl rfl (by
  simp [decodeBody, decodeRow6])
theorem RoundTrip.vfcmp (c : FCond) (wide : Bool) (d : KReg) (a : VReg) (b : VReg) : RoundTrip.Statement (.vfcmp c wide d a b) := of_fields rfl fun hc => decode_ok rfl rfl (by
  cases c <;> cases wide <;> simp [decodeBody, decodeRow6] <;> rfl)
theorem RoundTrip.vfred (op : RedOp) (wide : Bool) (d : Reg) (a : VReg) : RoundTrip.Statement (.vfred op wide d a) := of_fields rfl fun hc => decode_ok rfl rfl (by
  cases op <;> cases wide <;> simp [decodeBody, decodeRow6] <;> first | rfl | exact ⟨by decide, rfl⟩)
theorem RoundTrip.vrng (unif : Bool) (d : VReg) (a : Reg) (b : Reg) : RoundTrip.Statement (.vrng unif d a b) := of_fields rfl fun hc => decode_ok rfl rfl (by
  cases unif <;> simp [decodeBody, decodeRow6] <;> first | rfl | exact ⟨by decide, rfl⟩)
theorem RoundTrip.fmt (f : Fmt) : RoundTrip.Statement (.fmt f) := of_fields rfl fun hc => decode_ok rfl rfl (by
  simp [decodeBody, decodeRow7])
theorem RoundTrip.vcvt (f : Fmt) (d : VReg) (a : VReg) : RoundTrip.Statement (.vcvt f d a) := of_fields rfl fun hc => decode_ok rfl rfl (by
  simp [decodeBody, decodeRow7])
theorem RoundTrip.vq8 (f : Fp8) (d : VReg) (a : VReg) (b : VReg) : RoundTrip.Statement (.vq8 f d a b) := of_fields rfl fun hc => decode_ok rfl rfl (by
  simp [decodeBody, decodeRow7])
theorem RoundTrip.vdq8 (f : Fp8) (d : VReg) (a : VReg) (b : Reg) : RoundTrip.Statement (.vdq8 f d a b) := of_fields rfl fun hc => decode_ok rfl rfl (by
  simp [decodeBody, decodeRow7])
theorem RoundTrip.vscale (m : VecM) (d : VReg) (a : VReg) (b : VReg) : RoundTrip.Statement (.vscale m d a b) := of_fields rfl fun hc => decode_ok rfl rfl (by
  simp [decodeBody, decodeRow7])
theorem RoundTrip.kand (op : LogOp) (d : KReg) (a : KReg) (b : KReg) : RoundTrip.Statement (.kand op d a b) := of_fields rfl fun hc => decode_ok rfl rfl (by
  simp [decodeBody, decodeRow7])
theorem RoundTrip.kmov (d : KReg) (a : KReg) : RoundTrip.Statement (.kmov d a) := of_fields rfl fun hc => decode_ok rfl rfl (by
  simp [decodeBody, decodeRow7])
theorem RoundTrip.kmovFx (d : KReg) (a : Reg) : RoundTrip.Statement (.kmovFx d a) := of_fields rfl fun hc => decode_ok rfl rfl (by
  simp [decodeBody, decodeRow7])
theorem RoundTrip.kmovTx (d : Reg) (a : KReg) : RoundTrip.Statement (.kmovTx d a) := of_fields rfl fun hc => decode_ok rfl rfl (by
  simp [decodeBody, decodeRow7])
theorem RoundTrip.vpack (f : PackFmt) (d : VReg) (a : VReg) (b : VReg) : RoundTrip.Statement (.vpack f d a b) := of_fields rfl fun hc => decode_ok rfl rfl (by
  simp [decodeBody, decodeRow7])
theorem RoundTrip.vunpk (f : PackFmt) (d : VReg) (a : VReg) (b : Reg) : RoundTrip.Statement (.vunpk f d a b) := of_fields rfl fun hc => decode_ok rfl rfl (by
  simp [decodeBody, decodeRow7])
theorem RoundTrip.vclamp (m : VecM) (d : VReg) (a : VReg) (b : VReg) : RoundTrip.Statement (.vclamp m d a b) := of_fields rfl fun hc => decode_ok rfl rfl (by
  simp [decodeBody, decodeRow7])
theorem RoundTrip.ld (sz : LdSize) (d : Reg) (a : Reg) (imm : BitVec 16) : RoundTrip.Statement (.ld sz d a imm) := of_fields rfl fun hc => decode_ok rfl rfl (by
  simp [decodeBody, decodeRow8])
theorem RoundTrip.ldT4 (sz : LdSize) (d : Reg) (a : Reg) (imm : BitVec 48) : RoundTrip.Statement (.ldT4 sz d a imm) := of_fields rfl fun hc => decode_ok rfl rfl (by
  simp [decodeBody, decodeRow8])
theorem RoundTrip.ldv (m : VecM) (d : VReg) (a : Reg) (imm : BitVec 16) : RoundTrip.Statement (.ldv m d a imm) := of_fields rfl fun hc => decode_ok rfl rfl (by
  simp [decodeBody, decodeRow8])
theorem RoundTrip.ldvT4 (m : VecM) (d : VReg) (a : Reg) (imm : BitVec 48) : RoundTrip.Statement (.ldvT4 m d a imm) := of_fields rfl fun hc => decode_ok rfl rfl (by
  simp [decodeBody, decodeRow8])
theorem RoundTrip.ldvs (m : VecM) (d : VReg) (a : Reg) (b : Reg) (imm : BitVec 16) : RoundTrip.Statement (.ldvs m d a b imm) := of_fields rfl fun hc => decode_ok rfl rfl (by
  simp [decodeBody, decodeRow8])
theorem RoundTrip.ldvsT4 (m : VecM) (d : VReg) (a : Reg) (b : Reg) (imm : BitVec 48) : RoundTrip.Statement (.ldvsT4 m d a b imm) := of_fields rfl fun hc => decode_ok rfl rfl (by
  simp [decodeBody, decodeRow8])
theorem RoundTrip.ldvg (m : VecM) (d : VReg) (a : Reg) (b : VReg) (imm : BitVec 16) : RoundTrip.Statement (.ldvg m d a b imm) := of_fields rfl fun hc => decode_ok rfl rfl (by
  simp [decodeBody, decodeRow8])
theorem RoundTrip.ldvgT4 (m : VecM) (d : VReg) (a : Reg) (b : VReg) (imm : BitVec 48) : RoundTrip.Statement (.ldvgT4 m d a b imm) := of_fields rfl fun hc => decode_ok rfl rfl (by
  simp [decodeBody, decodeRow8])
theorem RoundTrip.ldl (sz : LdSize) (d : Reg) (a : Reg) (imm : BitVec 16) : RoundTrip.Statement (.ldl sz d a imm) := of_fields rfl fun hc => decode_ok rfl rfl (by
  simp [decodeBody, decodeRow8])
theorem RoundTrip.ldlv (m : VecM) (d : VReg) (a : Reg) (imm : BitVec 16) : RoundTrip.Statement (.ldlv m d a imm) := of_fields rfl fun hc => decode_ok rfl rfl (by
  simp [decodeBody, decodeRow8])
theorem RoundTrip.ldfe (d : Reg) (a : Reg) (imm : BitVec 16) : RoundTrip.Statement (.ldfe d a imm) := of_fields rfl fun hc => decode_ok rfl rfl (by
  simp [decodeBody, decodeRow8])
theorem RoundTrip.ldfeT4 (d : Reg) (a : Reg) (imm : BitVec 48) : RoundTrip.Statement (.ldfeT4 d a imm) := of_fields rfl fun hc => decode_ok rfl rfl (by
  simp [decodeBody, decodeRow8])
theorem RoundTrip.ldff (d : Reg) (a : Reg) (imm : BitVec 16) : RoundTrip.Statement (.ldff d a imm) := of_fields rfl fun hc => decode_ok rfl rfl (by
  simp [decodeBody, decodeRow8])
theorem RoundTrip.ldffT4 (d : Reg) (a : Reg) (imm : BitVec 48) : RoundTrip.Statement (.ldffT4 d a imm) := of_fields rfl fun hc => decode_ok rfl rfl (by
  simp [decodeBody, decodeRow8])
theorem RoundTrip.ldfs (d : Reg) (a : Reg) (b : Reg) (imm : BitVec 16) : RoundTrip.Statement (.ldfs d a b imm) := of_fields rfl fun hc => decode_ok rfl rfl (by
  simp [decodeBody, decodeRow8])
theorem RoundTrip.ldfsT4 (d : Reg) (a : Reg) (b : Reg) (imm : BitVec 48) : RoundTrip.Statement (.ldfsT4 d a b imm) := of_fields rfl fun hc => decode_ok rfl rfl (by
  simp [decodeBody, decodeRow8])
theorem RoundTrip.ldx (sz : LdSize) (d : Reg) (a : Reg) (b : Reg) (imm : BitVec 16) : RoundTrip.Statement (.ldx sz d a b imm) := of_fields rfl fun hc => decode_ok rfl rfl (by
  simp [decodeBody, decodeRow8])
theorem RoundTrip.ldxT4 (sz : LdSize) (d : Reg) (a : Reg) (b : Reg) (imm : BitVec 48) : RoundTrip.Statement (.ldxT4 sz d a b imm) := of_fields rfl fun hc => decode_ok rfl rfl (by
  simp [decodeBody, decodeRow8])
theorem RoundTrip.ldm (n : BitVec 3) (d : Reg) (a : Reg) (imm : BitVec 16) : RoundTrip.Statement (.ldm n d a imm) := of_fields rfl fun hc => decode_ok rfl rfl (by
  simp [decodeBody, decodeRow8, fields3, needWf_of hc])
theorem RoundTrip.ldmT4 (n : BitVec 3) (d : Reg) (a : Reg) (imm : BitVec 48) : RoundTrip.Statement (.ldmT4 n d a imm) := of_fields rfl fun hc => decode_ok rfl rfl (by
  simp [decodeBody, decodeRow8, fields3, needWf_of hc])
theorem RoundTrip.ldnp (sz : LdSize) (d : Reg) (a : Reg) (b : Reg) (imm : BitVec 16) : RoundTrip.Statement (.ldnp sz d a b imm) := of_fields rfl fun hc => decode_ok rfl rfl (by
  simp [decodeBody, decodeRow8])
theorem RoundTrip.ldnpT4 (sz : LdSize) (d : Reg) (a : Reg) (b : Reg) (imm : BitVec 48) : RoundTrip.Statement (.ldnpT4 sz d a b imm) := of_fields rfl fun hc => decode_ok rfl rfl (by
  simp [decodeBody, decodeRow8])
theorem RoundTrip.st (sz : StSize) (a : Reg) (b : Reg) (imm : BitVec 16) : RoundTrip.Statement (.st sz a b imm) := of_fields rfl fun hc => decode_ok rfl rfl (by
  simp [decodeBody, decodeRow9])
theorem RoundTrip.stT4 (sz : StSize) (a : Reg) (b : Reg) (imm : BitVec 48) : RoundTrip.Statement (.stT4 sz a b imm) := of_fields rfl fun hc => decode_ok rfl rfl (by
  simp [decodeBody, decodeRow9])
theorem RoundTrip.stv (m : VecM) (a : Reg) (b : VReg) (imm : BitVec 16) : RoundTrip.Statement (.stv m a b imm) := of_fields rfl fun hc => decode_ok rfl rfl (by
  simp [decodeBody, decodeRow9])
theorem RoundTrip.stvT4 (m : VecM) (a : Reg) (b : VReg) (imm : BitVec 48) : RoundTrip.Statement (.stvT4 m a b imm) := of_fields rfl fun hc => decode_ok rfl rfl (by
  simp [decodeBody, decodeRow9])
theorem RoundTrip.stvs (m : VecM) (d : Reg) (a : Reg) (b : VReg) (imm : BitVec 16) : RoundTrip.Statement (.stvs m d a b imm) := of_fields rfl fun hc => decode_ok rfl rfl (by
  simp [decodeBody, decodeRow9])
theorem RoundTrip.stvsT4 (m : VecM) (d : Reg) (a : Reg) (b : VReg) (imm : BitVec 48) : RoundTrip.Statement (.stvsT4 m d a b imm) := of_fields rfl fun hc => decode_ok rfl rfl (by
  simp [decodeBody, decodeRow9])
theorem RoundTrip.stvg (m : VecM) (d : VReg) (a : Reg) (b : VReg) (imm : BitVec 16) : RoundTrip.Statement (.stvg m d a b imm) := of_fields rfl fun hc => decode_ok rfl rfl (by
  simp [decodeBody, decodeRow9])
theorem RoundTrip.stvgT4 (m : VecM) (d : VReg) (a : Reg) (b : VReg) (imm : BitVec 48) : RoundTrip.Statement (.stvgT4 m d a b imm) := of_fields rfl fun hc => decode_ok rfl rfl (by
  simp [decodeBody, decodeRow9])
theorem RoundTrip.stl (sz : StSize) (a : Reg) (b : Reg) (imm : BitVec 16) : RoundTrip.Statement (.stl sz a b imm) := of_fields rfl fun hc => decode_ok rfl rfl (by
  simp [decodeBody, decodeRow9])
theorem RoundTrip.stlv (m : VecM) (a : Reg) (b : VReg) (imm : BitVec 16) : RoundTrip.Statement (.stlv m a b imm) := of_fields rfl fun hc => decode_ok rfl rfl (by
  simp [decodeBody, decodeRow9])
theorem RoundTrip.stef (a : Reg) (b : Reg) (imm : BitVec 16) : RoundTrip.Statement (.stef a b imm) := of_fields rfl fun hc => decode_ok rfl rfl (by
  simp [decodeBody, decodeRow9])
theorem RoundTrip.stefT4 (a : Reg) (b : Reg) (imm : BitVec 48) : RoundTrip.Statement (.stefT4 a b imm) := of_fields rfl fun hc => decode_ok rfl rfl (by
  simp [decodeBody, decodeRow9])
theorem RoundTrip.stff (a : Reg) (b : Reg) (imm : BitVec 16) : RoundTrip.Statement (.stff a b imm) := of_fields rfl fun hc => decode_ok rfl rfl (by
  simp [decodeBody, decodeRow9])
theorem RoundTrip.stffT4 (a : Reg) (b : Reg) (imm : BitVec 48) : RoundTrip.Statement (.stffT4 a b imm) := of_fields rfl fun hc => decode_ok rfl rfl (by
  simp [decodeBody, decodeRow9])
theorem RoundTrip.fesetE (a : Reg) (imm : BitVec 16) : RoundTrip.Statement (.fesetE a imm) := of_fields rfl fun hc => decode_ok rfl rfl (by
  simp [decodeBody, decodeRow9])
theorem RoundTrip.fesetET4 (a : Reg) (imm : BitVec 48) : RoundTrip.Statement (.fesetET4 a imm) := of_fields rfl fun hc => decode_ok rfl rfl (by
  simp [decodeBody, decodeRow9])
theorem RoundTrip.fesetF (a : Reg) (imm : BitVec 16) : RoundTrip.Statement (.fesetF a imm) := of_fields rfl fun hc => decode_ok rfl rfl (by
  simp [decodeBody, decodeRow9])
theorem RoundTrip.fesetFT4 (a : Reg) (imm : BitVec 48) : RoundTrip.Statement (.fesetFT4 a imm) := of_fields rfl fun hc => decode_ok rfl rfl (by
  simp [decodeBody, decodeRow9])
theorem RoundTrip.stm (n : BitVec 3) (a : Reg) (b : Reg) (imm : BitVec 16) : RoundTrip.Statement (.stm n a b imm) := of_fields rfl fun hc => decode_ok rfl rfl (by
  simp [decodeBody, decodeRow9, fields3, needWf_of hc])
theorem RoundTrip.stmT4 (n : BitVec 3) (a : Reg) (b : Reg) (imm : BitVec 48) : RoundTrip.Statement (.stmT4 n a b imm) := of_fields rfl fun hc => decode_ok rfl rfl (by
  simp [decodeBody, decodeRow9, fields3, needWf_of hc])
theorem RoundTrip.stx (sz : StSize) (d : Reg) (a : Reg) (b : Reg) (imm : BitVec 16) : RoundTrip.Statement (.stx sz d a b imm) := of_fields rfl fun hc => decode_ok rfl rfl (by
  simp [decodeBody, decodeRow9])
theorem RoundTrip.stxT4 (sz : StSize) (d : Reg) (a : Reg) (b : Reg) (imm : BitVec 48) : RoundTrip.Statement (.stxT4 sz d a b imm) := of_fields rfl fun hc => decode_ok rfl rfl (by
  simp [decodeBody, decodeRow9])
theorem RoundTrip.stnp (sz : StSize) (d : Reg) (a : Reg) (b : Reg) (imm : BitVec 16) : RoundTrip.Statement (.stnp sz d a b imm) := of_fields rfl fun hc => decode_ok rfl rfl (by
  simp [decodeBody, decodeRow9])
theorem RoundTrip.stnpT4 (sz : StSize) (d : Reg) (a : Reg) (b : Reg) (imm : BitVec 48) : RoundTrip.Statement (.stnpT4 sz d a b imm) := of_fields rfl fun hc => decode_ok rfl rfl (by
  simp [decodeBody, decodeRow9])
theorem RoundTrip.aadd (sc : Scope) (d : Reg) (a : Reg) (b : Reg) (imm : BitVec 16) : RoundTrip.Statement (.aadd sc d a b imm) := of_fields rfl fun hc => decode_ok rfl rfl (by
  simp [decodeBody, decodeRowA])
theorem RoundTrip.aaddT4 (sc : Scope) (d : Reg) (a : Reg) (b : Reg) (imm : BitVec 48) : RoundTrip.Statement (.aaddT4 sc d a b imm) := of_fields rfl fun hc => decode_ok rfl rfl (by
  simp [decodeBody, decodeRowA])
theorem RoundTrip.amin (sc : Scope) (d : Reg) (a : Reg) (b : Reg) (imm : BitVec 16) : RoundTrip.Statement (.amin sc d a b imm) := of_fields rfl fun hc => decode_ok rfl rfl (by
  simp [decodeBody, decodeRowA])
theorem RoundTrip.aminT4 (sc : Scope) (d : Reg) (a : Reg) (b : Reg) (imm : BitVec 48) : RoundTrip.Statement (.aminT4 sc d a b imm) := of_fields rfl fun hc => decode_ok rfl rfl (by
  simp [decodeBody, decodeRowA])
theorem RoundTrip.amax (sc : Scope) (d : Reg) (a : Reg) (b : Reg) (imm : BitVec 16) : RoundTrip.Statement (.amax sc d a b imm) := of_fields rfl fun hc => decode_ok rfl rfl (by
  simp [decodeBody, decodeRowA])
theorem RoundTrip.amaxT4 (sc : Scope) (d : Reg) (a : Reg) (b : Reg) (imm : BitVec 48) : RoundTrip.Statement (.amaxT4 sc d a b imm) := of_fields rfl fun hc => decode_ok rfl rfl (by
  simp [decodeBody, decodeRowA])
theorem RoundTrip.aand (sc : Scope) (d : Reg) (a : Reg) (b : Reg) (imm : BitVec 16) : RoundTrip.Statement (.aand sc d a b imm) := of_fields rfl fun hc => decode_ok rfl rfl (by
  simp [decodeBody, decodeRowA])
theorem RoundTrip.aandT4 (sc : Scope) (d : Reg) (a : Reg) (b : Reg) (imm : BitVec 48) : RoundTrip.Statement (.aandT4 sc d a b imm) := of_fields rfl fun hc => decode_ok rfl rfl (by
  simp [decodeBody, decodeRowA])
theorem RoundTrip.aor (sc : Scope) (d : Reg) (a : Reg) (b : Reg) (imm : BitVec 16) : RoundTrip.Statement (.aor sc d a b imm) := of_fields rfl fun hc => decode_ok rfl rfl (by
  simp [decodeBody, decodeRowA])
theorem RoundTrip.aorT4 (sc : Scope) (d : Reg) (a : Reg) (b : Reg) (imm : BitVec 48) : RoundTrip.Statement (.aorT4 sc d a b imm) := of_fields rfl fun hc => decode_ok rfl rfl (by
  simp [decodeBody, decodeRowA])
theorem RoundTrip.axor (sc : Scope) (d : Reg) (a : Reg) (b : Reg) (imm : BitVec 16) : RoundTrip.Statement (.axor sc d a b imm) := of_fields rfl fun hc => decode_ok rfl rfl (by
  simp [decodeBody, decodeRowA])
theorem RoundTrip.axorT4 (sc : Scope) (d : Reg) (a : Reg) (b : Reg) (imm : BitVec 48) : RoundTrip.Statement (.axorT4 sc d a b imm) := of_fields rfl fun hc => decode_ok rfl rfl (by
  simp [decodeBody, decodeRowA])
theorem RoundTrip.aswp (sc : Scope) (d : Reg) (a : Reg) (b : Reg) (imm : BitVec 16) : RoundTrip.Statement (.aswp sc d a b imm) := of_fields rfl fun hc => decode_ok rfl rfl (by
  simp [decodeBody, decodeRowA])
theorem RoundTrip.aswpT4 (sc : Scope) (d : Reg) (a : Reg) (b : Reg) (imm : BitVec 48) : RoundTrip.Statement (.aswpT4 sc d a b imm) := of_fields rfl fun hc => decode_ok rfl rfl (by
  simp [decodeBody, decodeRowA])
theorem RoundTrip.acas (sc : Scope) (d : Reg) (a : Reg) (b : Reg) (imm : BitVec 16) : RoundTrip.Statement (.acas sc d a b imm) := of_fields rfl fun hc => decode_ok rfl rfl (by
  simp [decodeBody, decodeRowA])
theorem RoundTrip.acasT4 (sc : Scope) (d : Reg) (a : Reg) (b : Reg) (imm : BitVec 48) : RoundTrip.Statement (.acasT4 sc d a b imm) := of_fields rfl fun hc => decode_ok rfl rfl (by
  simp [decodeBody, decodeRowA])
theorem RoundTrip.afadd (sc : Scope) (d : Reg) (a : Reg) (b : Reg) (imm : BitVec 16) : RoundTrip.Statement (.afadd sc d a b imm) := of_fields rfl fun hc => decode_ok rfl rfl (by
  simp [decodeBody, decodeRowA])
theorem RoundTrip.afaddT4 (sc : Scope) (d : Reg) (a : Reg) (b : Reg) (imm : BitVec 48) : RoundTrip.Statement (.afaddT4 sc d a b imm) := of_fields rfl fun hc => decode_ok rfl rfl (by
  simp [decodeBody, decodeRowA])
theorem RoundTrip.fence (sc : Scope) : RoundTrip.Statement (.fence sc) := of_fields rfl fun hc => decode_ok rfl rfl (by
  simp [decodeBody, decodeRowA])
theorem RoundTrip.bhintPf (d : Reg) (a : Reg) (imm : BitVec 16) : RoundTrip.Statement (.bhintPf d a imm) := of_fields rfl fun hc => decode_ok rfl rfl (by
  simp [decodeBody, decodeRowA])
theorem RoundTrip.bhintPfT4 (d : Reg) (a : Reg) (imm : BitVec 48) : RoundTrip.Statement (.bhintPfT4 d a imm) := of_fields rfl fun hc => decode_ok rfl rfl (by
  simp [decodeBody, decodeRowA])
theorem RoundTrip.bhintPin (d : Reg) (a : Reg) (imm : BitVec 16) : RoundTrip.Statement (.bhintPin d a imm) := of_fields rfl fun hc => decode_ok rfl rfl (by
  simp [decodeBody, decodeRowA])
theorem RoundTrip.bhintPinT4 (d : Reg) (a : Reg) (imm : BitVec 48) : RoundTrip.Statement (.bhintPinT4 d a imm) := of_fields rfl fun hc => decode_ok rfl rfl (by
  simp [decodeBody, decodeRowA])
theorem RoundTrip.bhintUnpin (d : Reg) (a : Reg) (imm : BitVec 16) : RoundTrip.Statement (.bhintUnpin d a imm) := of_fields rfl fun hc => decode_ok rfl rfl (by
  simp [decodeBody, decodeRowA])
theorem RoundTrip.bhintUnpinT4 (d : Reg) (a : Reg) (imm : BitVec 48) : RoundTrip.Statement (.bhintUnpinT4 d a imm) := of_fields rfl fun hc => decode_ok rfl rfl (by
  simp [decodeBody, decodeRowA])
theorem RoundTrip.bhintEv (d : Reg) (a : Reg) (imm : BitVec 16) : RoundTrip.Statement (.bhintEv d a imm) := of_fields rfl fun hc => decode_ok rfl rfl (by
  simp [decodeBody, decodeRowA])
theorem RoundTrip.bhintEvT4 (d : Reg) (a : Reg) (imm : BitVec 48) : RoundTrip.Statement (.bhintEvT4 d a imm) := of_fields rfl fun hc => decode_ok rfl rfl (by
  simp [decodeBody, decodeRowA])
theorem RoundTrip.spawn (p : SpawnPri) (d : Reg) (a : Reg) (b : Reg) : RoundTrip.Statement (.spawn p d a b) := of_fields rfl fun hc => decode_ok rfl rfl (by
  simp [decodeBody, decodeRowB])
theorem RoundTrip.spawnLabel (p : SpawnPri) (d : Reg) (a : Reg) (target : BrImm) : RoundTrip.Statement (.spawnLabel p d a target) := of_fields rfl fun hc => decode_ok rfl rfl (by
  simp [decodeBody, decodeRowB])
theorem RoundTrip.launch (d : Reg) (a : Reg) : RoundTrip.Statement (.launch d a) := of_fields rfl fun hc => decode_ok rfl rfl (by
  simp [decodeBody, decodeRowB])
theorem RoundTrip.migrate (d : Reg) (a : Reg) : RoundTrip.Statement (.migrate d a) := of_fields rfl fun hc => decode_ok rfl rfl (by
  simp [decodeBody, decodeRowB])
theorem RoundTrip.migrateNear (d : Reg) (a : Reg) : RoundTrip.Statement (.migrateNear d a) := of_fields rfl fun hc => decode_ok rfl rfl (by
  simp [decodeBody, decodeRowB])
theorem RoundTrip.send (ch : BitVec 2) (d : Reg) (a : Reg) (b : Reg) : RoundTrip.Statement (.send ch d a b) := of_fields rfl fun hc => decode_ok rfl rfl (by
  have hch : ∀ c : BitVec 2, (0#2 ++ c).toNat < 4 ∧ (0#2 ++ c).extractLsb' 0 2 = c := by decide
  simp [decodeBody, decodeRowB, (hch ch).1, (hch ch).2, needWf_of hc])
theorem RoundTrip.sendLoopback (ch : BitVec 2) (d : Reg) (a : Reg) (b : Reg) : RoundTrip.Statement (.sendLoopback ch d a b) := of_not rfl
theorem RoundTrip.sendEndOverflow (ch : BitVec 2) (d : Reg) (a : Reg) (b : Reg) : RoundTrip.Statement (.sendEndOverflow ch d a b) := of_not rfl
theorem RoundTrip.recv (d : Reg) (a : Reg) : RoundTrip.Statement (.recv d a) := of_fields rfl fun hc => decode_ok rfl rfl (by
  simp [decodeBody, decodeRowB, needWf_of hc])
theorem RoundTrip.recvArrival (d : Reg) (a : Reg) : RoundTrip.Statement (.recvArrival d a) := of_not rfl
theorem RoundTrip.bar (sc : Scope) (d : Reg) (a : Reg) : RoundTrip.Statement (.bar sc d a) := of_fields rfl fun hc => decode_ok rfl rfl (by
  simp [decodeBody, decodeRowB, needWf_of hc])
theorem RoundTrip.bara (sc : Scope) (d : Reg) (a : Reg) (b : Reg) : RoundTrip.Statement (.bara sc d a b) := of_fields rfl fun hc => decode_ok rfl rfl (by
  simp [decodeBody, decodeRowB, needWf_of hc])
theorem RoundTrip.trigarm (d : Reg) (a : Reg) (b : Reg) : RoundTrip.Statement (.trigarm d a b) := of_fields rfl fun hc => decode_ok rfl rfl (by
  simp [decodeBody, decodeRowB])
theorem RoundTrip.sendx (ch : BitVec 2) (d : Reg) (a : Reg) (b : Reg) : RoundTrip.Statement (.sendx ch d a b) := of_fields rfl fun hc => decode_ok rfl rfl (by
  have hch : ∀ c : BitVec 2, (0#2 ++ c).toNat < 4 ∧ (0#2 ++ c).extractLsb' 0 2 = c := by decide
  simp [decodeBody, decodeRowB, (hch ch).1, (hch ch).2, needWf_of hc])
theorem RoundTrip.tqpush (d : Reg) (a : Reg) (b : Reg) : RoundTrip.Statement (.tqpush d a b) := of_fields rfl fun hc => decode_ok rfl rfl (by
  simp [decodeBody, decodeRowC])
theorem RoundTrip.tqstat (d : Reg) (a : Reg) : RoundTrip.Statement (.tqstat d a) := of_fields rfl fun hc => decode_ok rfl rfl (by
  simp [decodeBody, decodeRowC])
theorem RoundTrip.tkill (d : Reg) (a : Reg) : RoundTrip.Statement (.tkill d a) := of_fields rfl fun hc => decode_ok rfl rfl (by
  simp [decodeBody, decodeRowC])
theorem RoundTrip.tcont (d : Reg) (a : Reg) (b : Reg) : RoundTrip.Statement (.tcont d a b) := of_fields rfl fun hc => decode_ok rfl rfl (by
  simp [decodeBody, decodeRowC])
theorem RoundTrip.accal (d : Reg) (a : Reg) : RoundTrip.Statement (.accal d a) := of_fields rfl fun hc => decode_ok rfl rfl (by
  simp [decodeBody, decodeRowC])
theorem RoundTrip.accfr (d : Reg) (a : Reg) : RoundTrip.Statement (.accfr d a) := of_fields rfl fun hc => decode_ok rfl rfl (by
  simp [decodeBody, decodeRowC])
theorem RoundTrip.accld (d : VReg) (a : Reg) (b : Reg) (imm : BitVec 16) : RoundTrip.Statement (.accld d a b imm) := of_fields rfl fun hc => decode_ok rfl rfl (by
  simp [decodeBody, decodeRowC])
theorem RoundTrip.accst (d : Reg) (a : Reg) (b : VReg) (imm : BitVec 16) : RoundTrip.Statement (.accst d a b imm) := of_fields rfl fun hc => decode_ok rfl rfl (by
  simp [decodeBody, decodeRowC])
theorem RoundTrip.accz (a : Reg) (b : Reg) : RoundTrip.Statement (.accz a b) := of_fields rfl fun hc => decode_ok rfl rfl (by
  simp [decodeBody, decodeRowC])
theorem RoundTrip.ssmrun (d : Reg) (a : Reg) (b : Reg) : RoundTrip.Statement (.ssmrun d a b) := of_fields rfl fun hc => decode_ok rfl rfl (by
  simp [decodeBody, decodeRowC])
theorem RoundTrip.ssmstat (d : Reg) (a : Reg) : RoundTrip.Statement (.ssmstat d a) := of_fields rfl fun hc => decode_ok rfl rfl (by
  simp [decodeBody, decodeRowC])
theorem RoundTrip.tseq (d : Reg) (a : Reg) : RoundTrip.Statement (.tseq d a) := of_fields rfl fun hc => decode_ok rfl rfl (by
  simp [decodeBody, decodeRowC])
theorem RoundTrip.jinit (d : Reg) (a : Reg) (b : Reg) : RoundTrip.Statement (.jinit d a b) := of_fields rfl fun hc => decode_ok rfl rfl (by
  simp [decodeBody, decodeRowD])
theorem RoundTrip.jarrive (d : Reg) : RoundTrip.Statement (.jarrive d) := of_fields rfl fun hc => decode_ok rfl rfl (by
  simp [decodeBody, decodeRowD])
theorem RoundTrip.jcontrib (d : Reg) (a : Reg) (b : Reg) : RoundTrip.Statement (.jcontrib d a b) := of_fields rfl fun hc => decode_ok rfl rfl (by
  simp [decodeBody, decodeRowD])
theorem RoundTrip.jwait (d : Reg) (a : Reg) : RoundTrip.Statement (.jwait d a) := of_fields rfl fun hc => decode_ok rfl rfl (by
  simp [decodeBody, decodeRowD])
theorem RoundTrip.jqrySt (d : Reg) (a : Reg) : RoundTrip.Statement (.jqrySt d a) := of_fields rfl fun hc => decode_ok rfl rfl (by
  simp [decodeBody, decodeRowD])
theorem RoundTrip.jqryWt (d : Reg) (a : Reg) : RoundTrip.Statement (.jqryWt d a) := of_fields rfl fun hc => decode_ok rfl rfl (by
  simp [decodeBody, decodeRowD])
theorem RoundTrip.jkill (d : Reg) (a : Reg) (b : Reg) : RoundTrip.Statement (.jkill d a b) := of_fields rfl fun hc => decode_ok rfl rfl (by
  simp [decodeBody, decodeRowD])
theorem RoundTrip.jroster (d : Reg) (a : Reg) (b : Reg) : RoundTrip.Statement (.jroster d a b) := of_fields rfl fun hc => decode_ok rfl rfl (by
  simp [decodeBody, decodeRowD])
theorem RoundTrip.jreplay (d : Reg) (a : Reg) (b : Reg) : RoundTrip.Statement (.jreplay d a b) := of_fields rfl fun hc => decode_ok rfl rfl (by
  simp [decodeBody, decodeRowD])
theorem RoundTrip.jclose (d : Reg) (a : Reg) : RoundTrip.Statement (.jclose d a) := of_fields rfl fun hc => decode_ok rfl rfl (by
  simp [decodeBody, decodeRowD])
theorem RoundTrip.jbind (d : Reg) (a : Reg) (b : Reg) : RoundTrip.Statement (.jbind d a b) := of_fields rfl fun hc => decode_ok rfl rfl (by
  simp [decodeBody, decodeRowD])
theorem RoundTrip.jrel (d : Reg) (a : Reg) : RoundTrip.Statement (.jrel d a) := of_fields rfl fun hc => decode_ok rfl rfl (by
  simp [decodeBody, decodeRowD])
theorem RoundTrip.copy (mb : BitVec 2) (d : Reg) : RoundTrip.Statement (.copy mb d) := of_fields rfl fun hc => decode_ok rfl rfl (by
  simp [decodeBody, decodeRowE]
  clear hc
  revert mb
  decide)
theorem RoundTrip.copys (mb : BitVec 2) (d : Reg) : RoundTrip.Statement (.copys mb d) := of_fields rfl fun hc => decode_ok rfl rfl (by
  simp [decodeBody, decodeRowE]
  clear hc
  revert mb
  decide)
theorem RoundTrip.deal (mb : BitVec 2) (d : Reg) : RoundTrip.Statement (.deal mb d) := of_fields rfl fun hc => decode_ok rfl rfl (by
  simp [decodeBody, decodeRowE]
  clear hc
  revert mb
  decide)
theorem RoundTrip.enck (mb : BitVec 2) (d : Reg) : RoundTrip.Statement (.enck mb d) := of_fields rfl fun hc => decode_ok rfl rfl (by
  simp [decodeBody, decodeRowE]
  clear hc
  revert mb
  decide)
theorem RoundTrip.deck (mb : BitVec 2) (d : Reg) : RoundTrip.Statement (.deck mb d) := of_fields rfl fun hc => decode_ok rfl rfl (by
  simp [decodeBody, decodeRowE]
  clear hc
  revert mb
  decide)
theorem RoundTrip.redc (mb : BitVec 2) (d : Reg) : RoundTrip.Statement (.redc mb d) := of_fields rfl fun hc => decode_ok rfl rfl (by
  simp [decodeBody, decodeRowE]
  clear hc
  revert mb
  decide)
theorem RoundTrip.bcast (mb : BitVec 2) (d : Reg) : RoundTrip.Statement (.bcast mb d) := of_fields rfl fun hc => decode_ok rfl rfl (by
  simp [decodeBody, decodeRowE]
  clear hc
  revert mb
  decide)
theorem RoundTrip.lease (d : Reg) (a : Reg) : RoundTrip.Statement (.lease d a) := of_fields rfl fun hc => decode_ok rfl rfl (by
  simp [decodeBody, decodeRowE])
theorem RoundTrip.unlease (d : Reg) (a : Reg) : RoundTrip.Statement (.unlease d a) := of_fields rfl fun hc => decode_ok rfl rfl (by
  simp [decodeBody, decodeRowE])
theorem RoundTrip.mbxst (mb : BitVec 2) (d : Reg) (a : Reg) (w : BitVec 4) : RoundTrip.Statement (.mbxst mb d a w) := of_fields rfl fun hc => decode_ok rfl rfl (by
  simp [decodeBody, decodeRowE]
  clear hc
  revert mb
  decide)
theorem RoundTrip.trigset (d : Reg) (a : Reg) (b : Reg) : RoundTrip.Statement (.trigset d a b) := of_fields rfl fun hc => decode_ok rfl rfl (by
  simp [decodeBody, decodeRowE])
theorem RoundTrip.trigrd (d : Reg) (a : Reg) : RoundTrip.Statement (.trigrd d a) := of_fields rfl fun hc => decode_ok rfl rfl (by
  simp [decodeBody, decodeRowE])
theorem RoundTrip.trap (m : BitVec 4) : RoundTrip.Statement (.trap m) := of_fields rfl fun hc => decode_ok rfl rfl (by
  simp [decodeBody, decodeRowF])
theorem RoundTrip.svc (n : BitVec 16) : RoundTrip.Statement (.svc n) := of_fields rfl fun hc => decode_ok rfl rfl (by
  have h := canonical_wf hc
  simp only [Instr.wf, Bool.or_eq_true, decide_eq_true_eq] at h
  simp only [decodeBody, decodeRowF, decodeSvc]
  simp
  split <;> first | rfl | omega)
theorem RoundTrip.tlbiG (a : Reg) (b : Reg) : RoundTrip.Statement (.tlbiG a b) := of_fields rfl fun hc => decode_ok rfl rfl (by
  simp [decodeBody, decodeRowF])
theorem RoundTrip.tlbiH (a : Reg) : RoundTrip.Statement (.tlbiH a) := of_fields rfl fun hc => decode_ok rfl rfl (by
  simp [decodeBody, decodeRowF])
theorem RoundTrip.tlbiAsid (b : Reg) : RoundTrip.Statement (.tlbiAsid b) := of_fields rfl fun hc => decode_ok rfl rfl (by
  simp [decodeBody, decodeRowF])
theorem RoundTrip.fqpop (d : Reg) (a : Reg) (b : Reg) : RoundTrip.Statement (.fqpop d a b) := of_fields rfl fun hc => decode_ok rfl rfl (by
  simp [decodeBody, decodeRowF, needWf_of hc])
theorem RoundTrip.fqrepReplay (d : Reg) (a : Reg) (b : Reg) : RoundTrip.Statement (.fqrepReplay d a b) := of_fields rfl fun hc => decode_ok rfl rfl (by
  simp [Instr.canonical] at hc
  simp [decodeBody, decodeRowF, hc])
theorem RoundTrip.fqrepGiveup (d : Reg) (a : Reg) (b : Reg) : RoundTrip.Statement (.fqrepGiveup d a b) := of_fields rfl fun hc => decode_ok rfl rfl (by
  simp [Instr.canonical] at hc
  simp [decodeBody, decodeRowF, hc])
theorem RoundTrip.pgmap (d : Reg) (a : Reg) : RoundTrip.Statement (.pgmap d a) := of_fields rfl fun hc => decode_ok rfl rfl (by
  simp [decodeBody, decodeRowF])
theorem RoundTrip.slice (d : Reg) (a : Reg) (b : Reg) : RoundTrip.Statement (.slice d a b) := of_fields rfl fun hc => decode_ok rfl rfl (by
  simp [decodeBody, decodeRowF])
theorem RoundTrip.prtnQry (d : Reg) (a : Reg) : RoundTrip.Statement (.prtnQry d a) := of_fields rfl fun hc => decode_ok rfl rfl (by
  simp [decodeBody, decodeRowF])
theorem RoundTrip.prtnSplit (d : Reg) (a : Reg) : RoundTrip.Statement (.prtnSplit d a) := of_fields rfl fun hc => decode_ok rfl rfl (by
  simp [decodeBody, decodeRowF])
theorem RoundTrip.prtnMerge (d : Reg) (a : Reg) : RoundTrip.Statement (.prtnMerge d a) := of_fields rfl fun hc => decode_ok rfl rfl (by
  simp [decodeBody, decodeRowF])
theorem RoundTrip.reservedOpcode (op : BitVec 8) (m : BitVec 4) (tl : BitVec 2) (t : BitVec 64) : RoundTrip.Statement (.reservedOpcode op m tl t) := of_fields rfl fun hc => by
  have h : opReserved op = true := by
    simp only [Instr.canonical, Instr.wf, Bool.and_eq_true] at hc
    exact hc.1.1
  simp only [decodeFields, h, if_true]
theorem RoundTrip.illT1 : RoundTrip.Statement .illT1 := of_fields rfl fun hc => decode_ok rfl rfl (by
  simp [decodeBody, decodeRow0])
theorem RoundTrip.illT2 : RoundTrip.Statement .illT2 := of_fields rfl fun hc => decode_ok rfl rfl (by
  simp [decodeBody, decodeRow0])
theorem RoundTrip.illT4 : RoundTrip.Statement .illT4 := of_fields rfl fun hc => decode_ok rfl rfl (by
  simp [decodeBody, decodeRow0])
theorem RoundTrip.nop : RoundTrip.Statement .nop := of_fields rfl fun hc => decode_ok rfl rfl (by
  simp [decodeBody, decodeRow0])
theorem RoundTrip.nopT1 : RoundTrip.Statement .nopT1 := of_fields rfl fun hc => decode_ok rfl rfl (by
  simp [decodeBody, decodeRow0])
theorem RoundTrip.nopT2 : RoundTrip.Statement .nopT2 := of_fields rfl fun hc => decode_ok rfl rfl (by
  simp [decodeBody, decodeRow0])
theorem RoundTrip.nopT4 : RoundTrip.Statement .nopT4 := of_fields rfl fun hc => decode_ok rfl rfl (by
  simp [decodeBody, decodeRow0])
theorem RoundTrip.ret : RoundTrip.Statement .ret := of_fields rfl fun hc => decode_ok rfl rfl (by
  simp [decodeBody, decodeRow0])
theorem RoundTrip.save : RoundTrip.Statement .save := of_fields rfl fun hc => decode_ok rfl rfl (by
  simp [decodeBody, decodeRow0])
theorem RoundTrip.restore : RoundTrip.Statement .restore := of_fields rfl fun hc => decode_ok rfl rfl (by
  simp [decodeBody, decodeRow0])
theorem RoundTrip.kpt : RoundTrip.Statement .kpt := of_fields rfl fun hc => decode_ok rfl rfl (by
  simp [decodeBody, decodeRow0])
theorem RoundTrip.rlx : RoundTrip.Statement .rlx := of_fields rfl fun hc => decode_ok rfl rfl (by
  simp [decodeBody, decodeRow7])
theorem RoundTrip.vdrop : RoundTrip.Statement .vdrop := of_fields rfl fun hc => decode_ok rfl rfl (by
  simp [decodeBody, decodeRow7])
theorem RoundTrip.waita : RoundTrip.Statement .waita := of_fields rfl fun hc => decode_ok rfl rfl (by
  simp [decodeBody, decodeRowA])
theorem RoundTrip.quit : RoundTrip.Statement .quit := of_fields rfl fun hc => decode_ok rfl rfl (by
  simp [decodeBody, decodeRowB])
theorem RoundTrip.yield : RoundTrip.Statement .yield := of_fields rfl fun hc => decode_ok rfl rfl (by
  simp [decodeBody, decodeRowB])
theorem RoundTrip.waitm : RoundTrip.Statement .waitm := of_fields rfl fun hc => decode_ok rfl rfl (by
  simp [decodeBody, decodeRowB])
theorem RoundTrip.kmaskOff : RoundTrip.Statement .kmaskOff := of_fields rfl fun hc => decode_ok rfl rfl (by
  simp [decodeBody, decodeRowD])
theorem RoundTrip.kmaskOn : RoundTrip.Statement .kmaskOn := of_fields rfl fun hc => decode_ok rfl rfl (by
  simp [decodeBody, decodeRowD])
theorem RoundTrip.tret : RoundTrip.Statement .tret := of_fields rfl fun hc => decode_ok rfl rfl (by
  simp [decodeBody, decodeRowF])
theorem RoundTrip.lend : RoundTrip.Statement .lend := of_fields rfl fun _ => by decide
theorem RoundTrip.smove : RoundTrip.Statement .smove := of_fields rfl fun _ => by decide
theorem RoundTrip.sreg : RoundTrip.Statement .sreg := of_fields rfl fun _ => by decide
theorem RoundTrip.sret : RoundTrip.Statement .sret := of_fields rfl fun _ => by decide
theorem RoundTrip.pspill : RoundTrip.Statement .pspill := of_fields rfl fun _ => by decide
theorem RoundTrip.sstep : RoundTrip.Statement .sstep := of_fields rfl fun _ => by decide
theorem RoundTrip.flog : RoundTrip.Statement .flog := of_fields rfl fun _ => by decide
theorem RoundTrip.gstop : RoundTrip.Statement .gstop := of_fields rfl fun hc => decode_ok rfl rfl (by
  simp [decodeBody, decodeRowF])
theorem RoundTrip.gres : RoundTrip.Statement .gres := of_fields rfl fun hc => decode_ok rfl rfl (by
  simp [decodeBody, decodeRowF])
theorem RoundTrip.tlbiAll : RoundTrip.Statement .tlbiAll := of_fields rfl fun hc => decode_ok rfl rfl (by
  simp [decodeBody, decodeRowF])
theorem RoundTrip.wfe : RoundTrip.Statement .wfe := of_fields rfl fun hc => decode_ok rfl rfl (by
  simp [decodeBody, decodeRowF])
theorem RoundTrip.queuePortLaunch : RoundTrip.Statement .queuePortLaunch := of_not rfl
theorem RoundTrip.queuePortOtherKind : RoundTrip.Statement .queuePortOtherKind := of_not rfl
theorem RoundTrip.launchStrandCreate : RoundTrip.Statement .launchStrandCreate := of_not rfl
theorem RoundTrip.strandArrival : RoundTrip.Statement .strandArrival := of_not rfl
theorem RoundTrip.wordRequestAnswer : RoundTrip.Statement .wordRequestAnswer := of_not rfl
theorem RoundTrip.postedWriteDrain : RoundTrip.Statement .postedWriteDrain := of_not rfl
theorem RoundTrip.spillSector : RoundTrip.Statement .spillSector := of_not rfl
theorem RoundTrip.slotPatienceExpiry : RoundTrip.Statement .slotPatienceExpiry := of_not rfl
theorem RoundTrip.wordWaiterRetry : RoundTrip.Statement .wordWaiterRetry := of_not rfl
theorem RoundTrip.fetchStart : RoundTrip.Statement .fetchStart := of_not rfl
theorem RoundTrip.fetchDone : RoundTrip.Statement .fetchDone := of_not rfl
theorem RoundTrip.fetchFault : RoundTrip.Statement .fetchFault := of_not rfl
theorem RoundTrip.writeBackDone : RoundTrip.Statement .writeBackDone := of_not rfl
theorem RoundTrip.launchSweep : RoundTrip.Statement .launchSweep := of_not rfl
theorem RoundTrip.messageArrival : RoundTrip.Statement .messageArrival := of_not rfl
theorem RoundTrip.arrivalQueueAdmit : RoundTrip.Statement .arrivalQueueAdmit := of_not rfl
theorem RoundTrip.movementDispatch : RoundTrip.Statement .movementDispatch := of_not rfl
theorem RoundTrip.movementSegmentEnd : RoundTrip.Statement .movementSegmentEnd := of_not rfl
theorem RoundTrip.movementComplete : RoundTrip.Statement .movementComplete := of_not rfl
theorem RoundTrip.movementFault : RoundTrip.Statement .movementFault := of_not rfl
theorem RoundTrip.leasePeriodEnd : RoundTrip.Statement .leasePeriodEnd := of_not rfl
theorem RoundTrip.triggeredEnqueue : RoundTrip.Statement .triggeredEnqueue := of_not rfl
theorem RoundTrip.taskKblockEnd : RoundTrip.Statement .taskKblockEnd := of_not rfl
theorem RoundTrip.taskFault : RoundTrip.Statement .taskFault := of_not rfl
theorem RoundTrip.taskComplete : RoundTrip.Statement .taskComplete := of_not rfl
theorem RoundTrip.engineFailure : RoundTrip.Statement .engineFailure := of_not rfl
theorem RoundTrip.ssmUnitEnd : RoundTrip.Statement .ssmUnitEnd := of_not rfl
theorem RoundTrip.ssmUnitFault : RoundTrip.Statement .ssmUnitFault := of_not rfl
theorem RoundTrip.joinDeferredArrival : RoundTrip.Statement .joinDeferredArrival := of_not rfl
theorem RoundTrip.joinFoldDone : RoundTrip.Statement .joinFoldDone := of_not rfl
theorem RoundTrip.joinFoldFault : RoundTrip.Statement .joinFoldFault := of_not rfl
theorem RoundTrip.faultPostRetry : RoundTrip.Statement .faultPostRetry := of_not rfl
theorem RoundTrip.sliceExpiry : RoundTrip.Statement .sliceExpiry := of_not rfl
theorem RoundTrip.sliceOverrun : RoundTrip.Statement .sliceOverrun := of_not rfl
theorem RoundTrip.ldxTimeout : RoundTrip.Statement .ldxTimeout := of_not rfl
theorem RoundTrip.rtaArm : RoundTrip.Statement .rtaArm := of_not rfl
theorem RoundTrip.rtaActRead : RoundTrip.Statement .rtaActRead := of_not rfl
theorem RoundTrip.rtaArmExpiry : RoundTrip.Statement .rtaArmExpiry := of_not rfl
theorem RoundTrip.writeBackScan : RoundTrip.Statement .writeBackScan := of_not rfl
theorem RoundTrip.flashWriteComplete : RoundTrip.Statement .flashWriteComplete := of_not rfl
theorem RoundTrip.hostAccess : RoundTrip.Statement .hostAccess := of_not rfl
theorem RoundTrip.linkPortFailure : RoundTrip.Statement .linkPortFailure := of_not rfl
theorem RoundTrip.dieReset : RoundTrip.Statement .dieReset := of_not rfl
theorem RoundTrip.dieReturn : RoundTrip.Statement .dieReturn := of_not rfl
theorem RoundTrip.hbmStackLoss : RoundTrip.Statement .hbmStackLoss := of_not rfl
theorem RoundTrip.rowRemapFailure : RoundTrip.Statement .rowRemapFailure := of_not rfl
theorem RoundTrip.scrubPass : RoundTrip.Statement .scrubPass := of_not rfl
theorem RoundTrip.clockStretch : RoundTrip.Statement .clockStretch := of_not rfl
theorem RoundTrip.vfReplan : RoundTrip.Statement .vfReplan := of_not rfl
theorem RoundTrip.imageVerify : RoundTrip.Statement .imageVerify := of_not rfl
theorem RoundTrip.moduleMemoryInit : RoundTrip.Statement .moduleMemoryInit := of_not rfl
theorem RoundTrip.crst : RoundTrip.Statement .crst := of_not rfl
theorem RoundTrip.msrWrite : RoundTrip.Statement .msrWrite := of_not rfl
theorem RoundTrip.ahashWrite : RoundTrip.Statement .ahashWrite := of_not rfl
theorem RoundTrip.pewcfgWrite : RoundTrip.Statement .pewcfgWrite := of_not rfl
theorem RoundTrip.stackCounterClear : RoundTrip.Statement .stackCounterClear := of_not rfl
theorem RoundTrip.partitionRecordCommit : RoundTrip.Statement .partitionRecordCommit := of_not rfl
theorem RoundTrip.partitionDissolve : RoundTrip.Statement .partitionDissolve := of_not rfl
theorem RoundTrip.serviceSpaceWrite : RoundTrip.Statement .serviceSpaceWrite := of_not rfl
theorem RoundTrip.hmapStore : RoundTrip.Statement .hmapStore := of_not rfl
theorem RoundTrip.pinqStore : RoundTrip.Statement .pinqStore := of_not rfl
theorem RoundTrip.controlRegionWrite : RoundTrip.Statement .controlRegionWrite := of_not rfl
theorem RoundTrip.movementEngineFailure : RoundTrip.Statement .movementEngineFailure := of_not rfl
theorem RoundTrip.remoteAccessArrival : RoundTrip.Statement .remoteAccessArrival := of_not rfl
theorem RoundTrip.remoteBarrierArrival : RoundTrip.Statement .remoteBarrierArrival := of_not rfl
theorem RoundTrip.storagePortAccess : RoundTrip.Statement .storagePortAccess := of_not rfl
theorem RoundTrip.backgroundClearing : RoundTrip.Statement .backgroundClearing := of_not rfl
theorem RoundTrip.virtualFunctionReset : RoundTrip.Statement .virtualFunctionReset := of_not rfl
theorem RoundTrip.moduleReset : RoundTrip.Statement .moduleReset := of_not rfl
theorem RoundTrip.podFormation : RoundTrip.Statement .podFormation := of_not rfl
theorem RoundTrip.queuePortAssignment : RoundTrip.Statement .queuePortAssignment := of_not rfl

end Sys2Proof.Laws
end

