-- ==== Sys2Proof/Tests/Slice0.lean ====
section
/-! SUPPORT. Tests on words and examples of the manual, and a witness for the hypotheses of each statement. -/

set_option Elab.async false

namespace Sys2Proof.Tests

open Sys2Proof Sys2Proof.Machine

/-! ### Well-formed instructions -/

/-- For each check, a term that it refuses beside one at its bound that it accepts (R82, R86, R128, R143, R149, R171, R223, R296, R403, R60). -/
theorem test_wf_refuses :
    ([.loop 0#5 1#16, .bfx false 1#5 2#5 0#6 0#7, .bfx true 1#5 2#5 63#6 2#7, .bfx false 1#5 2#5 1#6 64#7, .movs 1#5 15#6, .movs 1#5 24#6,
      .movs 1#5 4#6, .movs 1#5 5#6, .movt 15#6 1#5, .movt 24#6 1#5, .movt 0#6 1#5, .movt 4#6 1#5, .movt 5#6 1#5, .ext .d 1#5 2#5,
      .vextrImm true 1#5 2#3 8#4, .ldm 1#3 31#5 2#5 0#16, .ldmT4 7#3 25#5 2#5 0#48, .stm 1#3 2#5 31#5 0#16, .stmT4 7#3 2#5 25#5 0#48,
      .recv 29#5 1#5, .recvArrival 29#5 1#5, .bar .str 1#5 2#5, .bar .core 1#5 2#5, .bar .sys 1#5 2#5, .bara .str 1#5 2#5 3#5,
      .bara .core 1#5 2#5 3#5, .bara .sys 1#5 2#5 3#5, .svc 0x8000#16, .svc 0x8003#16, .svc 0x8006#16, .fqpop 29#5 1#5 2#5,
      .reservedOpcode 0x1B#8 0#4 0#2 0#64, .reservedOpcode 0x1C#8 0#4 1#2 0x10000#64] : List Instr).all (fun i => !i.wf) = true ∧
    ([.loop 1#5 1#16, .bfx false 1#5 2#5 0#6 1#7, .bfx true 1#5 2#5 63#6 1#7, .bfx false 1#5 2#5 0#6 64#7, .movs 1#5 14#6, .movs 1#5 16#6,
      .movs 1#5 23#6, .movt 14#6 1#5, .movt 23#6 1#5, .ext .bs 1#5 2#5, .vextrImm true 1#5 2#3 7#4, .vextrImm false 1#5 2#3 15#4,
      .ldm 1#3 30#5 2#5 0#16, .ldmT4 7#3 24#5 2#5 0#48, .stm 1#3 2#5 30#5 0#16, .stmT4 7#3 2#5 24#5 0#48, .recv 28#5 1#5,
      .recvArrival 28#5 1#5, .bar .quad 1#5 2#5, .bar .join 1#5 2#5, .bara .quad 1#5 2#5 3#5, .bara .join 1#5 2#5 3#5, .svc 0x7FFF#16,
      .svc 0x8007#16, .fqpop 28#5 1#5 2#5, .reservedOpcode 0x1C#8 0#4 1#2 0xFFFF#64] : List Instr).all Instr.wf = true := by decide

/-! ### Words of the manual -/

/-- Row 0, bit by bit: `brc.lt o0, g0, back` and `loop`, `save`, `ret`, `ill #5`, `nop.t1`, `jmp`, `call` (R49, R51, R53). -/
theorem test_decode_control :
    decodeInstr 0b0000001110000010#16 0b11111111110000110000000100000000#64 = .ok (.brc .lt 8#5 0#5 0b1111111111000011#16) ∧
    decodeInstr 0b0000101010000000#16 0b00000000000000010000000000010010#64 = .ok (.loop 18#5 1#16) ∧
    decodeInstr 0b0000100000000000#16 0#64 = .ok .save ∧ decodeInstr 0b0000011100000000#16 0#64 = .ok .ret ∧
    decodeInstr 0b0000000000000101#16 0#64 = .ok (.ill 5#4) ∧ decodeInstr 0b0000000101000000#16 0#64 = .ok .nopT1 ∧
    decodeInstr 0b0000010001000000#16 0b0000000111100000#64 = .ok (.jmp 15#5) ∧
    decodeInstr 0b0000010101000000#16 0b1111111111100001#64 = .ok (.call 0xFFE1#16) := by decide

/-- Rows 1 to 3: `sub`, `mulh.us`, `addi` with a four-slot tail, and the words of the register chapter. -/
theorem test_decode_integer :
    decodeInstr 0b0001000101000000#16 0b0010100100110000#64 = .ok (.sub 16#5 9#5 10#5) ∧
    decodeInstr 0b0001010001000001#16 0b0010100100110000#64 = .ok (.mulh true 16#5 9#5 10#5) ∧
    decodeInstr 0b0001001011000000#16 0x8000000000010108#64 = .ok (.addiT4 8#5 8#5 0x800000000001#48) ∧
    decodeInstr 0b0010101110000001#16 0x030802B1#64 = .ok (.bfx true 17#5 21#5 8#6 12#7) ∧
    decodeInstr 0b0011010101000000#16 0x00D1#64 = .ok (.movs 17#5 6#6) ∧
    decodeInstr 0b0011011001000000#16 0x02A9#64 = .ok (.movt 9#6 21#5) ∧
    decodeInstr 0x3040#16 0x0178#64 = .ok (.mov 24#5 11#5) ∧ decodeInstr 0x2B80#16 0x0420015D#64 = .ok (.bfx false 29#5 10#5 32#6 16#7) ∧
    decodeInstr 0x3281#16 0x0004001D#64 = .ok (.movhi 1#2 29#5 4#16) := by decide

/-- A field that an instruction does not use, a modifier that it does not define, a tail that its opcode does not permit and a reserved
opcode (R50, R51, R60, R61). -/
theorem test_decode_refuses :
    decodeInstr 0x1040#16 0xA930#64 = .bad .operand ∧ decodeInstr 0x1041#16 0x2930#64 = .bad .operand ∧
    decodeInstr 0x1080#16 0x2930#64 = .bad .format ∧ decodeInstr 0x8681#16 0x0289#64 = .bad .operand ∧
    decodeInstr 0x5840#16 0x0C41#64 = .bad .operand ∧ decodeInstr 0x0C00#16 0#64 = .ok (.reservedOpcode 0x0C#8 0#4 0#2 0#64) := by decide

/-- Rows 4 to 7: the worked words of the encoding and format chapters. -/
theorem test_decode_lanes :
    decodeInstr 0b0100000001000101#16 0x5634#64 = .ok (.fadd .rtz .d 20#5 17#5 21#5) ∧
    decodeInstr 0b0110000001001110#16 0x0C41#64 = .ok (.vfadd ⟨true, some 2#2⟩ 1#3 2#3 3#3) ∧
    decodeInstr 0b0101000001000100#16 0x0C41#64 = .ok (.vadd ⟨true, none⟩ 1#3 2#3 3#3) ∧
    decodeInstr 0x7242#16 0x0001#64 = .ok (.vcvt .bf16 1#3 0#3) ∧ decodeInstr 0x7343#16 0x0823#64 = .ok (.vq8 .e4m3 3#3 1#3 2#3) ∧
    decodeInstr 0x7A44#16 0x48A4#64 = .ok (.vunpk .e5m2 4#3 5#3 18#5) ∧
    decodeInstr 0x7B49#16 0x1842#64 = .ok (.vclamp ⟨false, some 1#2⟩ 2#3 2#3 6#3) := by decide

/-- Rows 8 to A: the worked words of the encoding and memory chapters. -/
theorem test_decode_memory :
    decodeInstr 0b1000000010000001#16 0x000C0311#64 = .ok (.ld .wz 17#5 24#5 12#16) ∧
    decodeInstr 0b1010000010000111#16 0x00005689#64 = .ok (.aadd .pod 9#5 20#5 21#5 0#16) ∧
    decodeInstr 0x7100#16 0#64 = .ok .rlx ∧ decodeInstr 0x8680#16 0x0289#64 = .ok (.ldfe 9#5 20#5 0#16) ∧
    decodeInstr 0x9680#16 0x26C0#64 = .ok (.stef 22#5 9#5 0#16) ∧ decodeInstr 0x9881#16 0x0280#64 = .ok (.fesetF 20#5 0#16) ∧
    decodeInstr 0x838D#16 0x0E02#64 = .ok (.ldvg ⟨true, some 1#2⟩ 2#3 16#5 3#3 0#16) ∧
    decodeInstr 0x8A83#16 0x00100330#64 = .ok (.ldm 3#3 16#5 25#5 16#16) ∧
    decodeInstr 0x9A81#16 0x00084612#64 = .ok (.stx .w 18#5 16#5 17#5 8#16) ∧
    decodeInstr 0xA784#16 0x2E6A#64 = .ok (.acas .die 10#5 19#5 11#5 0#16) := by decide

/-- Rows B to E: the worked words of the message, matrix, product and quorum chapters. -/
theorem test_decode_engines :
    decodeInstr 0b1011010101000010#16 0x4A28#64 = .ok (.send 2#2 8#5 17#5 18#5) ∧ decodeInstr 0xB640#16 0x0214#64 = .ok (.recv 20#5 16#5) ∧
    decodeInstr 0xB700#16 0#64 = .ok .waitm ∧ decodeInstr 0xE981#16 0x00090260#64 = .ok (.mbxst 1#2 0#5 19#5 9#4) ∧
    decodeInstr 0xE141#16 0x0009#64 = .ok (.copys 1#2 9#5) ∧ decodeInstr 0xBA40#16 0x460A#64 = .ok (.trigarm 10#5 16#5 17#5) ∧
    decodeInstr 0xE740#16 0x0248#64 = .ok (.lease 8#5 18#5) ∧ decodeInstr 0xC040#16 0x4A28#64 = .ok (.tqpush 8#5 17#5 18#5) ∧
    decodeInstr 0xC340#16 0x4A28#64 = .ok (.tcont 8#5 17#5 18#5) ∧ decodeInstr 0xCB40#16 0x024A#64 = .ok (.tseq 10#5 18#5) ∧
    decodeInstr 0xC440#16 0x0269#64 = .ok (.accal 9#5 19#5) ∧ decodeInstr 0xC680#16 0x00304601#64 = .ok (.accld 1#3 16#5 17#5 48#16) ∧
    decodeInstr 0xC780#16 0x00000A11#64 = .ok (.accst 17#5 16#5 2#3 0#16) ∧ decodeInstr 0xC840#16 0x4600#64 = .ok (.accz 16#5 17#5) ∧
    decodeInstr 0xE340#16 0x0008#64 = .ok (.enck 0#2 8#5) ∧ decodeInstr 0xDA40#16 0x6328#64 = .ok (.jbind 8#5 25#5 24#5) ∧
    decodeInstr 0xD441#16 0x022A#64 = .ok (.jqryWt 10#5 17#5) ∧ decodeInstr 0xD640#16 0x4E2A#64 = .ok (.jroster 10#5 17#5 19#5) := by decide

/-- Row F: the worked words of the translation chapter. -/
theorem test_decode_system :
    decodeInstr 0b1111010101000000#16 0x4600#64 = .ok (.tlbiG 16#5 17#5) ∧ decodeInstr 0xF543#16 0#64 = .ok .tlbiAll ∧
    decodeInstr 0xF640#16 0x4608#64 = .ok (.fqpop 8#5 16#5 17#5) ∧ decodeInstr 0xF740#16 0x024A#64 = .ok (.fqrepReplay 10#5 18#5 0#5) ∧
    decodeInstr 0xF840#16 0x0229#64 = .ok (.pgmap 9#5 17#5) ∧ decodeInstr 0xF280#16 0x80000000#64 = .ok .lend := by decide


/-! ### States for the tests -/

/-- Memory with the worked line at 0x100 and page tables that map the first 1 GiB to itself as direct memory, the second to itself as walked
memory and the third to the device space, in both stages (R390 to R394): a level-1 table at 0x10000 and a level-2 table at 0x11000 of the
hypervisor stage, the root of address space 0 at 0x14000, and the guest's tables from 0x15000 on. -/
def tables : Bank where
  cells :=
    [(0x100, 0x04#8), (0x102, 0x40#8), (0x103, 0x10#8), (0x104, 0x80#8), (0x105, 0x12#8), (0x106, 0x10#8), (0x107, 0x01#8), (0x108, 0x40#8),
    (0x109, 0x02#8), (0x138, 0xE1#8), (0x139, 0xFF#8), (0x13A, 0x08#8), (0x13B, 0x01#8), (0x13C, 0xFD#8), (0x13D, 0xFF#8), (0x13E, 0x30#8),
    (0x13F, 0x29#8), (0x10000, 0x01#8), (0x10001, 0x10#8), (0x10002, 0x01#8), (0x11000, 0x5F#8), (0x11008, 0x5F#8), (0x1100B, 0x40#8), (0x11010,
    0x5F#8), (0x11015, 0x02#8), (0x14001, 0x50#8), (0x14002, 0x01#8), (0x15000, 0x01#8), (0x15001, 0x60#8), (0x15002, 0x01#8), (0x16000,
    0x01#8), (0x16001, 0x70#8), (0x16002, 0x01#8), (0x17000, 0x5F#8), (0x17008, 0x7F#8), (0x1700B, 0x40#8), (0x17010, 0x5F#8), (0x17013,
    0x80#8)]

/-- A partition on those tables. -/
def home : Part := { probePart with hroot := 0x10000, groots := 0x14000, spbase := 0x300000#64, flogr := 0x20000, wbr := 0 }

/-- The supervisor context of core 0 in issue, in a line of four instructions. -/
def sup : State where
  cpu := { sts := 0x800#64, sid := 0xFFFFFF, slot := 15, part := 1, pc := 0x100000000000001#64, lineN := 4, ssp := 0x200000#64 }
  cur := .sup 0
  cores := [(0, { supMode := .running })]
  parts := [home]
  hbm := tables

/-- Strand 0 in slot 0 of core 0, at the first instruction of the worked line. -/
def user : State where
  cpu := { part := 1, pc := 0x101#64, lineN := 4, ssp := 0x200000#64 }
  cur := .strand 0
  sups := [(0, sup.cpu)]
  cores := [(0, { supMode := .running, slots := [(0, 0)] })]
  dies := [(0, { nextRec := 1 })]
  parts := [home]
  hbm := tables

/-- A state with some registers set. -/
def regs (l : List (Nat × Word)) (s : State) : State :=
  { s with cpu := { s.cpu with regs := Vector.ofFn (fun i => (lookup i.val l).getD 0#64) } }

/-- A state with a number of some bytes at an offset of core 0's local store. -/
def locals (at_ v n : Nat) (s : State) : State := { s with lstore := s.lstore.write at_ v n }

/-- A state with a number of some bytes in memory. -/
def bytes (at_ v n : Nat) (s : State) : State := { s with hbm := s.hbm.write at_ v n }

/-- The words of a record as one number, the first lowest. -/
def pack (ws : List Nat) : Nat := ws.foldr (fun w v => w % 2 ^ 64 + 2 ^ 64 * v) 0

/-- The address of the local store. -/
def near : Word := 0x100000000000000#64

theorem user_noPrefix : user.noPrefix := by unfold State.noPrefix; decide +kernel
theorem user_flows : user.flows := by unfold State.flows; decide +kernel
theorem user_keepsSlot : user.keepsSlot := by unfold State.keepsSlot; decide +kernel
theorem sup_noPrefix : sup.noPrefix := by unfold State.noPrefix; decide +kernel
theorem sup_flows : sup.flows := by unfold State.flows; decide +kernel
theorem user_barrel : isUtell user.cpu.core = false := by decide +kernel
theorem sup_barrel : isUtell sup.cpu.core = false := by decide +kernel

theorem regs_noPrefix {l : List (Nat × Word)} {s : State} (h : s.noPrefix) : (regs l s).noPrefix := by
  unfold State.noPrefix Thread.pfxf Thread.pfxr regs at *
  exact h
theorem regs_flows {l : List (Nat × Word)} {s : State} (h : s.flows) : (regs l s).flows := by
  unfold State.flows regs at *
  exact h

/-- What most statements ask of the state: no prefix pending, flow below bit 57, and a Barrel core. -/
def Ready (s : State) : Prop := s.noPrefix ∧ s.flows ∧ isUtell s.cpu.core = false

theorem user_ready (l : List (Nat × Word)) : Ready (regs l user) := ⟨regs_noPrefix user_noPrefix, regs_flows user_flows, user_barrel⟩
theorem sup_ready (l : List (Nat × Word)) : Ready (regs l sup) := ⟨regs_noPrefix sup_noPrefix, regs_flows sup_flows, sup_barrel⟩
theorem user_keeps : ∀ l ∈ ([[], [(8, 0x104#64)], [(8, 1#64)], [(8, 2#64)], [(8, 0x200000000000000#64)]] : List (List (Nat × Word))),
    (regs l user).keepsSlot := by
  unfold State.keepsSlot
  decide +kernel

/-- Four and eight facts shown together. -/
theorem four {a b c d r : Prop} (h : a ∧ b ∧ c ∧ d) (k : r) : a ∧ b ∧ c ∧ d ∧ r := ⟨h.1, h.2.1, h.2.2.1, h.2.2.2, k⟩
theorem eight {a b c d e f g h r : Prop} (x : a ∧ b ∧ c ∧ d ∧ e ∧ f ∧ g ∧ h) (k : r) : a ∧ b ∧ c ∧ d ∧ e ∧ f ∧ g ∧ h ∧ r :=
  four ⟨x.1, x.2.1, x.2.2.1, x.2.2.2.1⟩ (four x.2.2.2.2 k)

/-- A spill that goes through, and what holds after it. -/
theorem spilled_of {x : Spilled} {p : State → Bool} (h : (match x with | .ok s => p s | .stopped _ => false) = true) :
    ∃ s, x = .ok s ∧ p s = true := by
  cases x with
  | ok s => exact ⟨s, rfl, h⟩
  | stopped s => exact absurd h (by simp)

/-- A spill that stops. -/
theorem stopped_of {x : Spilled} (h : (match x with | .ok _ => false | .stopped _ => true) = true) : ∃ s, x = .stopped s := by
  cases x with
  | ok s => exact absurd h (by simp)
  | stopped s => exact ⟨s, rfl⟩

/-- A spill that stops, and what holds there. -/
theorem stops_with {x : Spilled} {p : State → Bool} (h : (match x with | .ok _ => false | .stopped s => p s) = true) :
    ∃ s, x = .stopped s ∧ p s = true := by
  cases x with
  | ok s => exact absurd h (by simp)
  | stopped s => exact ⟨s, rfl, h⟩

/-- A legal transfer target. -/
theorem target_of {s : State} {t : Word} {src : Option Found} {is : List Slotted}
    (h : field t 63 57 = 0 ∧ s.lineOf (lineAddr t) = .ok src is ∧ 1 ≤ field t 5 0 ∧ field t 5 0 ≤ is.length) : s.Target t src is :=
  ⟨h.1, h.2.1, h.2.2.1, h.2.2.2⟩

/-- A line whose fetch fails its walk. -/
def lineFails (x : Fetched) : Bool := match x with | .fail _ => true | _ => false
theorem fails_of {x : Fetched} (h : lineFails x = true) : ∃ f, x = .fail f := by
  cases x with
  | fail f => exact ⟨f, rfl⟩
  | _ => simp [lineFails] at h

/-- A pair that is there. -/
theorem pair_of {α β : Type} {x : Option (α × β)} (h : x.isSome = true) : ∃ a b, x = some (a, b) := by
  obtain ⟨⟨a, b⟩, e⟩ := Option.isSome_iff_exists.mp h
  exact ⟨a, b, e⟩

/-- A record that is read, and what holds of it. -/
theorem record_of {x : Rec} {p : State → List Word → Bool} (h : (match x with | .ok s ws => p s ws | _ => false) = true) :
    ∃ s ws, x = .ok s ws ∧ p s ws = true := by
  cases x with
  | ok s ws => exact ⟨s, ws, rfl, h⟩
  | walked => exact absurd h (by simp)
  | stopped s => exact absurd h (by simp)

theorem recordWalked_of {x : Rec} (h : (match x with | .walked => true | _ => false) = true) : x = .walked := by
  cases x with
  | walked => rfl
  | stopped s => exact absurd h (by simp)
  | ok s ws => exact absurd h (by simp)
theorem recordStops_of {x : Rec} (h : (match x with | .stopped _ => true | _ => false) = true) : ∃ s, x = .stopped s := by
  cases x with
  | stopped s => exact ⟨s, rfl⟩
  | walked => exact absurd h (by simp)
  | ok s ws => exact absurd h (by simp)

/-- Something that is there, and what holds of it. -/
theorem some_of {α : Type} {x : Option α} {p : α → Bool} (h : x.any p = true) : ∃ a, x = some a ∧ p a = true := by
  cases x with
  | none => simp at h
  | some a => exact ⟨a, rfl, by simpa using h⟩

/-- What an access, or a walk, finds. -/
theorem at_of {f : Found} {p : Loc → Bool} (h : (match f with | .at_ l _ _ => p l | _ => false) = true) :
    ∃ l va c, f = .at_ l va c ∧ p l = true := by
  cases f with
  | at_ l va c => exact ⟨l, va, c, rfl, h⟩
  | _ => exact absurd h (by simp)

theorem device_of {f : Found} (h : (match f with | .device .. => true | _ => false) = true) : ∃ pa va c ipas, f = .device pa va c ipas := by
  cases f with
  | device pa va c ipas => exact ⟨pa, va, c, ipas, rfl⟩
  | _ => exact absurd h (by simp)

theorem lost_of {f : Found} (h : (match f with | .fail .. => true | _ => false) = true) : ∃ va w, f = .fail va w := by
  cases f with
  | fail va w => exact ⟨va, w, rfl⟩
  | _ => exact absurd h (by simp)
theorem absent_of {f : Found} (h : (match f with | .absent .. => true | _ => false) = true) : ∃ k home va, f = .absent k home va := by
  cases f with
  | absent k home va => exact ⟨k, home, va, rfl⟩
  | _ => exact absurd h (by simp)

theorem walk_of {w : Walk} {p : Comp → Bool} (h : (match w with | .ok c _ => p c | _ => false) = true) : ∃ c ipas, w = .ok c ipas ∧ p c = true := by
  cases w with
  | ok c ipas => exact ⟨c, ipas, rfl, h⟩
  | _ => exact absurd h (by simp)

/-- A state that differs from another outside the context in issue is as ready. -/
theorem ready_of {s t : State} (h : t.cpu = s.cpu) (r : Ready s) : Ready t := by
  unfold Ready State.noPrefix State.flows at *
  rw [h]
  exact r

theorem regs_ready {l : List (Nat × Word)} {s t : State} (h : t.cpu = s.cpu) (r : Ready (regs l s)) : Ready (regs l t) :=
  ready_of (by unfold regs; rw [h]) r

/-- Words that are all found. -/
theorem finds_of {find : Word → Found} {vas : List Word}
    (h : (vas.map find).all (fun f => match f with | .at_ .. => true | _ => false) = true) : Finds find vas (vas.map find) := by
  refine ⟨rfl, fun f hf => ?_⟩
  have := List.all_eq_true.mp h f hf
  cases f with
  | at_ l va c => exact ⟨l, va, c, rfl⟩
  | _ => simp at this

/-- An access that stops at some element. -/
theorem stops_of {find : Word → Found} {vas : List Word} (h : (locateAll find vas).2.isSome = true) :
    ∃ fs bad, locateAll find vas = (fs, some bad) := by
  obtain ⟨bad, e⟩ := Option.isSome_iff_exists.mp h
  exact ⟨_, bad, Prod.ext rfl e⟩

/-- A store of several words of which one is poisoned and not covered. -/
theorem poisoned_of {s : State} {n : Nat} {find : Word → Found} {vas : List Word} 
    (h1 : (vas.map find).all (fun f => match f with | .at_ .. => true | _ => false) = true)
    (h2 : ((s.touched (vas.map find)).firstPoison n (vas.map find)).isSome = true)
    (h3 : (s.touched (vas.map find)).firstPoison n (vas.map find) =
      (s.touched (vas.map find)).storePoison n (vas.map find) (vas.map find)) :
    ∃ fs x, Finds find vas fs ∧ (s.touched fs).firstPoison n fs = some x ∧ (s.touched fs).storePoison n fs fs = some x := by
  obtain ⟨x, e⟩ := Option.isSome_iff_exists.mp h2
  exact ⟨_, x, finds_of h1, e, h3.symm.trans e⟩

/-- Words that are not poisoned. -/
theorem clean_of {s : State} {n : Nat} {fs : List Found}
    (h : fs.all (fun f => match f with | .at_ l _ _ => !s.anyPoison l n | _ => true) = true) : s.clean n fs := by
  intro f hf l va c e
  subst e
  simpa using List.all_eq_true.mp h _ hf

/-! ### Translations that no choice of a cached composite can change

Which of a walk and a cached composite an access uses is a free choice (R397). Where both agree, the access is the same for every choice. -/

/-- Does a walk read the same value whether or not it uses a cached table entry? -/
def pteSure (s : State) (d p asid : Nat) (hyp : Bool) (lvl addr at_ : Nat) : Bool :=
  match s.ptes.find? (fun e => e.serves d p asid hyp lvl addr) with
  | some e => e.entry == s.hbmWord at_
  | none => true

theorem pte_sure {s : State} {d p asid lvl addr at_ : Nat} {hyp : Bool} (h : pteSure s d p asid hyp lvl addr at_ = true) :
    s.pte (some (d, p, asid)) hyp lvl addr at_ = s.pte none hyp lvl addr at_ := by
  unfold pteSure at h
  unfold State.pte
  cases hf : s.ptes.find? (fun e => e.serves d p asid hyp lvl addr) with
  | none => simp only [hf]
  | some e => rw [hf] at h; simp only [hf, beq_iff_eq.mp h, ite_self]

/-- The same for a walk of the hypervisor stage. -/
def hypSure (s : State) (d p asid ipa : Nat) : Nat → Nat → Nat → Bool
  | 0, _, _ => true
  | fuel + 1, table, lvl =>
    let at_ := table + 8 * (ipa / levelSize lvl % 512)
    pteSure s d p asid true lvl ipa at_ && hypSure s d p asid ipa fuel (pteAddr (s.pte none true lvl ipa at_)) (lvl + 1)

theorem hyp_sure {s : State} {d p asid ipa : Nat} : ∀ fuel table lvl, hypSure s d p asid ipa fuel table lvl = true →
    hypWalk s (some (d, p, asid)) ipa fuel table lvl = hypWalk s none ipa fuel table lvl := by
  intro fuel
  induction fuel with
  | zero => intros; rfl
  | succ n ih =>
    intro table lvl h
    simp only [hypSure, Bool.and_eq_true] at h
    simp only [hypWalk, pte_sure h.1, ih _ _ h.2]

/-- The same for a whole walk of the hypervisor stage, from the table of a partition. -/
def stageSure (s : State) (d asid : Nat) (p : Part) (ipa : Nat) : Bool := hypSure s d p.num asid (ipa % 2 ^ 44) 4 p.hroot 1

theorem stage_sure {s : State} {d asid ipa : Nat} {p : Part} (h : stageSure s d asid p ipa = true) :
    s.hyp (some (d, p.num, asid)) p ipa = s.hyp none p ipa := hyp_sure _ _ _ h
theorem tag_sure {s : State} {d asid ipa : Nat} {p : Part} (h : stageSure s d asid p ipa = true) :
    s.hypTag (some (d, p.num, asid)) p ipa = s.hypTag none p ipa := by
  unfold State.hypTag
  rw [stage_sure h]
theorem table_sure {s : State} {d asid ipa : Nat} {p : Part} (h : stageSure s d asid p ipa = true) :
    s.tablePa (some (d, p.num, asid)) p ipa = s.tablePa none p ipa := by
  unfold State.tablePa
  rw [stage_sure h]

/-- The same for a walk of the guest stage. -/
def guestSure (s : State) (d asid : Nat) (p : Part) (va : Nat) : Nat → Nat → Nat → Bool
  | 0, _, _ => true
  | fuel + 1, table, lvl => stageSure s d asid p table && match s.tablePa none p table with
    | .ok pa _ =>
      let at_ := pa + 8 * (va / levelSize lvl % 512)
      pteSure s d p.num asid false lvl va at_ && guestSure s d asid p va fuel (pteAddr (s.pte none false lvl va at_)) (lvl + 1)
    | _ => true

theorem guest_sure {s : State} {d asid va : Nat} {p : Part} : ∀ fuel table lvl ipas, guestSure s d asid p va fuel table lvl = true →
    guestWalk s (some (d, p.num, asid)) p va fuel table lvl ipas = guestWalk s none p va fuel table lvl ipas := by
  intro fuel
  induction fuel with
  | zero => intros; rfl
  | succ n ih =>
    intro table lvl ipas h
    simp only [guestSure, Bool.and_eq_true] at h
    simp only [guestWalk, table_sure h.1, tag_sure h.1]
    cases e : s.tablePa none p table with
    | ok pa tl =>
      rw [e] at h
      simp only [Bool.and_eq_true] at h
      simp only [pte_sure h.2.1, ih _ _ _ h.2.2]
    | fail r => rfl
    | conflict => rfl

/-- The same for a whole walk that meets no group of 64 KiB in the guest stage. -/
def walkSure (s : State) (d : Nat) (p : Part) (asid va : Nat) : Bool :=
  let slot := p.groots + 8 * asid
  stageSure s d asid p slot && match s.tablePa none p slot with
    | .ok rootAt _ =>
      let root := s.pte none false 5 0 rootAt
      pteSure s d p.num asid false 5 0 rootAt && guestSure s d asid p va 5 root 0 &&
        match guestWalk s none p va 5 root 0 [s.hypTag none p slot] with
        | .ok _ g lvl _ _ => !g.testBit 10 && stageSure s d asid p (leafOut g (levelSize lvl) va)
        | _ => true
    | _ => true

theorem walk_sure {s : State} {d asid va : Nat} {p : Part} (h : walkSure s d p asid va = true) :
    s.walk (some (d, p.num, asid)) p asid va = s.walk none p asid va := by
  simp only [walkSure, Bool.and_eq_true] at h
  unfold State.walk
  rw [table_sure h.1, tag_sure h.1]
  cases e : s.tablePa none p (p.groots + 8 * asid) with
  | fail r => rfl
  | conflict => rfl
  | ok rootAt tl0 =>
    rw [e] at h
    simp only [Bool.and_eq_true] at h
    simp only [pte_sure h.2.1.1, guest_sure _ _ _ _ h.2.1.2]
    split
    · rfl
    · cases eg : guestWalk s none p va 5 (s.pte none false 5 0 rootAt) 0 [s.hypTag none p (p.groots + 8 * asid)] with
      | fail f => rfl
      | conflict => rfl
      | ok gAt g lvl tl ipas =>
        have h2 := h.2.2
        rw [eg] at h2
        simp only [Bool.and_eq_true, Bool.not_eq_true'] at h2
        simp only [h2.1, Bool.false_eq_true, if_false, stage_sure h2.2, tag_sure h2.2]

/-- An address that a spill may write: an aligned virtual address whose cached composites are what a walk finds. -/
def calm (s : State) (va : Word) : Bool :=
  (addrTrap va 8).isNone && !bitOf va 56 && match s.part? s.cpu.part with
    | some p => walkSure s s.here p s.cpu.asid va.toNat && match s.walk none p s.cpu.asid va.toNat with
      | .ok c ipas => (s.cached s.here p.num s.cpu.asid va.toNat).all (fun e => e.seen va.toNat == c && e.ipas == ipas)
      | _ => false
    | none => false

/-- What a walk finds for a spill. -/
def sureFind (s : State) (va : Word) : Found :=
  match s.part? s.cpu.part with
  | some p => match s.walk none p s.cpu.asid va.toNat with
    | .ok c ipas => match s.permit c ipas .write with
      | .ok c ipas => s.foundBy p s.cpu.asid va c ipas
      | _ => .trap 0 va
    | _ => .trap 0 va
  | none => .trap 0 va

/-- Is the word found in direct memory? -/
def direct (f : Found) : Bool := match f with | .at_ (.direct _) _ (some _) => true | _ => false

theorem agree_self (s : State) (c : Comp) : s.agree c c = true := by simp [State.agree]

theorem lookup_calm {s : State} {p : Part} {d asid va : Nat} {c : Comp} {ipas : List Nat} (hu : walkSure s d p asid va = true)
    (hw : s.walk none p asid va = .ok c ipas)
    (h : (s.cached d p.num asid va).all (fun e => e.seen va == c && e.ipas == ipas) = true) : s.lookupComp d p asid va = .ok c ipas := by
  unfold State.lookupComp
  rw [walk_sure hu, hw]
  cases hc : s.cached d p.num asid va with
  | nil => rfl
  | cons t rest =>
    rw [hc] at h
    simp only [List.all_cons, Bool.and_eq_true, beq_iff_eq, List.all_eq_true] at h
    have hr : rest.any (fun x => !s.agree (x.seen va) (t.seen va)) = false := by
      rw [List.any_eq_false]
      intro x hx
      rw [(h.2 x hx).1, h.1.1, agree_self]
      simp
    simp only
    rw [hr]
    simp only [Bool.false_eq_true, if_false, h.1.1, h.1.2, ite_self]

theorem spillFind_sure {s : State} {va : Word} (h : calm s va = true) (hd : direct (sureFind s va) = true) :
    s.spillFind va .write = sureFind s va := by
  unfold calm at h
  unfold sureFind at hd ⊢
  unfold State.spillFind State.locateVirt State.translate
  simp only [Bool.and_eq_true, Option.isNone_iff_eq_none, Bool.not_eq_true'] at h
  rw [h.1.1, h.1.2]
  cases hp : s.part? s.cpu.part with
  | none => rw [hp] at hd; simp [direct] at hd
  | some p =>
    rw [hp] at h hd
    have h2 := h.2
    simp only [Bool.and_eq_true] at h2
    cases hw : s.walk none p s.cpu.asid va.toNat with
    | ok c ipas =>
      simp only [hw] at h2 hd ⊢
      rw [lookup_calm h2.1 hw h2.2]
      cases he : s.permit c ipas .write <;> simp_all [direct]
    | fail f => simp [hw] at h2
    | conflict => simp [hw] at h2

/-- The state once a spill has written words. -/
def sureWrite (s : State) (va : Word) (ws : List Word) : State :=
  match sureFind s va with
  | .at_ (.direct pa) v (some (c, ipas)) =>
    let t := ((s.touch (.at_ (.direct pa) v (some (c, ipas)))).setDirty c).writeWords s.here (.direct pa) ws
    t.modBank (.direct pa) (8 * ws.length) (fun m a => m.eachWord (fun m a => m.setPoison a false) a ws.length)
  | _ => s

theorem spillWrite_sure {s : State} {va : Word} {ws : List Word} (h : calm s va = true) (hd : direct (sureFind s va) = true) :
    s.spillWrite va ws = .ok (sureWrite s va ws) := by
  unfold State.spillWrite sureWrite
  rw [spillFind_sure h hd]
  unfold direct at hd
  split at hd <;> simp_all

/-- Is an address one that a spill finds in direct memory whatever is chosen? -/
def steady (s : State) (va : Word) : Bool := calm s va && direct (sureFind s va)

theorem direct_cases {f : Found} (h : direct f = true) : ∃ pa v x, f = .at_ (.direct pa) v (some x) := by
  unfold direct at h
  split at h
  · exact ⟨_, _, _, rfl⟩
  · exact absurd h (by simp)

theorem firstStop_sure {s : State} : ∀ {vas : List Word}, vas.all (steady s) = true → s.firstStop .write vas = none := by
  intro vas
  induction vas with
  | nil => intro _; rfl
  | cons va rest ih =>
    intro h
    simp only [List.all_cons, Bool.and_eq_true, steady] at h
    obtain ⟨pa, v, x, e⟩ := direct_cases h.1.2
    unfold State.firstStop
    rw [spillFind_sure h.1.1 h.1.2, e]
    exact ih h.2

/-- The state once pieces of the spill stack are written, and whether each address is steady when its turn comes. -/
def surePieces (s : State) : List (Word × List Word) → State
  | [] => s
  | (va, ws) :: rest => surePieces (sureWrite s va ws) rest
def piecesOk (s : State) : List (Word × List Word) → Bool
  | [] => true
  | (va, ws) :: rest => steady s va && piecesOk (sureWrite s va ws) rest

theorem pieces_sure : ∀ {l : List (Word × List Word)} {s : State}, piecesOk s l = true → s.spillPieces l = .ok (surePieces s l) := by
  intro l
  induction l with
  | nil => intro _ _; rfl
  | cons x rest ih =>
    intro s h
    simp only [piecesOk, steady, Bool.and_eq_true] at h
    unfold State.spillPieces
    rw [spillWrite_sure h.1.1 h.1.2]
    exact ih h.2

/-- The state once a context with no older window resident is flushed. -/
def flushed (s : State) : State :=
  (surePieces (s.modCpu Thread.commit) (s.modCpu Thread.commit).cpu.lastFrames).modCpu (fun t => { t with ssp := t.ssp - 320#64, flushed := true })

/-- Is every address of the flush steady, before it and at its turn? -/
def flushOk (s : State) : Bool :=
  let s0 := s.modCpu Thread.commit
  s0.cpu.older.isEmpty && (s0.cpu.lastFrames.map (·.1)).all (steady s0) && piecesOk s0 s0.cpu.lastFrames

theorem flush_sure {s : State} (h : flushOk s = true) : s.flush = .ok (flushed s) := by
  unfold flushOk at h
  simp only [Bool.and_eq_true, List.isEmpty_iff] at h
  have hs : (s.modCpu Thread.commit).spillAllButCurrent = .ok (s.modCpu Thread.commit) := by
    unfold State.spillAllButCurrent
    rw [h.1.1]
    rfl
  unfold State.flush
  rw [hs]
  simp only
  rw [firstStop_sure h.1.2]
  simp only
  rw [pieces_sure h.2]
  rfl
/-! ### Witnesses: rows 0 to 3 -/

/-- `add`, a field of one bit at bit 63, and the two fields that trap. -/
theorem witness_integerInstructions :
    (∀ l, Ready (regs l user)) ∧ intResult (regs [(9, 7#64), (10, 8#64)] user) (.add 8#5 9#5 10#5) = some (8#5, 15#64, 0) ∧
    (intResult (regs [] user) (.bfx true 8#5 9#5 63#6 1#7)).isSome = true ∧
    ((0#7).toNat = 0 ∨ 64 < (0#6).toNat + (0#7).toNat) ∧ ((2#7).toNat = 0 ∨ 64 < (63#6).toNat + (2#7).toNat) :=
  ⟨user_ready, by decide +kernel⟩

/-- Division by zero, the one overflow, and ordinary operands of both kinds. -/
theorem witness_divisionCorners :
    (∀ l, Ready (regs l user)) ∧ (8#5 : Reg) ≠ 0#5 ∧ (regs [] user).rd 10#5 = 0#64 ∧
    (regs [(9, 0x8000000000000000#64), (10, 0xFFFFFFFFFFFFFFFF#64)] user).rd 9#5 = word (2 ^ 63) ∧
    (regs [(9, 0x8000000000000000#64), (10, 0xFFFFFFFFFFFFFFFF#64)] user).rd 10#5 = word (2 ^ 64 - 1) ∧
    (regs [(9, 7#64), (10, 3#64)] user).rd 10#5 ≠ 0#64 ∧
    ¬ ((regs [(9, 7#64), (10, 3#64)] user).rd 9#5 = word (2 ^ 63) ∧ (regs [(9, 7#64), (10, 3#64)] user).rd 10#5 = word (2 ^ 64 - 1)) :=
  ⟨user_ready, by decide +kernel⟩

/-- Numbers 0 and 14 read, 14 and 16 without SUP, the reserved 15 and 24; a register written, SLB and an LSPA with SUP, SID and SLB without; LSPA
values with LIM at its bound, past it, and with a reserved bit set. -/
theorem witness_specialRegisters :
    (∀ l, Ready (regs l user) ∧ Ready (regs l sup)) ∧ (0, user.cpu.sts) ∈ specialReads user ∧ ¬ needsSup 0 ∧ needsSup 14 ∧ needsSup 16 ∧
    needsSup 23 ∧ user.cpu.sup = false ∧ sup.cpu.sup = true ∧ (23, (sup.core 0).lspa.get 7) ∈ specialReads sup ∧ ¬ needsSup 13 ∧ ¬ needsSup 24 ∧
    ((15#6).toNat = 15 ∨ 24 ≤ (15#6).toNat) ∧ ((24#6).toNat = 15 ∨ 24 ≤ (24#6).toNat) ∧
    (field ((regs [(8, 0x4000000004000000#64)] sup).rd 8#5) 45 27 = 0 ∧ field ((regs [(8, 0x4000000004000000#64)] sup).rd 8#5) 15 10 = 0 ∧
      field ((regs [(8, 0x4000000004000000#64)] sup).rd 8#5) 26 16 = 1024) ∧
    (field ((regs [(8, 0x4010000#64)] sup).rd 8#5) 26 16 = 1025 ∧ field ((regs [(8, 0x400#64)] sup).rd 8#5) 15 10 ≠ 0 ∧
      field ((regs [(8, 0x8000000#64)] sup).rd 8#5) 45 27 ≠ 0) := by
  refine ⟨fun l => ⟨user_ready l, sup_ready l⟩, ?_⟩
  unfold needsSup
  decide +kernel

/-- A parked strand of level 2. -/
def flushedStrand : State := { user with cpu := { user.cpu with flushed := true, sts := 0x400#64, place := .parked 1 0 } }

/-- A value with every bit that may be written set; one with bit 21 and one with bit 3 set; a new strand and a flushed one, which join a
pool. -/
theorem witness_writeStatus :
    (∀ l, Ready (regs l user)) ∧ field ((regs [(8, 0x1FFFF7#64)] user).rd 8#5) 63 21 = 0 ∧
    bitOf ((regs [(8, 0x1FFFF7#64)] user).rd 8#5) 3 = false ∧ field ((regs [(8, 0x200000#64)] user).rd 8#5) 63 21 ≠ 0 ∧
    bitOf ((regs [(8, 8#64)] user).rd 8#5) 3 = true ∧
    user.thread? (.strand 0) = some user.cpu ∧ user.cpu.doomed ≠ some 0 ∧ (((user.enterPool 0 0 (some 6000)).die 0).pool.map (·.level)) = [0] ∧
    (flushedStrand.thread? (.strand 0) = some flushedStrand.cpu ∧ flushedStrand.cpu.doomed ≠ some 0 ∧
      ((flushedStrand.enterPool 0 0 (some 6000)).die 0).pool.map (·.level) = [2]) ∧
    (∃ t, Sys2Proof.Machine.exec (.movs 8#5 0#6) user = .next t) ∧ (∃ t, Sys2Proof.Machine.exec (.movt 1#6 8#5) user = .next t) ∧
    ∃ t, Sys2Proof.Machine.exec (.movtSts 8#5) user = .next t := by
  refine ⟨user_ready, ?_⟩
  refine ⟨by decide +kernel, by decide +kernel, by decide +kernel, by decide +kernel, by decide +kernel, by decide +kernel, by decide +kernel,
    by decide +kernel, ⟨_, rfl⟩, ⟨_, rfl⟩, ⟨_, rfl⟩⟩

/-- Nothing to spill; an aligned stack pointer and one that is not, a WPTR word at the bound and words past it. -/
theorem witness_stackSpecial :
    (∀ v ∈ [0x1080#64, 0x1081#64, 0xFFFF0607#64, 0x100000000#64, 0x1000#64, 8#64, 0x700#64], ∃ s1,
      (regs [(8, v)] sup).spillAllButCurrent = .ok s1 ∧ decide (field (nextPc s1.cpu.pc s1.cpu.lineN) 63 57 = 0 ∧ s1.cpu.sup = true) = true) ∧
    ((regs [(8, 0x1080#64)] sup).rd 8#5).toNat % 128 = 0 ∧ ((regs [(8, 0x1081#64)] sup).rd 8#5).toNat % 128 ≠ 0 ∧
    field ((regs [(8, 0xFFFF0607#64)] sup).rd 8#5) 63 32 = 0 ∧ field ((regs [(8, 0xFFFF0607#64)] sup).rd 8#5) 15 12 = 0 ∧
    field ((regs [(8, 0xFFFF0607#64)] sup).rd 8#5) 7 3 = 0 ∧ field ((regs [(8, 0xFFFF0607#64)] sup).rd 8#5) 11 8 ≤ 6 ∧
    field ((regs [(8, 0x100000000#64)] sup).rd 8#5) 63 32 ≠ 0 ∧ field ((regs [(8, 0x1000#64)] sup).rd 8#5) 15 12 ≠ 0 ∧
    field ((regs [(8, 8#64)] sup).rd 8#5) 7 3 ≠ 0 ∧ 6 < field ((regs [(8, 0x700#64)] sup).rd 8#5) 11 8 := by
  refine ⟨?_, by decide +kernel⟩
  intro v hv
  simp only [List.mem_cons, List.not_mem_nil, or_false] at hv
  rcases hv with rfl | rfl | rfl | rfl | rfl | rfl | rfl <;>
    exact spilled_of (p := fun s1 => decide (field (nextPc s1.cpu.pc s1.cpu.lineN) 63 57 = 0 ∧ s1.cpu.sup = true)) (by decide +kernel)

theorem witness_illegalAndNop :
    (∃ m, Instr.ill 5#4 = .ill m) ∧ (∃ op m tl t, Instr.reservedOpcode 0x0C#8 0#4 0#2 0#64 = .reservedOpcode op m tl t) ∧
    Ready (regs [] user) ∧ Instr.nopT4 ∈ [Instr.nop, .nopT1, .nopT2, .nopT4] :=
  ⟨⟨_, rfl⟩, ⟨_, _, _, _, rfl⟩, user_ready _, by decide +kernel⟩

/-- The worked line, decoded. -/
def worked : List Slotted := (decodeLine workedLine).getD []

/-- The line at 0x100 as a fetch finds it. -/
def workedAt : Option Found := match user.fetchLine 0x100#64 with | .ok src _ => src | _ => none

/-- A line of walked memory, one of an address that nothing maps, and one that two cached composites translate differently. -/
def torn : State :=
  { user with tlb := [⟨0, 1, 0, 0, ⟨0, 0, true, true, true, false, false, false, false, false, 4096, 0, 0, 0, 4096, false, false, (true, true, true)⟩, []⟩,
    ⟨0, 1, 0, 0, ⟨0x8000, 0, true, true, true, false, false, false, false, false, 8192, 0, 0, 0, 8192, false, false, (true, true, true)⟩, []⟩] }

theorem unmapped_fails : ∃ f, user.lineOf 0xC0000000#64 = .fail f := fails_of (x := user.lineOf 0xC0000000#64) (by decide +kernel)
theorem walked_traps : user.lineOf 0x40000000#64 = .trap 0x13 0x40000000#64 := by decide +kernel
theorem torn_conflict : torn.lineOf 0x100#64 = .conflict := by decide +kernel

/-- A jump to the last instruction of the worked line, a counter at 2 and at 1, a condition that fails, and targets with bit 57 set, in a
line that is none, at index 0 and past the end, in memory that may not be fetched, that nothing maps, and that is translated in two ways. -/
theorem witness_transfers :
    (∀ l, Ready (regs l user)) ∧ ((regs [(8, 0x104#64)] user).keepsSlot ∧ (regs [(8, 2#64)] user).keepsSlot) ∧
    (takenTransfer (regs [(8, 0x104#64)] user) (.jmp 8#5) = some (0x104#64, none) ∧
    takenTransfer (regs [(8, 2#64)] user) (.loop 8#5 4#16) = some (0x104#64, some (8#5, 1#64)) ∧
    untakenTransfer (regs [(8, 1#64)] user) (.loop 8#5 4#16) = some (some (8#5, 0#64)) ∧
    untakenTransfer (regs [] user) (.brc .ne 0#5 0#5 4#16) = some none ∧
    takenTransfer (regs [(8, 0x200000000000000#64)] user) (.jmp 8#5) = some (0x200000000000000#64, none) ∧ field (0x200000000000000#64) 63 57 ≠ 0 ∧
    takenTransfer (regs [(8, 0x1001#64)] (bytes 0x1000 0x3F 1 user)) (.jmp 8#5) = some (0x1001#64, none) ∧
    (regs [(8, 0x1001#64)] (bytes 0x1000 0x3F 1 user)).lineOf 0x1000#64 = .illegal) ∧
    ((regs [(8, 0x104#64)] user).Target 0x104#64 workedAt worked ∧ (regs [(8, 0x100#64)] user).lineOf 0x100#64 = .ok workedAt worked ∧
    field (0x100#64) 5 0 = 0 ∧ worked.length < field (0x105#64) 5 0) ∧
    user.lineOf 0x40000000#64 = .trap 0x13 0x40000000#64 ∧ (∃ f, user.lineOf 0xC0000000#64 = .fail f) ∧ torn.lineOf 0x100#64 = .conflict :=
  ⟨user_ready, ⟨user_keeps _ (by decide +kernel), user_keeps _ (by decide +kernel)⟩, by decide +kernel,
    ⟨target_of (by decide +kernel), by decide +kernel⟩, walked_traps, unmapped_fails, torn_conflict⟩

/-- A state one window deep, the older resident. -/
def deeper : State := { user with cpu := { user.cpu with depth := 1, older := [{ l := Vector.replicate 8 5#64, i := Vector.replicate 8 6#64 }] } }

/-- Three older windows over a stack that nothing maps, and a window in memory there. -/
def unmapped : State := { user with cpu := { user.cpu with depth := 3, older := List.replicate 3 ⟨Vector.replicate 8 0#64, Vector.replicate 8 0#64⟩, zsz := 3, ssp := 0xC0000400#64 } }
def lowest : State := { unmapped with cpu := { unmapped.cpu with older := [] } }
def lowestHeld : State :=
  regs [(31, 0x102#64)] { lowest with cpu := { lowest.cpu with lines := [{ key := (0x100#64, 0), at_ := .direct 0x100, insts := worked }] } }

/-- Depth 5, the first that does not fit the smallest stack; a window to open, one to close and none; a spill and a fill that nothing maps; a
return to the worked line, with a window below and without, and with one that is not to be reached; returns to lines that trap, fail their
walk and conflict. -/
theorem witness_windows :
    (1024 * 2 ^ ({ user.cpu with depth := 5 } : Thread).zsz < 128 * (({ user.cpu with depth := 5 } : Thread).depth + 2) + 192) ∧
    (user.noPrefix ∧ user.flows ∧ unmapped.noPrefix) ∧
    (128 * (user.cpu.depth + 2) + 192 ≤ 1024 * 2 ^ user.cpu.zsz ∧ user.cpu.older.length ≠ 3 ∧ user.cpu.depth = 0) ∧
    (128 * (unmapped.cpu.depth + 2) + 192 ≤ 1024 * 2 ^ unmapped.cpu.zsz ∧ unmapped.cpu.older.length = 3) ∧
    (∃ s1, unmapped.spillOldest = .stopped s1) ∧ (lowest.cpu.depth ≠ 0 ∧ lowest.cpu.older = []) ∧
    (∃ va f, lowest.firstStop .read [lowest.cpu.ssp] = some (va, f)) ∧
    (∃ s1, deeper.readyOlder = .ok s1 ∧ decide (deeper.cpu.pfxf = false ∧ deeper.cpu.pfxr = false ∧ s1.cpu.commit.older ≠ [] ∧
      field (nextPc s1.cpu.pc s1.cpu.lineN) 63 57 = 0) = true) ∧
    (regs [(31, 0x102#64)] deeper).Target ((regs [(31, 0x102#64)] deeper).rd 31#5) workedAt worked ∧
    (∃ s1, (regs [(31, 0x102#64)] deeper).readyOlder = .ok s1 ∧
      decide (s1.cpu.commit.older ≠ [] ∧ s1.cpu.ending = false ∧ s1.preempts = false) = true) ∧
    (regs [(31, 0x102#64)] user).Target ((regs [(31, 0x102#64)] user).rd 31#5) workedAt worked ∧
    ((regs [(31, 0x40000001#64)] user).lineOf (lineAddr ((regs [(31, 0x40000001#64)] user).rd 31#5)) = .trap 0x13 0x40000000#64 ∧
      (∃ f, (regs [(31, 0xC0000001#64)] user).lineOf (lineAddr ((regs [(31, 0xC0000001#64)] user).rd 31#5)) = .fail f) ∧
      (regs [(31, 0x101#64)] torn).lineOf (lineAddr ((regs [(31, 0x101#64)] torn).rd 31#5)) = .conflict) ∧
    (lowestHeld.Target (lowestHeld.rd 31#5) none worked ∧ lowestHeld.cpu.depth ≠ 0 ∧ lowestHeld.cpu.older = []) ∧
    (∃ va f, lowestHeld.firstStop .read [lowestHeld.cpu.ssp] = some (va, f)) := by
  refine ⟨by decide +kernel, ⟨user_noPrefix, user_flows, ?_⟩, by decide +kernel, by decide +kernel, stopped_of (by decide +kernel),
    by decide +kernel, pair_of (by decide +kernel), spilled_of (p := fun s1 => decide _) (by decide +kernel), target_of (by decide +kernel),
    spilled_of (p := fun s1 => decide _) (by decide +kernel), target_of (by decide +kernel),
    ⟨by decide +kernel, fails_of (by decide +kernel), by decide +kernel⟩, ⟨target_of (by decide +kernel), by decide +kernel⟩, pair_of (by decide +kernel)⟩
  unfold State.noPrefix
  decide +kernel


/-! ### Witnesses: rows 4 to 7 -/

/-- Scalar, lane-wise and whole-register forms, a comparison into a mask, and `VCVT` with a pending format. -/
theorem witness_lanes :
    (∀ l, Ready (regs l user)) ∧ (floatResult (regs [] user) (.fadd .rne .d 8#5 9#5 10#5)).isSome = true ∧
    (vectorLane (regs [] user) (.vadd ⟨true, some 2#2⟩ 1#3 2#3 3#3)).isSome = true ∧
    (vectorFloatLane (regs [] user) (.vffma ⟨false, none⟩ 1#3 2#3 3#3)).isSome = true ∧
    (vectorForm (regs [] user) (.vq8 .e4m3 3#3 1#3 2#3)).isSome = true ∧ (∃ f d a, Instr.vcvt .f32 1#3 0#3 = .vcvt f d a) ∧
    (vectorForm { user with cpu := { user.cpu with sts := 0x24#64 } } (.vcvt .f32 1#3 0#3)).isSome = true ∧
    ({ user.cpu with sts := 0x24#64 } : Thread).pfxf = true ∧ ({ user.cpu with sts := 0x24#64 } : Thread).pfxr = false ∧
    (vectorScalar (regs [] user) (.vextrImm true 8#5 2#3 7#4)).isSome = true ∧
    (maskResult (regs [] user) (.vfcmp .un true 3#2 1#3 2#3)).isSome = true :=
  ⟨user_ready, by decide +kernel, by decide +kernel, by decide +kernel, by decide +kernel, ⟨_, _, _, rfl⟩, by decide +kernel⟩

/-! ### Witnesses: strands, messages and barriers -/

/-- No quota for a strand, and a partition that no one holds. -/
def pressed : State := { user with parts := [{ home with squota := 0 }] }
def stray : State := { user with parts := [] }

/-- A start PC at the first and at the last index of a line, and those beside them; the current core, a pool, no place, one outside the
partition; a quota that is full. -/
theorem witness_spawns :
    (∀ l, Ready (regs l user)) ∧
    ((∃ l, Instr.spawnLabel .p2 8#5 9#5 0x61#16 = .spawnLabel .p2 8#5 9#5 l) ∧ stray.part? stray.cpu.part = none) ∧
    ((field (0x200000000000001#64) 63 57 ≠ 0 ∧ field (0x100#64) 5 0 < 1 ∧ 31 < field (0x120#64) 5 0) ∧
      (field (0x1FFFFFFFFFFFFDF#64) 63 57 = 0 ∧ 1 ≤ field (0x1FFFFFFFFFFFFDF#64) 5 0 ∧ field (0x1FFFFFFFFFFFFDF#64) 5 0 ≤ 31)) ∧
    (place ((regs [(9, 0x6000#64)] user).rd 9#5) 0 = some (.core 0) ∧ place 0x2017#64 0 = some (.pool 23) ∧ place 0x2018#64 0 = none) ∧
    (user.part? user.cpu.part = some home ∧ home.allows (.core 256) = false ∧ home.allows (.core 0) = true) ∧
    (pressed.part? 1 = some { home with squota := 0 } ∧ ({ home with squota := 0 } : Part).squota ≤ pressed.quotaUsed 1) ∧
    (¬ (home.squota ≤ (regs [(9, 0x6000#64)] user).quotaUsed home.num ∨ (regs [(9, 0x6000#64)] user).mayCreate (Placed.core 0).die home = false ∨
      (regs [(9, 0x6000#64)] user).journalFull (Placed.core 0).die = true) ∧
    field (nextPc (spawned (regs [(9, 0x6000#64)] user) .inherit (.core 0) 0x101#64).1.cpu.pc
      (spawned (regs [(9, 0x6000#64)] user) .inherit (.core 0) 0x101#64).1.cpu.lineN) 63 57 = 0 ∧
    (regs [(9, 0x6000#64)] user).cur ≠ .strand (0 * 2 ^ 19 + ((user.die 0).freeRecs.headD (user.die 0).nextRec))) := by
  refine ⟨user_ready, ⟨⟨_, rfl⟩, by decide +kernel⟩, by decide +kernel, by decide +kernel, by decide +kernel, by decide +kernel, ?_⟩
  decide +kernel

/-- The words of a launch: two strands at the worked line, spread over the partition; the same at index 32 and at index 0; and one core
outside the partition. -/
def twoStrands : List Nat := [0x101, 2]
def pastLine : List Nat := [0x120, 2]
def offDie : List Nat := [0x101, 1, 256, 0, 0, 0, 0, 0]

/-- The supervisor context with a descriptor in its local store. -/
def launching (ws : List Nat) : State := regs [(9, near)] (locals 0 (pack ws) 64 sup)
def launchingPoor (ws : List Nat) : State := { launching ws with parts := [{ home with squota := 0 }] }
def launchingStray (ws : List Nat) : State := { launching ws with parts := [] }

/-- What a record that is read must be, by the partition that reads it. -/
def readsAs (s : State) (p : State → List Word → Part → Bool) : Bool :=
  match s.readRecord near 64 with
  | .ok s1 ws => (s1.part? s1.cpu.part).any (p s1 ws)
  | _ => false

theorem reads_of {s : State} {p : State → List Word → Part → Bool} (h : readsAs s p = true) :
    ∃ s1 ws q, s.readRecord near 64 = .ok s1 ws ∧ s1.part? s1.cpu.part = some q ∧ p s1 ws q = true := by
  unfold readsAs at h
  split at h
  · rename_i s1 ws e
    obtain ⟨q, e2, h2⟩ := some_of h
    exact ⟨s1, ws, q, e, e2, h2⟩
  · exact absurd h (by simp)

/-- An aligned address and one that is not; a record in walked memory and one that nothing maps; no partition; ENTRY at index 32, a place
outside the partition, a quota that is full, and a launch that is accepted. -/
theorem witness_launches :
    (∀ l, Ready (regs l sup)) ∧ ((near + 8#64).toNat % 64 ≠ 0 ∧ near.toNat % 64 = 0 ∧ (launching twoStrands).rd 9#5 = near) ∧
    (sup.readRecord 0x40000000#64 64 = .walked ∧ ∃ s1, sup.readRecord 0xC0000000#64 64 = .stopped s1) ∧
    (∃ s1 ws, (launchingStray twoStrands).readRecord near 64 = .ok s1 ws ∧ decide (s1.part? s1.cpu.part = none) = true) ∧
    (∃ s1 ws q, (launching pastLine).readRecord near 64 = .ok s1 ws ∧ s1.part? s1.cpu.part = some q ∧ decide (31 < field (ws.headD 0#64) 5 0) = true) ∧
    (∃ s1 ws q, (launching offDie).readRecord near 64 = .ok s1 ws ∧ s1.part? s1.cpu.part = some q ∧
      decide (q.descRefusal ws s1.here (some s1.cpu.core) = some (refused 4)) = true) ∧
    (∃ s1 ws q, (launchingPoor twoStrands).readRecord near 64 = .ok s1 ws ∧ s1.part? s1.cpu.part = some q ∧
      decide (q.descRefusal ws s1.here (some s1.cpu.core) = none ∧ s1.launchBusy q s1.here ws = true) = true) ∧
    (∃ s1 ws q, (launching twoStrands).readRecord near 64 = .ok s1 ws ∧ s1.part? s1.cpu.part = some q ∧
      decide (q.descRefusal ws s1.here (some s1.cpu.core) = none ∧ s1.launchBusy q s1.here ws = false ∧ s1.cpu.core < 6240 ∧
        field (nextPc (launched s1 ws).1.cpu.pc (launched s1 ws).1.cpu.lineN) 63 57 = 0) = true) := by
  refine ⟨sup_ready, by decide +kernel, ⟨recordWalked_of (by decide +kernel), recordStops_of (by decide +kernel)⟩, record_of (p := fun s1 _ => decide _) (by decide +kernel),
    reads_of (p := fun _ _ _ => decide _) (by decide +kernel), reads_of (p := fun _ _ _ => decide _) (by decide +kernel), ?_, ?_⟩
  · exact reads_of (p := fun _ _ _ => decide _) (by decide +kernel)
  · exact reads_of (p := fun _ _ _ => decide _) (by decide +kernel)

/-- A join of two members of weight 1 in FP32, four elements each, quorum 2; its handle is 2^32. -/
def quorum : Join :=
  { idx := 0, gen := 1, from_ := ⟨0, 0, 0#64, 1, 0, false⟩, at_ := 0x9000#64
    words := [0xA000#64, 0xB000#64, 0#64, 0#64, 0x101#64, 0#64, 0x0000002000000004#64, 0x20002#64], weights := [1, 1], members := [{}, {}] }

/-- Strands that wait: one that keeps its slot, with and without a kill; one with a kill; one whose launch has ended; one that may park; one
whose stack nothing maps; and one of another die where no record is free and every slot is taken. -/
def waiting : State := regs [(9, 0xF000002#64), (10, 0x100000000#64)] { user with dies := [(0, { nextRec := 1, joins := [quorum], joinGen := 1 })] }
def vliving : State := { waiting with cpu := { waiting.cpu with sts := 2#64 } }
def vdying : State := { vliving with cpu := { vliving.cpu with kill := [9#64] } }
def dying : State := { waiting with cpu := { waiting.cpu with kill := [9#64], khnd := 0x101#64 } }
def leaving : State := { waiting with cpu := { waiting.cpu with ending := true } }
def unspilled : State := { waiting with cpu := { waiting.cpu with ssp := 0xC0000400#64 } }
def packed : State :=
  { waiting with
    cur := .strand (2 ^ 19), cpu := { waiting.cpu with sid := 2 ^ 19 }, parts := [{ home with whole := false, node := 128 }]
    dies := [(0, { visitors := List.replicate 32768 (0, 1), joins := [quorum], joinGen := 1 })]
    cores := (List.range 256).map (fun c => (c, { slots := (List.range 14).map (fun i => (i, i)) })) }

theorem packed_full : packed.longWait packed.here = .full := by
  have hr : packed.recordFree packed.here (2 ^ 19) packed.cpu.part = false := by
    have hc : packed.recordCap { home with whole := false, node := 128 } = true := by
      have h1 : (2048 * ({ home with whole := false, node := 128 } : Part).coreCount) = 32768 := by decide +kernel
      have h2 : 32768 ≤ packed.recordsHeld 1 := by
        unfold State.recordsHeld
        rw [show packed.dies = [(0, { visitors := List.replicate 32768 (0, 1), joins := [quorum], joinGen := 1 })] from rfl]
        simp only [List.map_cons, List.map_nil, List.sum_cons, List.sum_nil]
        rw [List.filter_replicate_of_pos (by rfl), List.length_replicate]
        omega
      unfold State.recordCap
      rw [h1, show ({ home with whole := false, node := 128 } : Part).num = 1 from rfl]
      simp only [decide_eq_true h2, Bool.and_true]
      rfl
    have hp : packed.part? packed.cpu.part = some { home with whole := false, node := 128 } := by rfl
    unfold State.recordFree
    rw [hp]
    simp only [hc, Bool.not_true, Bool.and_false, Bool.or_false]
    decide +kernel
  have hs : packed.slotsFull packed.here = true := by decide +kernel
  have hv : packed.cpu.vlive = false := by decide +kernel
  unfold State.longWait
  rw [show packed.cur = .strand (2 ^ 19) from rfl]
  simp only [hv, hr, hs, Bool.false_eq_true, if_false, if_true]

/-- Each way in which a wait can go (R28 to R30, R136, R257, R380). -/
theorem witness_waits :
    ((sup.longWait sup.here = .inSlot ∧ sup.isSup = true) ∧ (vliving.longWait vliving.here = .inSlot ∧ vliving.cpu.killable = false) ∧
      vdying.longWait vdying.here = .inSlot ∧ vdying.isSup = false ∧ vdying.cpu.killable = true) ∧
    ((dying.longWait dying.here = .park ∧ dying.cpu.killable = true) ∧
      leaving.longWait leaving.here = .park ∧ leaving.cur = .strand 0 ∧ leaving.cpu.killable = false ∧ leaving.cpu.ending = true) ∧
    (waiting.longWait waiting.here = .park ∧ waiting.cpu.killable = false ∧ waiting.cpu.ending = false ∧
      unspilled.longWait unspilled.here = .park ∧ unspilled.cpu.killable = false ∧ unspilled.cpu.ending = false) ∧
    (∃ s2, waiting.flush = .ok s2) ∧ (∃ s2, unspilled.flush = .stopped s2) ∧ packed.longWait packed.here = .full :=
  ⟨by decide +kernel, by decide +kernel, by decide +kernel, ⟨_, flush_sure (by decide +kernel)⟩, stopped_of (by decide +kernel), packed_full⟩

/-- The strands of `witness_waits` have no prefix, and no message waits for them. -/
theorem waits_ready : (∀ s ∈ [vliving, vdying, dying, leaving], s.noPrefix ∧ (s.core s.cpu.core).inbox = []) ∧
    ∀ s ∈ [waiting, unspilled, packed], s.noPrefix ∧ (s.core s.cpu.core).inbox = [] := by
  unfold State.noPrefix
  decide +kernel

/-- Both ways in which the strand may leave, and those in which it does not (R121). -/
theorem witness_moves :
    (dying.cpu.killable = true ∧ waiting.cpu.killable = false ∧ some 0 = some waiting.cpu.core ∧ waiting.performed.flows ∧
      some 5 ≠ some waiting.cpu.core) ∧
    (∃ t, (waiting.performed.answerDone 8#5 0#64).flush = .ok t) ∧ unspilled.cpu.killable = false ∧
    (∃ t, (unspilled.performed.answerDone 8#5 0#64).flush = .stopped t) ∧ ∃ u, unspilled.performed.flush = .stopped u := by
  refine ⟨?_, ⟨_, flush_sure (by decide +kernel)⟩, by decide +kernel, stopped_of (by decide +kernel), stopped_of (by decide +kernel)⟩
  unfold State.flows
  decide +kernel

/-- A translation that fails. -/
theorem walkFails_of {w : Walk} (h : (match w with | .fail _ => true | _ => false) = true) : ∃ f, w = .fail f := by
  cases w with
  | fail f => exact ⟨f, rfl⟩
  | ok c ipas => exact absurd h (by simp)
  | conflict => exact absurd h (by simp)

/-- Destinations of `MIGRATE`: the two kinds it does not take, its own core, another, and one outside the partition; and addresses of
`MIGRATE.near` in the local store, in walked and in direct memory and at a device, one that nothing maps and one with two translations. -/
theorem witness_migrations :
    ((∀ l, Ready (regs l user) ∧ Ready (regs l sup)) ∧ (regs [] sup).isSup = true ∧ (regs [] user).isSup = false) ∧
    (field (0x2000#64) 15 13 = 1 ∧ field (0x4000#64) 15 13 = 2 ∧ place 0x1800#64 0 = none) ∧
    (place ((regs [(9, 5#64)] user).rd 9#5) 0 = some (.core 5) ∧ place 0#64 0 = some (.core 0) ∧ place 0x100#64 0 = some (.core 256)) ∧
    ((∀ p, user.part? user.cpu.part = some p → p.owns 256 = false) ∧ stray.part? stray.cpu.part = none ∧ user.part? user.cpu.part = some home ∧
      home.owns 5 = true ∧ home.owns 0 = true) ∧
    (field (0x200000000000000#64) 63 57 ≠ 0 ∧ (bitOf (0x100000000040000#64) 56 = true ∧ field (0x100000000040000#64) 55 18 ≠ 0) ∧
      bitOf near 56 = true ∧ field near 55 18 = 0 ∧ home.dies.contains user.here = true ∧ home.dies.contains (home.homeDie 0x40008000) = true) ∧
    ({ home with hmap := [(homeIndex 0x40008000, 1)] }.dies.contains ({ home with hmap := [(homeIndex 0x40008000, 1)] }.homeDie 0x40008000) = false) ∧
    (∃ f, user.lookupComp user.here home 0 0xC0000000 = .fail f) ∧ torn.lookupComp torn.here home 0 0x100 = .conflict ∧
    (∃ c ipas, user.lookupComp user.here home 0 0x40008000 = .ok c ipas ∧ c.w = true) ∧
    (∃ c ipas, user.lookupComp user.here home 0 0x8000 = .ok c ipas ∧ decide (c.w = false ∧ c.pa + 0x8000 % 4096 < 2 ^ 41) = true) ∧
    ∃ c ipas, user.lookupComp user.here home 0 0x80000000 = .ok c ipas ∧ decide (c.w = false ∧ 2 ^ 41 ≤ c.pa + 0x80000000 % 4096) = true := by
  refine ⟨⟨fun l => ⟨user_ready l, sup_ready l⟩, by decide +kernel⟩, by decide +kernel, by decide +kernel, ⟨?_, by decide +kernel⟩, by decide +kernel,
    by decide +kernel, walkFails_of (by decide +kernel), by decide +kernel, walk_of (p := fun c => c.w) (by decide +kernel),
    walk_of (p := fun c => decide _) (by decide +kernel), walk_of (p := fun c => decide _) (by decide +kernel)⟩
  intro p hp
  have : user.part? user.cpu.part = some home := by decide +kernel
  rw [this] at hp
  cases hp
  decide +kernel

/-- A strand with an entry of its level in its die's pool. -/
def yielding : State := { user with dies := [(0, { nextRec := 2, pool := [⟨1, 0, none, 1⟩] })], threads := [(1, { sid := 1, part := 1, place := .pool 0 })] }

/-- Strands whose core's slice has ended: one that can be flushed, and one whose stack nothing maps. -/
def sliced (ssp : Word) : State :=
  { user with cores := [(0, { supMode := .running, slots := [(0, 0)], sliceEnd := true, slicing := true })], cpu := { user.cpu with ssp } }

theorem witness_strandEnds :
    (sup.cur = .sup 0 ∧ sup.noPrefix ∧ user.cur = .strand 0 ∧ Ready (regs [] user)) ∧ (regs [] user).keepsSlot ∧ (regs [] user).yieldsTo = false ∧
    (yielding.isSup = false ∧ yielding.cpu.ending = false ∧ yielding.preempts = false ∧ yielding.cpu.vlive = false ∧ yielding.yieldsTo = true) ∧
    (∃ s2, yielding.done.flush = .ok s2) ∧ yielding.cpu.pfxf = false ∧ yielding.cpu.pfxr = false ∧
    ((regs [] user).cpu.killable = false ∧ dying.cpu.killable = true) ∧
    (leaving.cur = .strand 0 ∧ leaving.cpu.killable = false ∧ leaving.cpu.ending = true ∧ leaving.cpu.pfxf = false ∧ leaving.cpu.pfxr = false) ∧
    ((sliced 0x200000#64).cpu.killable = false ∧ (sliced 0x200000#64).preempts = true ∧ (sliced 0xC0000400#64).preempts = true ∧
      (sliced 0x200000#64).cpu.pfxf = false ∧ (sliced 0x200000#64).cpu.ending = false) ∧
    (∃ s2, (sliced 0x200000#64).done.flush = .ok s2) ∧ (∃ s2, (sliced 0xC0000400#64).done.flush = .stopped s2) ∧
    ∃ s3, (sliced 0xC0000400#64).flush = .stopped s3 :=
  ⟨⟨by decide +kernel, sup_noPrefix, by decide +kernel, user_ready _⟩, user_keeps _ (by decide +kernel), by decide +kernel, by decide +kernel,
    ⟨_, flush_sure (by decide +kernel)⟩, by decide +kernel, by decide +kernel, by decide +kernel, by decide +kernel, by decide +kernel,
    ⟨_, flush_sure (by decide +kernel)⟩, stopped_of (by decide +kernel), stopped_of (by decide +kernel)⟩

/-- A destination of 24 bytes for the last core, one of another module, and LOOP with and without SUP; the last register numbers allowed. -/
theorem witness_sends :
    (∀ l, Ready (regs l user) ∧ Ready (regs l sup)) ∧ Instr.sendLoopback 2#2 8#5 9#5 29#5 ∈ [Instr.send 2#2 8#5 9#5 29#5, .sendLoopback 2#2 8#5 9#5 29#5, .sendEndOverflow 2#2 8#5 9#5 29#5] ∧
    legalDest ((regs [(9, 0x18185F#64)] user).rd 9#5) false 29#5 ∧ legalDest ((regs [(9, 0x3F180000#64)] user).rd 9#5) true 29#5 ∧
    (sent (regs [(9, 0x180005#64)] user) false 2 0x180005#64 1#64 2#64 3#64).2 = 0#64 ∧
    field (0xC0180000#64) 63 32 = 0 ∧ bitOf (0xC0180000#64) 31 = true ∧ field (0xC0180000#64) 29 21 = 0 ∧ field (0xC0180000#64) 15 0 = 0 ∧
    field (0xC0180000#64) 20 16 ≤ 24 ∧ (28#5).toNat ≤ 28 ∧ (regs [] user).cpu.sup = false ∧ (regs [] sup).cpu.sup = true ∧
    (∃ r, looped (regs [] sup) 0xC0180000#64 28#5 = some r ∧ decide (r.2 = refused 3) = true) ∧
    (∃ r, looped (({ sup with cores := [(0, { overflow := true })] } : State)) 0xC0180000#64 28#5 = some r ∧ decide (r.2 = 0#64) = true) := by
  refine ⟨fun l => ⟨user_ready l, sup_ready l⟩, by decide +kernel, ?_, ?_, eight (by decide +kernel) ⟨by decide +kernel,
    some_of (p := fun _ => decide _) (by decide +kernel), some_of (p := fun _ => decide _) (by decide +kernel)⟩⟩ <;>
  · unfold legalDest
    decide +kernel

/-- A message in the inbox and none; the arrival queue of a supervisor context; the waits of `witness_waits`. -/
def mailed : State := { user with cores := [(0, { inbox := [⟨[1#64, 2#64, 3#64, 4#64], 2, 0, 0, 0#64, 1, none, none, none⟩], slots := [(0, 0)], supMode := .running })] }

theorem witness_receives :
    ((∀ l, Ready (regs l user) ∧ Ready (regs l sup)) ∧ (regs [(9, 15#64)] mailed).rd 9#5 ≠ 0#64) ∧
    (field ((regs [(9, 15#64)] mailed).rd 9#5) 63 5 = 0 ∧ bitOf ((regs [(9, 15#64)] mailed).rd 9#5) 4 = false ∧ (28#5).toNat ≤ 28 ∧
      (receivable (regs [(9, 15#64)] mailed) 15#64).isSome = true ∧ receivable (regs [(9, 1#64)] mailed) 1#64 = none) ∧
    ((regs [(9, 16#64)] sup).isSup = true ∧ field (16#64) 3 0 = 0 ∧ (mailed.core mailed.cpu.core).inbox ≠ []) ∧
    (∀ s ∈ [waiting, unspilled, packed], s.noPrefix ∧ (s.core s.cpu.core).inbox = []) ∧ packed.longWait packed.here = .full :=
  ⟨⟨fun l => ⟨user_ready l, sup_ready l⟩, by decide +kernel⟩, by decide +kernel, by decide +kernel, waits_ready.2, packed_full⟩

/-- A barrier with one arrival of two, by `BARA`, and a JMEM that names no join. -/
def open2 : Barrier := ⟨1, 4, 0, 15, 0, 2, 1, true, 0#64, []⟩

/-- Scopes that have no unit; descriptors with bit 28 set, with a count of 0, and against an open episode of another count or kind; the only
participant, and one of two, with the waits of `witness_waits`. -/
theorem witness_barriers :
    ((∀ l, Ready (regs l sup)) ∧ Scope.str ∈ [Scope.str, .core, .sys] ∧ isUtell 6144 = true ∧ Scope.sect ∈ [Scope.quad, .sect] ∧
      user.liveJoin (field user.cpu.jmem 47 0) = none) ∧
    (barrierOf sup .die 0xF000001#64 = some (0, ⟨1, 4, 0, 15, 0, 0, 0, false, 0#64, []⟩) ∧ field (0x10000001#64) 63 28 ≠ 0 ∧
      field (0xF000000#64) 23 0 = 0) ∧
    (¬ barrierFits ⟨1, 4, 0, 15, 0, 3, 1, false, 0#64, []⟩ 0xF000002#64 false ∧ ¬ barrierFits open2 0xF000002#64 false ∧
      barrierFits ⟨1, 4, 0, 15, 0, 0, 0, false, 0#64, []⟩ 0xF000001#64 true) ∧
    ((arrivedAt ⟨1, 4, 0, 15, 0, 0, 0, false, 0#64, []⟩ 0xF000001#64 true 7#64).arrived = field (0xF000001#64) 23 0 ∧
      (arrivedAt open2 0xF000002#64 true 7#64).arrived = field (0xF000002#64) 23 0) ∧
    (∀ s : State, s.release .die = s) ∧ (waiting.rd 9#5 = 0xF000002#64 ∧ packed.rd 9#5 = 0xF000002#64) ∧
    (barrierOf waiting .die 0xF000002#64).any (fun (d, x) => d == 0 && decide (x.arrived = 0)) = true ∧
    barrierFits ⟨1, 4, 0, 15, 0, 0, 0, false, 0#64, []⟩ 0xF000002#64 false ∧
    (arrivedAt ⟨1, 4, 0, 15, 0, 0, 0, false, 0#64, []⟩ 0xF000002#64 false 0#64).arrived ≠ field (0xF000002#64) 23 0 := by
  unfold barrierFits
  refine ⟨⟨sup_ready, by decide +kernel⟩, by decide +kernel, by decide +kernel, by decide +kernel, fun _ => rfl, by decide +kernel, ?_⟩
  decide +kernel


/-! ### Witnesses: memory -/

/-- The word at 0x8000 poisoned. -/
def poisoned : State := { user with hbm := user.hbm.setPoison 0x8000 true }

/-- A sound word, a poisoned one, a device register, an address that is not aligned, and one in a block that is absent, for a load that
parks and one that never does. -/
theorem witness_scalarLoads :
    (∀ l, Ready (regs l user)) ∧ Ready (regs [(9, 0x8000#64)] poisoned) ∧
    (∃ l va c, (scalarLoad (regs [(9, 0x8000#64)] user) (.ld .d 8#5 9#5 0#16)) = some (.d, 8#5, .at_ l va c, none) ∧
      (regs [(9, 0x8000#64)] user).anyPoison l 8 = false) ∧
    (∃ l va c, scalarLoad (regs [(9, 0x8000#64)] poisoned) (.ld .d 8#5 9#5 0#16) = some (.d, 8#5, .at_ l va c, none) ∧
      (regs [(9, 0x8000#64)] poisoned).anyPoison l 8 = true) ∧
    (∃ pa va c ipas, (regs [(9, 0x80000000#64)] user).locate (eaOf (regs [(9, 0x80000000#64)] user) 9#5 0#16) 8 .read = .device pa va c ipas) ∧
    (regs [(9, 0x8000#64)] user).locate (eaOf (regs [(9, 0x8000#64)] user) 9#5 0xFFFF#16) 8 .read = .trap 0x10 0x7FFF#64 ∧
    (∃ k h va, (regs [(9, 0x40008000#64)] user).locate (eaOf (regs [(9, 0x40008000#64)] user) 9#5 0#16) 8 .read = .absent k h va) := by
  refine ⟨user_ready, regs_ready (s := user) rfl (user_ready _), ?_, ?_, device_of (by decide +kernel), by decide +kernel,
    absent_of (by decide +kernel)⟩
  · obtain ⟨l, va, c, h, hp⟩ := at_of (f := (regs [(9, 0x8000#64)] user).locate (eaOf (regs [(9, 0x8000#64)] user) 9#5 0#16) 8 .read)
      (p := fun l => !(regs [(9, 0x8000#64)] user).anyPoison l 8) (by decide +kernel)
    exact ⟨l, va, c, by unfold scalarLoad; exact congrArg (fun f => some (LdSize.d, 8#5, f, none)) h, by simpa using hp⟩
  · obtain ⟨l, va, c, h, hp⟩ := at_of (f := (regs [(9, 0x8000#64)] poisoned).locate (eaOf (regs [(9, 0x8000#64)] poisoned) 9#5 0#16) 8 .read)
      (p := fun l => (regs [(9, 0x8000#64)] poisoned).anyPoison l 8) (by decide +kernel)
    exact ⟨l, va, c, by unfold scalarLoad; exact congrArg (fun f => some (LdSize.d, 8#5, f, none)) h, hp⟩

/-- Addresses that are not found, for reading and for reading and writing: not aligned, mapped by nothing, translated in two ways, of a leaf
with WB set, of an absent block and of a device (R203, R204, R398, R399, R411). -/
def scanned : State := bytes 0x17000 0x85F 8 user
theorem witness_unfound :
    (∃ c v, user.locate 0x8001#64 8 .both = .trap c v) ∧ (∃ va f, user.locate 0xC0000000#64 8 .read = .fail va f) ∧
    (∃ va f, user.locate 0xC0000000#64 8 .both = .fail va f) ∧ (∃ va, torn.locate 0x100#64 8 .both = .conflict va) ∧
    (∃ va, torn.locate 0x100#64 8 .read = .conflict va) ∧ (∃ l, scanned.locate 0x8000#64 8 .both = .writeBack l) ∧
    (∃ l, scanned.locate 0x8000#64 8 .write = .writeBack l) ∧ (∃ k h va, user.locate 0x40008000#64 8 .both = .absent k h va) ∧
    ∃ pa va c ipas, user.locate 0x80000000#64 8 .both = .device pa va c ipas := by
  refine ⟨⟨0x10, 0x8001#64, by decide +kernel⟩, lost_of (by decide +kernel), lost_of (by decide +kernel), ⟨0x100#64, by decide +kernel⟩,
    ⟨0x100#64, by decide +kernel⟩, ⟨0x17000, by decide +kernel⟩, ⟨0x17000, by decide +kernel⟩, absent_of (by decide +kernel), device_of (by decide +kernel)⟩

/-- The same for a store, of 8 bytes at a sound and at a poisoned word. -/
theorem witness_scalarStores :
    (∀ l, Ready (regs l user)) ∧ (scalarStore (regs [(9, 0x8000#64)] user) (.stnp .d 8#5 9#5 10#5 0#16)).isSome = true ∧
    (∃ l va c, (regs [(9, 0x8000#64)] user).locate 0x8000#64 8 .write = .at_ l va c ∧
      (!(regs [(9, 0x8000#64)] user).anyPoison l 8) = true) ∧
    (∃ l va c, (regs [(9, 0x8000#64)] poisoned).locate 0x8000#64 8 .write = .at_ l va c ∧
      (regs [(9, 0x8000#64)] poisoned).anyPoison l 8 = true) ∧
    (∃ pa va c ipas, (regs [(9, 0x80000000#64)] user).locate 0x80000000#64 8 .write = .device pa va c ipas) ∧
    (regs [(9, 0x8000#64)] user).locate 0x8001#64 2 .write = .trap 0x10 0x8001#64 ∧
    (∃ k h va, (regs [(9, 0x40008000#64)] user).locate 0x40008000#64 8 .write = .absent k h va) := by
  refine ⟨user_ready, by decide +kernel, at_of (by decide +kernel), at_of (by decide +kernel), device_of (by decide +kernel), by decide +kernel,
    absent_of (by decide +kernel)⟩

/-- Eight words from register 24, the last range that fits, in memory and in the local store. -/
theorem witness_multiples :
    (∀ l, Ready (regs l user)) ∧ multiple (regs [(9, 0x8000#64)] user) (.ldm 7#3 24#5 9#5 0#16) = some (false, 24#5, 7, 0x8000#64) ∧
    (24#5).toNat + 7 < 32 ∧ multiple (regs [(9, 0x8000#64)] user) (.stmT4 7#3 9#5 24#5 0#48) = some (true, 24#5, 7, 0x8000#64) ∧
    (∃ fs, Finds (fun a => (regs [(9, 0x8000#64)] user).locate a 8 .read) ((List.range 8).map (fun k => 0x8000#64 + word (8 * k))) fs ∧
      ((regs [(9, 0x8000#64)] user).touched fs).clean 8 fs) ∧
    (∃ fs, Finds (fun a => (regs [(9, 0x8000#64)] user).locate a 8 .write) ((List.range 8).map (fun k => 0x8000#64 + word (8 * k))) fs ∧
      ((regs [(9, 0x8000#64)] user).touched fs).storePoison 8 fs fs = none) ∧
    (∃ fs x, Finds (fun a => (regs [] poisoned).locate a 8 .write) ((List.range 3).map (fun k => 0x8000#64 + word (8 * k))) fs ∧
      ((regs [] poisoned).touched fs).firstPoison 8 fs = some x ∧ ((regs [] poisoned).touched fs).storePoison 8 fs fs = some x) ∧
    (∃ fs, Finds (fun a => (regs [] poisoned).locate a 8 .write) ((List.range 4).map (fun k => 0x8000#64 + word (8 * k))) fs ∧
      ((regs [] poisoned).touched fs).storePoison 8 fs fs = none) ∧
    (∃ fs bad, locateAll (fun a => user.locate a 8 .read) ((List.range 2).map (fun k => 0x8004#64 + word (8 * k))) = (fs, some bad)) := by
  refine ⟨user_ready, by decide +kernel, by decide +kernel, by decide +kernel, ⟨_, finds_of (by decide +kernel), clean_of (by decide +kernel)⟩,
    ⟨_, finds_of (by decide +kernel), by decide +kernel⟩, poisoned_of (by decide +kernel) (by decide +kernel) (by decide +kernel),
    ⟨_, finds_of (by decide +kernel), by decide +kernel⟩, stops_of (by decide +kernel)⟩

/-- A pending format: BF16, and FP8-K, which names no elements. -/
def formatted (f : Nat) : State := { user with cpu := { user.cpu with sts := word (16 * f + 4), regs := (regs [(9, 0x8000#64)] user).cpu.regs } }

/-- Lanes of a word each in the local store and in memory, narrow elements, no mask bit, and a format without elements. -/
theorem witness_vectorAccesses :
    (∀ l, Ready (regs l sup)) ∧ (formatted 2).flows ∧ (vectorLoad (formatted 2) (.ldv ⟨false, none⟩ 1#3 9#5 0#16)).isSome = true ∧
    (vectorStore (formatted 2) (.stv ⟨false, some 1#2⟩ 9#5 1#3 0#16)).isSome = true ∧ elementOf (formatted 2) ⟨false, none⟩ = some (2, some .bf16) ∧
    elementOf (formatted 6) ⟨false, none⟩ = none ∧ elementOf (formatted 2) ⟨true, none⟩ = none ∧ (formatted 2).transferred ⟨false, some 1#2⟩ = [] ∧
    elementOf (regs [] sup) ⟨true, none⟩ = some (8, none) ∧
    (∃ fs, Finds ((formatted 2).laneFound false 2 .read) (((formatted 2).transferred ⟨false, none⟩).map
      (fun j => eaOf (formatted 2) 9#5 0#16 + word (2 * j))) fs ∧ ((formatted 2).touched fs).clean 2 fs) ∧
    (∃ fs, Finds ((regs [] sup).laneFound true 8 .write) (((regs [] sup).transferred ⟨true, none⟩).map
      (fun j => eaOf (regs [] sup) 9#5 0x40#16 + word (8 * j))) fs ∧ ((regs [] sup).touched fs).storePoison 8 fs fs = none) := by
  refine ⟨sup_ready, by unfold State.flows; decide +kernel, by decide +kernel, by decide +kernel, by decide +kernel, by decide +kernel,
    by decide +kernel, by decide +kernel, by decide +kernel, ⟨_, finds_of (by decide +kernel), clean_of (by decide +kernel)⟩,
    ⟨_, finds_of (by decide +kernel), by decide +kernel⟩⟩

/-- An element of memory that is poisoned, for a load and for a store, and one that is not aligned. -/
theorem witness_vectorStops :
    (∃ fs x, Finds ({ formatted 2 with hbm := poisoned.hbm }.laneFound false 2 .read) [0x8000#64, 0x8002#64] fs ∧
      ({ formatted 2 with hbm := poisoned.hbm }.touched fs).firstPoison 2 fs = some x ∧
      ({ formatted 2 with hbm := poisoned.hbm }.touched fs).storePoison 2 fs fs = some x) ∧
    (∃ fs bad, locateAll ((formatted 2).laneFound false 2 .read) [0x8000#64, 0x8001#64] = (fs, some bad)) ∧
    ∃ fs bad, locateAll ((formatted 2).laneFound false 2 .write) [0x8000#64, 0x8001#64] = (fs, some bad) :=
  ⟨poisoned_of (by decide +kernel) (by decide +kernel) (by decide +kernel), stops_of (by decide +kernel), stops_of (by decide +kernel)⟩

/-- The first and the last byte of the local store, and a byte beside the stored ones. -/
theorem witness_storedBytes :
    user.banksWf ∧ user.lostStacks = [] ∧ user.posted = [] ∧ 2 ^ 18 - 8 + 8 ≤ 2 ^ 18 ∧ (Loc.loc 0 0).overlaps 8 (.loc 0 8) 1 = false ∧
    (Loc.direct 0x8000).overlaps 8 (.direct 0x7FFF) 1 = false ∧ (Loc.direct 0x17000).overlaps 8 (.direct 0x8008) 1 = false := by
  unfold State.banksWf
  decide +kernel

/-- A member of the pod, the current module, a module that is none, number 64, and all ports failed. -/
theorem witness_remoteAccesses :
    (∀ l, Ready (regs l { user with pod := [0, 63] })) ∧ ({ user with pod := [0, 63] } : State).pod.contains 63 = true ∧ 63 ≠ user.modNum ∧
    user.linkDown.length < 36 ∧ user.pod.contains 63 = false ∧ 64 ≤ (64#64).toNat ∧ 36 ≤ ({ user with linkDown := List.range 36 } : State).linkDown.length ∧
    field (0x200000000000000#64) 63 57 ≠ 0 ∧ (bitOf (0x100000000000000#64) 56 = true ∧ (0x100000000000000#64).toNat % 8 = 0) ∧
    (field (0x8004#64) 63 57 = 0 ∧ bitOf (0x8004#64) 56 = false ∧ (0x8004#64).toNat % 8 ≠ 0) ∧
    (field (0xFFFFFFFFFFFFF8#64) 63 56 = 0 ∧ (0xFFFFFFFFFFFFF8#64).toNat % 8 = 0) :=
  ⟨fun l => regs_ready (s := user) rfl (user_ready l), by decide +kernel⟩

/-- A full word and an empty one, and a poisoned one. -/
theorem witness_fullEmptyAccesses :
    (∀ l, Ready (regs l user)) ∧ Ready (regs [(9, 0x8000#64)] poisoned) ∧
    (fullEmpty (regs [(9, 0x8000#64)] user) (.ldfe 8#5 9#5 0#16)).isSome = true ∧
    (∃ l va c, (regs [(9, 0x8000#64)] user).locate 0x8000#64 8 .both = .at_ l va c ∧ ((regs [(9, 0x8000#64)] user).fullAt l &&
      !(regs [(9, 0x8000#64)] user).anyPoison l 8) = true) ∧
    (∃ l va c, (regs [(9, 0x8000#64)] { user with hbm := { user.hbm with empty := [0x1000] } }).locate 0x8000#64 8 .both = .at_ l va c ∧
      (!(regs [(9, 0x8000#64)] { user with hbm := { user.hbm with empty := [0x1000] } }).fullAt l) = true) ∧
    (∃ l va c, (regs [(9, 0x8000#64)] poisoned).locate 0x8000#64 8 .both = .at_ l va c ∧
      (regs [(9, 0x8000#64)] poisoned).anyPoison l 8 = true) := by
  refine ⟨user_ready, regs_ready (s := user) rfl (user_ready _), by decide +kernel, at_of (by decide +kernel), at_of (by decide +kernel),
    at_of (by decide +kernel)⟩

/-- An atomic on the same words, and the join scope with and without a live join. -/
theorem witness_atomicsAndFences :
    (∀ l, Ready (regs l user)) ∧ (atomicForm (regs [(9, 0x8000#64)] user) (.aadd .pod 8#5 9#5 10#5 0#16)).isSome = true ∧
    (∃ l va c, (regs [(9, 0x8000#64)] user).locate 0x8000#64 8 .both = .at_ l va c ∧
      (!(regs [(9, 0x8000#64)] user).anyPoison l 8) = true) ∧
    user.liveJoin (field user.cpu.jmem 47 0) = none ∧ Scope.sys ∈ [Scope.mod, .node, .pod, .part, .lnch, .join, .sys] := by
  refine ⟨user_ready, by decide +kernel, at_of (by decide +kernel), by decide +kernel⟩

/-- A walked block with a record: absent, resident, marked, pinned once, at the pin bound. -/
def blocked (b : Block) : State :=
  { user with dies := [(0, { nextRec := 1, blocks := [{ b with key := blockOf 1 0 0x40008000#64 }] })] }

/-- A translation that fails. -/
theorem walkless_of {x : Walk} (h : (match x with | .ok .. => false | _ => true) = true) : ∀ c ipas, x ≠ .ok c ipas := by
  rintro c ipas rfl
  exact absurd h (by simp)

/-- An address with bit 57 set, one of the local store, one in direct memory, one that nothing maps, and a walked one; blocks that each refusal names. -/
theorem witness_hints :
    (∀ l b, Ready (regs l (blocked b))) ∧ (hintForm (regs [(9, 0x40008000#64)] user) (.bhintPf 8#5 9#5 0#16)).isSome = true ∧
    field (0x200000000000000#64) 63 57 ≠ 0 ∧ field near 63 57 = 0 ∧ bitOf near 56 = true ∧ user.part? user.cpu.part = some home ∧
    (∃ c ipas, user.lookupComp 0 home 0 0x8000 = .ok c ipas ∧ (!c.w) = true) ∧
    (∀ c ipas, user.lookupComp 0 home 0 0xC0000000 ≠ .ok c ipas) ∧
    (∃ c ipas, (blocked { key := ⟨0, 0, 0⟩, frame := .resident }).lookupComp 0 home 0 0x40008000 = .ok c ipas ∧ c.w = true) ∧
    ((blocked { key := ⟨0, 0, 0⟩, frame := .resident }).block? 0 (blockOf 1 0 0x40008000#64)).any (fun b => b.frame == .resident) = true ∧
    ((blocked { key := ⟨0, 0, 0⟩, pins := 255 }).block? 0 (blockOf 1 0 0x40008000#64)).any (fun b => b.pins == 255) = true ∧
    home.pquota = 256 ∧ user.marks 0 1 < 256 ∧ user.pinned 0 1 < 256 := by
  refine ⟨fun l b => regs_ready (s := user) rfl (user_ready l), by decide +kernel, by decide +kernel, by decide +kernel, by decide +kernel, by decide +kernel,
    walk_of (by decide +kernel), walkless_of (by decide +kernel), walk_of (by decide +kernel), by decide +kernel⟩


/-! ### Witnesses: engines and joins -/

theorem move_of {x : MoveCheck} {p : State → List Word → Bool} (h : (match x with | .ok s w => p s w | _ => false) = true) :
    ∃ s w, x = .ok s w ∧ p s w = true := by
  cases x with
  | ok s w => exact ⟨s, w, rfl, h⟩
  | _ => exact absurd h (by simp)

theorem refusal_of {x : MoveCheck} {p : Word → Bool} (h : (match x with | .refuse r => p r | _ => false) = true) : ∃ r, x = .refuse r ∧ p r = true := by
  cases x with
  | refuse r => exact ⟨r, rfl, h⟩
  | _ => exact absurd h (by simp)

/-- A mailbox 0 of core 0 with an owner and some words. -/
def boxed (owner : Option CtxId) (ws : List Nat) : State :=
  { user with cores := [(0, { supMode := .running, slots := [(0, 0)], mail := { owner, words := ws.map word } :: List.replicate 3 {} })] }

/-- A copy of 32 bytes. -/
def copyWords : List Nat := [0x8000, 0x9000, 32, 0, 0, 0, 0, 0, 0, 0, 0, 0, 0, 0, 0, 0]

theorem moveStops_of {x : MoveCheck} (h : (match x with | .stopped _ => true | _ => false) = true) : ∃ s, x = .stopped s := by
  cases x with
  | stopped s => exact ⟨s, rfl⟩
  | _ => exact absurd h (by simp)

/-- Records of each size that nothing maps, and those in walked memory (R94). -/
theorem witness_recordStops :
    (∀ n ∈ [32, 64, 128, 256], ∃ s1, sup.readRecord 0xC0000000#64 n = .stopped s1) ∧
    (∀ n ∈ [32, 64, 128, 256], sup.readRecord 0x40000000#64 n = .walked) ∧ (0xC0000000#64).toNat % 256 = 0 ∧ (0x40000000#64).toNat % 256 = 0 := by
  refine ⟨?_, ?_, by decide +kernel⟩
  all_goals
    intro n hn
    simp only [List.mem_cons, List.not_mem_nil, or_false] at hn
    rcases hn with rfl | rfl | rfl | rfl
  all_goals first | exact recordStops_of (by decide +kernel) | exact recordWalked_of (by decide +kernel)

/-- A free mailbox, the strand's own and another's; a copy that is accepted with room for it and without, one that is not aligned and one of
no bytes. -/
theorem witness_movements :
    (∀ o w, Ready (boxed o w)) ∧ ((boxed none []).core 0).box 0 = { words := [] } ∧ (((boxed (some (.strand 0)) copyWords).core 0).box 0).owner = some user.cur ∧
    (((boxed (some (.strand 1)) []).core 0).box 0).owner = some (.strand 1) ∧ CtxId.strand 1 ≠ user.cur ∧ (user.core 0).box 3 = {} ∧
    moveForm (.copy 0#2 8#5) = some (0, 0#2, 8#5) ∧ user.part? user.cpu.part = some home ∧
    (moveAligned 0 [0x8001#64, 0x9000#64, 32#64]).find? (fun x => x.2.toNat % x.1 ≠ 0) = some (32, 0x8001#64) ∧
    (∃ r, (boxed (some (.strand 0)) copyWords).checkMove home 0 ((copyWords.set 2 0).map word) = .refuse r ∧ (r == refused 2) = true) ∧
    (∃ s1 prm, (boxed (some (.strand 0)) copyWords).checkMove home 0 (copyWords.map word) = .ok s1 prm ∧
      decide ((s1.die s1.here).waiting 1 < 64 ∧ s1.journalFull s1.here = false ∧ field (nextPc s1.cpu.pc s1.cpu.lineN) 63 57 = 0) = true) ∧
    64 ≤ ({ requests := List.replicate 64 ({ from_ := ⟨0, 0, 0#64, 1, 0, false⟩, kind := 0, words := [], seq := 1 } : Move) } : Die).waiting 1 := by
  refine ⟨fun o w => ready_of (s := user) rfl ⟨user_noPrefix, user_flows, user_barrel⟩,
    eight (by decide +kernel) ⟨?_, ?_, by decide +kernel⟩⟩
  · exact refusal_of (by decide +kernel)
  · exact move_of (p := fun s1 _ => decide ((s1.die s1.here).waiting 1 < 64 ∧ s1.journalFull s1.here = false ∧
      field (nextPc s1.cpu.pc s1.cpu.lineN) 63 57 = 0)) (by decide +kernel)

/-- Lease words at the bounds: one and 16 engines, no period, 10 and 10,000 ns; words past them; quota met and passed; counters allotted and
not; a triggered copy with a threshold, and without. -/
def allotting : State := { sup with parts := [{ home with trigBase := [(0, 16)], trign := 16 }] }

theorem witness_leasesAndTriggers :
    (∀ l, Ready (regs l user) ∧ Ready (regs l sup) ∧ Ready (regs l allotting)) ∧ (regs [] user).cpu.sup = false ∧ (regs [] sup).cpu.sup = true ∧
    (∀ w ∈ [0x100#64, 0x1000#64, 0x271000001000#64, 0xA00001000#64, 0x117#64], LeaseWord w false) ∧ LeaseWord 0x1000#64 true ∧
    (∀ w ∈ [0#64, 0x1100#64, 0x118#64, 0x900000100#64, 0x271100000100#64, 0x120#64], ¬ LeaseWord w false) ∧ ¬ LeaseWord 0xA00000100#64 true ∧
    home.dies.contains (field (0x117#64) 4 0) = false ∧ home.dies.contains 0 = true ∧ (({} : Die).held 1).length + field (0x1000#64) 12 8 ≤ home.mquota ∧
    { home with mquota := 15 }.mquota < (({} : Die).held 1).length + field (0x1000#64) 12 8 ∧
    field (0x1FFFF#64) 63 17 = 0 ∧ field (0x20000#64) 63 17 ≠ 0 ∧ field (0xFFFFFFFFFFFF#64) 63 48 = 0 ∧ field (0x1000000000000#64) 63 48 ≠ 0 ∧
    allotting.part? 1 = some { home with trigBase := [(0, 16)], trign := 16 } ∧
    { home with trigBase := [(0, 16)], trign := 16 }.allotted 16 = true ∧ { home with trigBase := [(0, 16)], trign := 16 }.allotted 31 = true ∧
    { home with trigBase := [(0, 16)], trign := 16 }.allotted 15 = false ∧ { home with trigBase := [(0, 16)], trign := 16 }.allotted 32 = false ∧
    (near + 64#64).toNat % 128 ≠ 0 ∧ near.toNat % 128 = 0 ∧
    (∃ s1 ws, (locals 0 (pack copyWords) 128 allotting).readRecord near 128 = .ok s1 ws ∧
      (match s1.checkMove { home with trigBase := [(0, 16)], trign := 16 } 0 ws with
        | .ok s2 _ => decide ((s2.die 0).armed.length < 2048 ∧ s2.journalFull 0 = false) | _ => false) = true) ∧
    (field (0x01000010#64) 63 24 ≠ 0 ∧ field (0x01000010#64) 23 20 = 0 ∧ field (0x01000010#64) 19 17 = 0 ∧ field (0x01000010#64) 16 12 < 24 ∧
      24 ≤ field (0x01018010#64) 16 12 ∧ 24 ≤ field (0x18000#64) 16 12) ∧
    (field (0x10#64) 63 24 = 0 ∨ field (0x10#64) 23 20 ≠ 0) ∧ (field (0x1100010#64) 63 24 = 0 ∨ field (0x1100010#64) 23 20 ≠ 0) := by
  refine ⟨fun l => ⟨user_ready l, sup_ready l, regs_ready (s := sup) rfl (sup_ready l)⟩, by decide +kernel, by decide +kernel, ?_,
    by unfold LeaseWord; decide +kernel, ?_, by unfold LeaseWord; decide +kernel,
    eight (by decide +kernel) (four (by decide +kernel) ⟨by decide +kernel, by decide +kernel, by decide +kernel, ?_, by decide +kernel⟩)⟩
  · intro w hw
    simp only [List.mem_cons, List.not_mem_nil, or_false] at hw
    rcases hw with rfl | rfl | rfl | rfl | rfl <;> unfold LeaseWord <;> decide +kernel
  · intro w hw
    simp only [List.mem_cons, List.not_mem_nil, or_false] at hw
    rcases hw with rfl | rfl | rfl | rfl | rfl | rfl <;> unfold LeaseWord <;> decide +kernel
  · exact record_of (p := fun s1 ws => match s1.checkMove { home with trigBase := [(0, 16)], trign := 16 } 0 ws with
      | .ok s2 _ => decide ((s2.die 0).armed.length < 2048 ∧ s2.journalFull 0 = false) | _ => false) (by decide +kernel)

/-- A set of one tile of quad 0, live on die 0. -/
def oneTile : AccSet := { gen := 1, die := 0, q0 := 0, nq := 1, t0 := 0, nt := 1 }
def tiled : State := { sup with dies := [(0, { nextRec := 1, tiles := [(0, 1)], accGen := 1 })] }

/-- A task of one tile and one k-block in FP32, with its parameter records behind it. -/
def taskWords : List Nat :=
  [0x8000, 0x9000, 0x100000000000080, 0x0000100000001000, 0x0000002000800080, oneTile.handle.toNat, 0, 0, 0, 0, 0, 0, 0, 0, 0, 0]
    ++ (List.replicate 3 [0x3F80000000000000, 0x7F7FFFFF, 0, 0]).flatten

/-- An `ENCK` request whose parameter record nothing maps, in a mailbox and in memory; a task whose tensors' records nothing maps, and one whose
records lie in walked memory. -/
def enckWords (prm : Nat) : List Nat := [0x8000, 0x9000, 1024, 0, 0, 0, 0, 0, prm, 0, 0, 0, 0, 0, 0, 0]
theorem witness_nestedRecords :
    (∃ s1, (boxed (some (.strand 0)) (enckWords 0xC0000000)).checkMove home 3 ((enckWords 0xC0000000).map word) = .stopped s1) ∧
    (∃ s1 ws, (locals 0 (pack (enckWords 0xC0000000)) 128 sup).readRecord near 128 = .ok s1 ws ∧
      (match s1.checkMove home 3 ws with | .stopped _ => true | _ => false) = true) ∧
    (∃ s1 ws, (locals 0 (pack (taskWords.set 2 0xC0000000)) 256 tiled).readRecord near 128 = .ok s1 ws ∧
      (bitOf ((taskOf s1 ws []).w 7) 45 == false && taskShape 0 (taskOf s1 ws []) && s1.taskRefusal home (taskOf s1 ws []) != some (refused 2) &&
        (match s1.readRecords ((taskOf s1 ws []).w 2) 3 with | .stopped _ => true | _ => false)) = true) ∧
    (∃ s1 ws, (locals 0 (pack (taskWords.set 2 0x40000000)) 256 tiled).readRecord near 128 = .ok s1 ws ∧
      (bitOf ((taskOf s1 ws []).w 7) 45 == false && taskShape 0 (taskOf s1 ws []) && s1.taskRefusal home (taskOf s1 ws []) != some (refused 2) &&
        (match s1.readRecords ((taskOf s1 ws []).w 2) 3 with | .walked => true | _ => false)) = true) := by
  refine ⟨moveStops_of (by decide +kernel), record_of (p := fun s1 ws => match s1.checkMove home 3 ws with | .stopped _ => true | _ => false) (by decide +kernel),
    record_of (p := fun s1 ws => bitOf ((taskOf s1 ws []).w 7) 45 == false && taskShape 0 (taskOf s1 ws []) && s1.taskRefusal home (taskOf s1 ws []) != some (refused 2) &&
        (match s1.readRecords ((taskOf s1 ws []).w 2) 3 with | .stopped _ => true | _ => false)) (by decide +kernel),
    record_of (p := fun s1 ws => bitOf ((taskOf s1 ws []).w 7) 45 == false && taskShape 0 (taskOf s1 ws []) && s1.taskRefusal home (taskOf s1 ws []) != some (refused 2) &&
        (match s1.readRecords ((taskOf s1 ws []).w 2) 3 with | .walked => true | _ => false)) (by decide +kernel)⟩

/-- A chain whose number 1 is the youngest that is older than its history, and tasks of it that wait. -/
def longChain : Chain := { part := 1, next := 65538 }
def queuedTask (seq : Nat) : Task :=
  { part := 1, seq, order := seq, from_ := ⟨0, 0, 0#64, 1, 0, false⟩, words := taskWords.map word, prm := [], kb := 0 }

/-- The task accepted, of the wrong shape, of a set that is not live, and for a full queue; a number that is queued, one that is done, one that
no task has had, one of a waiting task that is older than the history and the next, and words past their bounds. -/
theorem witness_tasks :
    (∀ l s, s.cpu = sup.cpu → Ready (regs l s)) ∧ (near + 64#64).toNat % 128 ≠ 0 ∧ near.toNat % 128 = 0 ∧ 24 ≤ (24#64).toNat ∧ (23#64).toNat < 24 ∧
    (∃ s1 ws, (locals 0 (pack taskWords) 256 tiled).readRecord near 128 = .ok s1 ws ∧
      (bitOf ((taskOf s1 ws []).w 7) 45 == false && taskShape 0 (taskOf s1 ws []) && s1.taskRefusal home (taskOf s1 ws []) != some (refused 2) &&
      (match s1.readRecords ((taskOf s1 ws []).w 2) 3 with
        | .ok s2 prm => tensorsOk (taskOf s1 ws prm) && (s2.taskRefusal home (taskOf s1 ws prm)).isNone && !s2.chainBusy 0 home
            && !(enqueued s2 0 (taskOf s1 ws prm)).lateBind (accepted s2 0 (taskOf s1 ws prm))
        | _ => false)) = true) ∧
    (∃ s1 ws, (locals 0 (pack (taskWords.set 5 0)) 256 tiled).readRecord near 128 = .ok s1 ws ∧
      (taskShape 0 (taskOf s1 ws []) && s1.taskRefusal home (taskOf s1 ws []) == some (refused 3)) = true) ∧
    (∃ s1 ws, (locals 0 (pack (taskWords.set 4 0)) 256 tiled).readRecord near 128 = .ok s1 ws ∧ (!taskShape 0 (taskOf s1 ws [])) = true) ∧
    tiled.chainBusy 0 { home with tquota := 0 } = true ∧
    (field (0x18000000000001#64) 63 53 ≠ 0 ∨ 24 ≤ field (0x18000000000001#64) 52 48) ∧ field (0x17000000000001#64) 63 53 = 0 ∧
    field (0x17000000000001#64) 52 48 < 24 ∧ home.dies.contains 23 = false ∧ home.dies.contains 0 = true ∧
    (chainOf (({ chains := [{ part := 1, next := 3, hist := [(1, 0, 4)] }] } : Die)).chains 1).next ≤ field (3#64) 47 0 ∧
    field (2#64) 47 0 < (chainOf (({ chains := [{ part := 1, next := 3, hist := [(1, 0, 4)] }] } : Die)).chains 1).next ∧
    ((1 + 65536 < longChain.next ∧ longChain.next ≤ 2 + 65536) ∧ ([1, 2].all fun n =>
      (({ sup with dies := [(0, { chains := [longChain], tasks := [queuedTask 1, queuedTask 2] })] } : State).task? 0 1 n).isSome) = true) ∧
    ({ part := 1, next := 3, hist := [(1, 0, 4)] } : Chain).outcome 1 = some (0, 4) ∧ ({ part := 1, next := 3, hist := [(1, 0, 4)] } : Chain).outcome 2 = none := by
  refine ⟨fun l s h => regs_ready h (sup_ready l), by decide +kernel, by decide +kernel, by decide +kernel, by decide +kernel, record_of (p := fun s1 ws =>
      bitOf ((taskOf s1 ws []).w 7) 45 == false && taskShape 0 (taskOf s1 ws []) && s1.taskRefusal home (taskOf s1 ws []) != some (refused 2) &&
      (match s1.readRecords ((taskOf s1 ws []).w 2) 3 with
        | .ok s2 prm => tensorsOk (taskOf s1 ws prm) && (s2.taskRefusal home (taskOf s1 ws prm)).isNone && !s2.chainBusy 0 home
            && !(enqueued s2 0 (taskOf s1 ws prm)).lateBind (accepted s2 0 (taskOf s1 ws prm))
        | _ => false)) (by decide +kernel),
    record_of (p := fun s1 ws => taskShape 0 (taskOf s1 ws []) && s1.taskRefusal home (taskOf s1 ws []) == some (refused 3)) (by decide +kernel),
    record_of (p := fun s1 ws => !taskShape 0 (taskOf s1 ws [])) (by decide +kernel),
    by decide +kernel⟩

/-- A task bound to member 1 of a join that is over: it is accepted, and killed at once. -/
def lateJoin : Join :=
  { idx := 0, gen := 1, from_ := ⟨0, 0, 0#64, 1, 0, false⟩, at_ := 0x9000#64, words := [], weights := [1, 1], members := [{}, {}], state := 2 }
def lateTiled : State := { tiled with dies := [(0, { nextRec := 1, tiles := [(0, 1)], accGen := 1, joins := [lateJoin], joinGen := 1 })] }
def boundWords : List Nat := (taskWords.set 7 (2 ^ 41)).set 9 (2 ^ 56 + 2 ^ 32)

theorem witness_lateTask :
    ∃ s1 ws, (locals 0 (pack boundWords) 256 lateTiled).readRecord near 128 = .ok s1 ws ∧
      (bitOf ((taskOf s1 ws []).w 7) 45 == false && taskShape 0 (taskOf s1 ws []) && s1.taskRefusal home (taskOf s1 ws []) != some (refused 2) &&
      (match s1.readRecords ((taskOf s1 ws []).w 2) 3 with
        | .ok s2 prm => tensorsOk (taskOf s1 ws prm) && (s2.taskRefusal home (taskOf s1 ws prm)).isNone && !s2.chainBusy 0 home
            && (enqueued s2 0 (taskOf s1 ws prm)).lateBind (accepted s2 0 (taskOf s1 ws prm))
        | _ => false)) = true :=
  record_of (p := fun s1 ws =>
      bitOf ((taskOf s1 ws []).w 7) 45 == false && taskShape 0 (taskOf s1 ws []) && s1.taskRefusal home (taskOf s1 ws []) != some (refused 2) &&
      (match s1.readRecords ((taskOf s1 ws []).w 2) 3 with
        | .ok s2 prm => tensorsOk (taskOf s1 ws prm) && (s2.taskRefusal home (taskOf s1 ws prm)).isNone && !s2.chainBusy 0 home
            && (enqueued s2 0 (taskOf s1 ws prm)).lateBind (accepted s2 0 (taskOf s1 ws prm))
        | _ => false)) (by decide +kernel)

/-- Requests for a set: bits that are zero set, a core past the last, quads past the last and outside the partition, all tiles of a quad
taken, and the first tile that fits. -/
theorem witness_accumulatorSets :
    (field (0x10000000#64) 63 28 ≠ 0 ∧ 6144 ≤ field (0x1800#64) 12 0 ∧ 63 < field (0x100FC#64) 12 0 % 256 / 4 + (field (0x100FC#64) 20 16 + 1) - 1) ∧
    (home.hasQuad 1 0 = false ∧ (∀ q < 1, home.hasQuad 0 (0 + q) = true) ∧ sup.part? sup.cpu.part = some home ∧ stray.part? stray.cpu.part = none) ∧
    (∀ t0, ¬ (t0 + 1 ≤ 16 ∧ ∀ q < 1, ∀ t < 1, lookup (16 * (0 + q) + t0 + t) ((List.range 16).map (fun i => (i, 1))) = none)) ∧
    (1 + 1 ≤ 16 ∧ ∀ q < 1, ∀ t < 1, lookup (16 * (0 + q) + 1 + t) (tiled.die 0).tiles = none) ∧
    ∀ t < 1, ¬ (t + 1 ≤ 16 ∧ ∀ q < 1, ∀ u < 1, lookup (16 * (0 + q) + t + u) (tiled.die 0).tiles = none) := by
  refine ⟨by decide +kernel, by decide +kernel, ?_, by decide +kernel, by decide +kernel⟩
  rintro t0 ⟨h, g⟩
  have h1 : ∀ t0 < 16, lookup t0 ((List.range 16).map (fun i => (i, 1))) ≠ none := by decide +kernel
  exact h1 t0 (by omega) (by simpa using g 0 (by omega) 0 (by omega))

/-- The tile locked until a completion word is delivered, and a task that names the set; a poisoned element. -/
def lockedTile : State := { sup with dies := [(0, { nextRec := 1, tiles := [(0, 1)], accGen := 1, late := [⟨⟨0, 0, 0#64, 1, 0, false⟩, 4, 0#64, 0#64, 1, 0#64, 0#64, .none, [0], none⟩] })] }
def poisonedTile : State := { sup with dies := [(0, { nextRec := 1, tiles := [(0, 1)], accGen := 1, acc := ({} : Bank).setPoison 0 true })] }

theorem witness_accumulatorStops :
    (lockedTile.accLive oneTile.handle = true ∧ lockedTile.tileLocked 0 0 = true ∧ 0 ∈ (accSet oneTile.handle).tiles) ∧
    (poisonedTile.accLive oneTile.handle = true ∧ poisonedTile.tileLocked 0 0 = false ∧ (poisonedTile.die 0).acc.elemsPoisoned 0 16 = true) ∧
    (tiled.die 0).acc.elemsPoisoned 0 16 = false ∧ ∀ t ∈ (accSet oneTile.handle).tiles, tiled.tileLocked 0 t = false := by
  decide +kernel

/-- A handle that is live and two that are not, the last segment of its tile and the first past it, a locked tile. -/
theorem witness_accumulators :
    (∀ l s, s.cpu = sup.cpu → Ready (regs l s)) ∧ tiled.accLive oneTile.handle = true ∧ tiled.accLive (oneTile.handle + word (2 ^ 40)) = false ∧
    (accSet oneTile.handle).die = tiled.here ∧ (∀ t ∈ (tiled.die 0).tasks, t.w 5 ≠ oneTile.handle) ∧ tiled.tileLocked 0 0 = false ∧
    field (0x3FF#64) 63 19 = 0 ∧ field (0x3FF#64) 18 14 < (accSet oneTile.handle).nq ∧ field (0x3FF#64) 13 10 < (accSet oneTile.handle).nt ∧
    (accSet oneTile.handle).nt ≤ field (0x400#64) 13 10 ∧ (accSet oneTile.handle).nq ≤ field (0x4000#64) 18 14 ∧ field (0x80000#64) 63 19 ≠ 0 ∧
    tiled.banksWf := by
  refine ⟨fun l s h => regs_ready h (sup_ready l), ?_⟩
  unfold State.banksWf
  decide +kernel

/-- A control block of one head of one step, one state element and one channel in FP32. -/
def runWords : List Nat :=
  [0x8000, 0x8100, 0x8200, 0x8300, 0, 0, 0x8400, 0x8500, 0, 0, 0x0000000400000004, 0x0000000400000004, 0x0000000100000004, 0x0001000100000001, 1]
    ++ List.replicate 17 0

/-- The run accepted, of the wrong shape and turned away; a run that runs, one that is done, and words past their bounds. -/
theorem witness_stateSpaceRuns :
    (∀ l s, s.cpu = sup.cpu → Ready (regs l s)) ∧ (near + 128#64).toNat % 256 ≠ 0 ∧ near.toNat % 256 = 0 ∧ 24 ≤ (24#64).toNat ∧ (23#64).toNat < 24 ∧
    (∃ s1 ws, (locals 0 (pack runWords) 256 sup).readRecord near 256 = .ok s1 ws ∧
      (runShape (runOf s1 ws) && (s1.runRefusal home 0 (runOf s1 ws)).isNone && !s1.chainBusy 0 home) = true) ∧
    (∃ s1 ws, (locals 0 (pack (runWords.set 6 0)) 256 sup).readRecord near 256 = .ok s1 ws ∧ (!runShape (runOf s1 ws)) = true) ∧
    (∃ s1 ws, (locals 0 (pack runWords) 256 sup).readRecord near 256 = .ok s1 ws ∧
      (runShape (runOf s1 ws) && s1.runRefusal home 23 (runOf s1 ws) == some (refused 4)) = true) ∧
    sup.chainBusy 0 { home with tquota := 0 } = true ∧
    (∃ r, ({ sup with dies := [(0, { runs := [{ part := 1, seq := 1, order := 0, from_ := ⟨0, 0, 0#64, 1, 0, false⟩, words := [], done := [0], started := true }] })] } : State).run? 0 1 1
      = some r ∧ (r.started && r.active.all (fun u => u.hold == .none)) = true) ∧
    sup.run? 0 1 1 = none ∧ sup.runUndelivered 0 1 = false ∧ ({ part := 1, next := 3, hist := [(1, 0, 4)] } : Chain).outcome 1 = some (0, 4) := by
  refine ⟨fun l s h => regs_ready h (sup_ready l), by decide +kernel, by decide +kernel, by decide +kernel, by decide +kernel,
    record_of (p := fun s1 ws => runShape (runOf s1 ws) && (s1.runRefusal home 0 (runOf s1 ws)).isNone && !s1.chainBusy 0 home) (by decide +kernel),
    record_of (p := fun s1 ws => !runShape (runOf s1 ws)) (by decide +kernel),
    record_of (p := fun s1 ws => runShape (runOf s1 ws) && s1.runRefusal home 23 (runOf s1 ws) == some (refused 4)) (by decide +kernel),
    by decide +kernel, some_of (p := fun (r : Run) => r.started && r.active.all (fun u => u.hold == .none)) (by decide +kernel), by decide +kernel⟩


theorem got_of {x : Got} {p : State → Nat → Bool} (h : (match x with | .val s v => p s v | _ => false) = true) : ∃ s v, x = .val s v ∧ p s v = true := by
  cases x with
  | val s v => exact ⟨s, v, rfl, h⟩
  | _ => exact absurd h (by simp)

/-- A word that an agent may write whichever composite it uses: its cached composites are what a walk finds, and it is permitted. -/
def calmAgent (s : State) (a : Agent) (va : Word) : Bool :=
  field va 63 57 == 0 && !bitOf va 56 && match s.part? a.part with
    | some p => walkSure s a.die p a.asid va.toNat && match s.walk none p a.asid va.toNat with
      | .ok c ipas => (s.cached a.die p.num a.asid va.toNat).all (fun e => e.seen va.toNat == c && e.ipas == ipas)
          && (match s.permit c ipas .write with | .ok _ _ => true | _ => false)
      | _ => false
    | none => false

theorem put_calm {s : State} {a : Agent} {va : Word} (h : calmAgent s a va = true) (v n : Nat) : ∃ t, s.enginePut a va v n = .ok t := by
  unfold calmAgent at h
  simp only [Bool.and_eq_true, beq_iff_eq, Bool.not_eq_true'] at h
  unfold State.enginePut State.engineFind State.translate
  rw [h.1.1, h.1.2]
  cases hp : s.part? a.part with
  | none => rw [hp] at h; simp at h
  | some p =>
    rw [hp] at h
    have h2 := h.2
    simp only [Bool.and_eq_true] at h2
    cases hw : s.walk none p a.asid va.toNat with
    | ok c ipas =>
      simp only [hw, Bool.and_eq_true] at h2
      simp only [lookup_calm h2.1 hw h2.2.1]
      cases he : s.permit c ipas .write with
      | ok c ipas =>
        by_cases h3 : c.w = true
        · simp [h3]
        · by_cases h4 : c.ar = true ∨ 2199023255552 ≤ c.pa + va.toNat % 4096 <;> simp [h3, h4]
      | _ => simp [he] at h2
    | _ => simp [hw] at h2

/-- A write of one sector. -/
theorem write_calm {s : State} {a : Agent} {va : Word} {n : Nat} (hs : sectors va n = [(va, n)]) (h : calmAgent s a va = true) (v : Nat) :
    ∃ t, s.engineWriteVa a va v n = (t, none) := by
  obtain ⟨t, ht⟩ := put_calm h (v % 2 ^ (8 * n)) n
  exact ⟨t, by simp [State.engineWriteVa, hs, State.putPieces, ht]⟩

/-- The join on die 0. -/
def withJoin (j : Join) : State := { sup with dies := [(0, { nextRec := 1, joins := [j], joinGen := 1 })] }

/-- A state whose context's JMEM is a word. -/
def asMember (s : State) (w : Word) : State := { s with cpu := { s.cpu with jmem := w } }

/-- The join on die 0, the context bound to a member of it. -/
def joined (j : Join) (m : Nat) : State := asMember (withJoin j) (word (m * 2 ^ 56 + 2 ^ 32))

theorem asMember_ready {s : State} (w : Word) (h : Ready s) : Ready (asMember s w) := by
  obtain ⟨h1, h2, h3⟩ := h
  unfold Ready State.noPrefix State.flows Thread.pfxf Thread.pfxr asMember at *
  exact ⟨h1, h2, h3⟩

theorem regs_all {l : List (Nat × Word)} {s : State} (h : Ready s) : Ready (regs l s) := by
  obtain ⟨h1, h2, h3⟩ := h
  refine ⟨regs_noPrefix h1, regs_flows h2, ?_⟩
  unfold regs
  exact h3

theorem joined_ready (l : List (Nat × Word)) (j : Join) (m : Nat) : Ready (regs l (joined j m)) :=
  regs_all (asMember_ready _ (ready_of (s := sup) (t := withJoin j) rfl ⟨sup_noPrefix, sup_flows, sup_barrel⟩))

/-- A state with a join of the record at `va` in the table of die 1, and what Clove's write of its fields there finds (R368, R393, R411). -/
def tabled (s : State) (va : Word) : State :=
  s.setDie 1 { s.die 1 with joinGen := 1, joins := (s.die 1).joins ++ [{ quorum with from_ := s.origin, at_ := va }] }
def clove (s : State) : Agent := s.origin.agent 1 5
/-- A supervisor context of a partition of two dies. -/
def wide : State := { sup with parts := [{ home with dies := [0, 1] }] }
def waitsWriting (va : Word) (s : State) : Bool :=
  match (tabled s va).engineWriteVa (clove s) (va + 64#64) 1 192 with
  | (t, some f) => (match t.engineStop (clove s) .write f with
    | (_, .wait _) => true
    | _ => false)
  | _ => false

/-- The record of such a join accepted, of the wrong shape, of a quorum past its weights, of another die, and with no room. -/
theorem witness_joinMaking :
    (∀ l s, s.cpu = sup.cpu → Ready (regs l s)) ∧ (near + 128#64).toNat % 256 ≠ 0 ∧ near.toNat % 256 = 0 ∧ 24 ≤ (24#64).toNat ∧ (23#64).toNat < 24 ∧
    (∃ s1 ws, (locals 0 (pack (quorum.words.map (·.toNat))) 256 sup).readRecord near 256 = .ok s1 ws ∧
      (joinShape { quorum with words := ws.take 8 } && ({ quorum with words := ws.take 8 } : Join).w 3 == 0#64 && ({ quorum with words := ws.take 8 } : Join).nmem == 2
        && decide (({ quorum with words := ws.take 8 } : Join).quorum ≤ 2) && (home.formRefusal 0 (ws.getD 5 0#64)).isNone && decide (home.jquota ≠ 0)
        && !s1.journalFull 0) = true) ∧
    (∃ s1 ws, (bytes 0x17000 0x85F 8 (bytes 0x8000 (pack (quorum.words.map (·.toNat))) 256 wide)).readRecord 0x8000#64 256 = .ok s1 ws ∧
      waitsWriting 0x8000#64 s1 = true) ∧
    joinShape { quorum with words := quorum.words.set 7 0#64 } = false ∧ 2 < ({ quorum with words := quorum.words.set 7 0x30002#64 } : Join).quorum ∧
    home.dies.contains 23 = false ∧ { home with jquota := 0 }.jquota ≤ ((({} : Die).joins.filter (fun k => k.from_.part == 1)).length) := by
  refine ⟨fun l s h => regs_ready h (sup_ready l), four (by decide +kernel) ?_⟩
  refine ⟨record_of (p := fun s1 ws =>
      joinShape { quorum with words := ws.take 8 } && ({ quorum with words := ws.take 8 } : Join).w 3 == 0#64 && ({ quorum with words := ws.take 8 } : Join).nmem == 2
        && decide (({ quorum with words := ws.take 8 } : Join).quorum ≤ 2) && (home.formRefusal 0 (ws.getD 5 0#64)).isNone && decide (home.jquota ≠ 0)
        && !s1.journalFull 0) (by decide +kernel),
    record_of (p := fun s1 _ => waitsWriting 0x8000#64 s1) (by decide +kernel),
    by decide +kernel⟩

/-- Bytes that are read. -/
theorem bytes_of {x : BytesRead} {p : State → List Nat → Bool} (h : (match x with | .ok s bs => p s bs | _ => false) = true) :
    ∃ s bs, x = .ok s bs ∧ p s bs = true := by
  cases x with
  | ok s bs => exact ⟨s, bs, rfl, h⟩
  | _ => exact absurd h (by simp)
theorem bytesStop_of {x : BytesRead} (h : (match x with | .stopped _ => true | _ => false) = true) : ∃ s, x = .stopped s := by
  cases x with
  | stopped s => exact ⟨s, rfl⟩
  | _ => exact absurd h (by simp)
theorem bytesWalked_of {x : BytesRead} (h : (match x with | .walked => true | _ => false) = true) : x = .walked := by
  cases x with
  | walked => rfl
  | _ => exact absurd h (by simp)

/-- A record that nothing maps and one in walked memory; a weight table that nothing maps, one in walked memory and one that is read. -/
theorem witness_joinReads :
    (∃ s1, sup.readRecord 0xC0000000#64 256 = .stopped s1) ∧ sup.readRecord 0x40000000#64 256 = .walked ∧
    (∃ s2, sup.readBytes 0xC0000000#64 2 = .stopped s2) ∧ sup.readBytes 0x40000000#64 2 = .walked ∧
    (∃ s2 wt, (locals 0 0x201 2 sup).readBytes near 2 = .ok s2 wt ∧ (wt == [1, 2]) = true) ∧
    ({ quorum with words := quorum.words.set 3 near } : Join).w 3 ≠ 0#64 :=
  ⟨recordStops_of (by decide +kernel), recordWalked_of (by decide +kernel), bytesStop_of (by decide +kernel), bytesWalked_of (by decide +kernel),
    bytes_of (p := fun _ wt => wt == [1, 2]) (by decide +kernel), by decide +kernel⟩

/-- A bound member of the join, and of one that is over. -/
def bound (s : MemberState) : Join := { quorum with members := [{}, { strand := some 0xFFFFFF, state := s }] }

/-- The strand's member that acts, the last member and the first past it, a member that is taken, one that has arrived, and a contribution of
the whole slot from the local store. -/
theorem witness_joinMembers :
    (∀ l j m, Ready (regs l (joined j m))) ∧ (joined quorum 1).liveJoin 0 = none ∧ (joined quorum 1).joinOf (2 ^ 32) 0 quorum ∧
    (∃ d j, (joined { quorum with from_ := ⟨0, 0, 0#64, 2, 0, false⟩ } 1).liveJoin (2 ^ 32) = some (d, j) ∧ j.from_.part ≠ 1) ∧
    quorum.nmem ≤ 2 ∧ 1 < quorum.nmem ∧
    (∃ s : State, s = { joined quorum 1 with cpu := sup.cpu } ∧ s.liveJoin (field s.cpu.jmem 47 0) = none ∧ (quorum.member 1).strand = none ∧
      (quorum.member 1).state ≠ .arrived ∧ (quorum.member 1).state ≠ .killed ∧ (quorum.member 1).failed = false ∧ quorum.state = 0 ∧
      field (quorum.slot 1) 63 56 = 0 ∧ (∃ s1, s.engineWriteVa (quorum.agent 0) (quorum.slot 1) 0 quorum.sstr = (s1, none))) ∧
    ¬ ((bound .open_).member 1).strand = none ∧ field (0x1000000000000#64) 63 48 ≠ 0 ∧ (joined (bound .open_) 1).memberActs 0 (bound .open_) 1 ∧
    ¬ (joined (bound .arrived) 1).memberActs 0 (bound .arrived) 1 ∧
    (∃ s1 s2 s3 src old, ((joined (bound .open_) 1).release .part).sourceRead (sectors near 16) = (s1, .ok src) ∧
      s1.slotStop ((bound .open_).agent 0) ((bound .open_).slot 1) ((bound .open_).slot 1 + word 0) 16 = none ∧
      s1.engineRead ((bound .open_).agent 0) ((bound .open_).slot 1 + word 0) 16 = .val s2 old ∧
      s2.engineWriteVa ((bound .open_).agent 0) ((bound .open_).slot 1 + word 0) src 16 = (s3, none)) ∧
    ({ bound .open_ with replay := some 1 } : Join).inReplay 1 = false ∧ (bound .open_).replay = none ∧ ((bound .open_).member 1).state ≠ .arriving ∧
    ((joined (bound .open_) 1).release .part).boundTasks ((bound .open_).handle 0) 1 = [] := by
  refine ⟨joined_ready, by decide +kernel, ?_, ?_, by decide +kernel, by decide +kernel, ⟨_, rfl, four (by decide +kernel) <| ⟨by decide +kernel,
    by decide +kernel, by decide +kernel, write_calm (by decide +kernel) (by decide +kernel) _⟩⟩, by decide +kernel, by decide +kernel, ?_, ?_, ?_, by decide +kernel⟩
  · unfold State.joinOf
    decide +kernel
  · obtain ⟨x, h, e⟩ := some_of (x := (joined { quorum with from_ := ⟨0, 0, 0#64, 2, 0, false⟩ } 1).liveJoin (2 ^ 32))
      (p := fun x => decide (x.2.from_.part ≠ 1)) (by decide +kernel)
    exact ⟨x.1, x.2, h, of_decide_eq_true e⟩
  · unfold State.memberActs State.joinOf
    decide +kernel
  · unfold State.memberActs State.joinOf
    decide +kernel
  · obtain ⟨s2, old, h, e⟩ := got_of (x := (((joined (bound .open_) 1).release .part).sourceRead (sectors near 16)).1.engineRead ((bound .open_).agent 0)
        ((bound .open_).slot 1 + word 0) 16) (p := fun s _ => calmAgent s ((bound .open_).agent 0) ((bound .open_).slot 1 + word 0)) (by decide +kernel)
    obtain ⟨s3, h3⟩ := write_calm (n := 16) (by decide +kernel) e 0
    exact ⟨_, s2, s3, 0, old, Prod.ext rfl (by decide +kernel), by decide +kernel, h, h3⟩

/-- An access that stops. -/
theorem error_of {α : Type} {x : State × Except α Nat} (h : (match x.2 with | .error _ => true | .ok _ => false) = true) : ∃ s f, x = (s, .error f) := by
  rcases x with ⟨s, f | v⟩
  · exact ⟨s, f, rfl⟩
  · exact absurd h (by simp)
theorem stop_of {x : State × Option Found} (h : x.2.isSome = true) : ∃ s f, x = (s, some f) := by
  rcases x with ⟨s, f | f⟩
  · exact absurd h (by simp)
  · exact ⟨s, f, rfl⟩

/-- The join with its slots where nothing is mapped, with a quorum of one, and with a poisoned slot; a member that is killed once its
contribution has begun, one that is arriving, and a task bound to it. -/
def strayJoin : Join := { quorum with words := quorum.words.set 1 0xC0000000#64 }
def easyJoin : Join := { bound .open_ with words := quorum.words.set 7 0x10002#64 }
def dirtySlot : State := { joined (bound .open_) 1 with hbm := sup.hbm.setPoison ((bound .open_).slot 1).toNat true }
def begun : State := { joined (bound .killed) 1 with cpu := { (joined (bound .killed) 1).cpu with begun := true } }
/-- Such a member of a join that has been freed since. -/
def freed : State := { begun with dies := [(0, { (begun.die 0) with joins := [], closing := [bound .killed] })] }
def tasked : State :=
  { joined (bound .open_) 1 with
    dies := [(0, { nextRec := 1, joins := [bound .open_], joinGen := 1, tasks := [{ part := 1, seq := 1, order := 0, from_ := ⟨0, 0, 0#64, 1, 0, false⟩, words := boundWords.map word, prm := [] }] })] }

/-- A slot that stops a binding, a source and a slot that stop a contribution, one that goes on after a kill, an arrival that waits for a task,
and one that reaches the quorum. -/
theorem witness_joinStops :
    (∃ s1 f, ({ joined strayJoin 1 with cpu := sup.cpu } : State).engineWriteVa (strayJoin.agent 0) (strayJoin.slot 1) 0 strayJoin.sstr = (s1, some f)) ∧
    ((0xC0000000#64).toNat % (bound .open_).e = 0 ∧ near.toNat % (bound .open_).e = 0 ∧ 0 + (bound .open_).count ≤ (bound .open_).count ∧ (bound .open_).count ≠ 0) ∧
    (∃ s1 f, ((joined (bound .open_) 1).release .part).sourceRead (sectors 0xC0000000#64 16) = (s1, .error f)) ∧
    (((dirtySlot.release .part).sourceRead (sectors near 16)).1.slotStop ((bound .open_).agent 0) ((bound .open_).slot 1) ((bound .open_).slot 1 + word 0) 16).isSome = true ∧
    (begun.joinOf (field begun.cpu.jmem 47 0) 0 (bound .killed) ∧ begun.cpu.begun = true ∧ ((bound .killed).member (field begun.cpu.jmem 63 56)).strand = some begun.cpu.sid) ∧
    (freed.liveJoin (field freed.cpu.jmem 47 0) = none ∧ freed.begunJoin (field freed.cpu.jmem 47 0) = some (0, bound .killed) ∧
      freed.cpu.begun = true ∧ (bound .killed).from_.part = freed.cpu.part ∧ ((bound .killed).member (field freed.cpu.jmem 63 56)).strand = some freed.cpu.sid ∧
      ({ freed with dies := [] } : State).begunJoin (field freed.cpu.jmem 47 0) = none ∧
      ({ freed with cpu := { freed.cpu with part := 2 } } : State).cpu.part ≠ (bound .killed).from_.part) ∧
    ((joined (bound .arriving) 1).memberActs 0 (bound .arriving) 1 ∧ (bound .arriving).replay = none ∧ ((bound .arriving).member 1).state = .arriving) ∧
    (tasked.memberActs 0 (bound .open_) 1 ∧ ((tasked.release .part).boundTasks ((bound .open_).handle 0) 1).length = 1) ∧
    ((bound .open_).modMember 1 (fun x => { x with state := .arrived, waits := [] })).reached = false ∧
    (easyJoin.modMember 1 (fun x => { x with state := .arrived, waits := [] })).reached = true := by
  unfold State.memberActs State.joinOf
  exact ⟨stop_of (by decide +kernel), by decide +kernel, error_of (by decide +kernel), by decide +kernel, by decide +kernel, by decide +kernel, by decide +kernel,
    by decide +kernel⟩

/-- `JWAIT` on a join that is not complete: the waits of `witness_waits`; on one that is, and on one of another partition. -/
theorem witness_joinWaits :
    (waiting.joinOf (waiting.rd 10#5).toNat 0 quorum ∧ packed.joinOf (packed.rd 10#5).toNat 0 quorum ∧ (10#5 : Reg) ≠ 0#5 ∧ quorum.state < 2) ∧
    (joined { quorum with state := 2 } 0).joinOf (2 ^ 32) 0 { quorum with state := 2 } ∧ waiting.liveJoin 0 = none ∧ isUtell waiting.cpu.core = false ∧
    waiting.noPrefix := by
  unfold State.joinOf State.noPrefix
  decide +kernel

/-- The join in each of its states, selectors at their bounds, addresses of a roster, and a roster to replay. -/
theorem witness_joinCalls :
    (∀ l j m, Ready (regs l (joined j m))) ∧ (∀ j ∈ [quorum, { quorum with state := 1 }, { quorum with state := 2 }, { quorum with state := 4 }, bound .arrived],
      (joined j 0).joinOf (2 ^ 32) 0 j) ∧
    field (0x200#64) 63 9 ≠ 0 ∧ (bitOf (2#64) 8 = false ∧ quorum.nmem ≤ field (2#64) 7 0) ∧ (field (0x1FF#64) 63 9 = 0 ∧ bitOf (0x1FF#64) 8 = true) ∧
    field (1#64) 7 0 < quorum.nmem ∧ (bound .arrived).arrived 1 = true ∧ quorum.arrived 1 = false ∧ quorum.inReplay 1 = false ∧
    (0x8010#64).toNat % 32 ≠ 0 ∧ (0x8000#64).toNat % 32 = 0 ∧
    (∃ fs, Finds (fun va => (joined { quorum with state := 2 } 0).locate va 8 .write) ((List.range 4).map (fun i => near + word (8 * i))) fs ∧
      ((joined { quorum with state := 2 } 0).touched fs).storePoison 8 fs fs = none) ∧
    (∃ x ∈ (bound .arrived).members, x.state = .arrived) ∧ (∀ x ∈ quorum.members, x.state ≠ .arrived) ∧ quorum.replay = none ∧
    (∃ s1 ws, (locals 0 3 32 (joined quorum 0)).readRecord near 32 = .ok s1 ws ∧
      decide (packNat 64 (ws.map BitVec.toNat) = 3 ∧ 3 < 2 ^ quorum.nmem ∧ quorum.fill ≠ 1) = true) ∧
    (regs [] sup).cpu.sup = true ∧ (regs [] user).cpu.sup = false ∧ quorum.weight = 0 ∧ (bound .arrived).weight ≠ 0 ∧ (9#5 : Reg) ≠ 0#5 := by
  refine ⟨joined_ready, ?_, eight (by decide +kernel) <| ⟨by decide +kernel, ⟨_, finds_of (by decide +kernel), by decide +kernel⟩, by decide +kernel, by decide +kernel, by decide +kernel,
    record_of (p := fun s1 ws => decide _) (by decide +kernel), by decide +kernel⟩⟩
  unfold State.joinOf
  decide +kernel

/-- A strand with a kill and a handler. -/
def killed (khnd : Word) : State := { waiting with cpu := { waiting.cpu with kill := [9#64, 8#64], khnd } }
/-- The state in which its handler is met. -/
def atHandler (khnd : Word) : State :=
  let u := (killed khnd).abandonWait.freeMail 0 (.strand 0)
  { u with cpu := { u.cpu with sts := u.cpu.sts &&& ~~~0x1F4#64, jmem := 0#64, kill := [8#64] } }

/-- A kill with a handler in the worked line, with none, with bit 57 set, at index 0 and past the line, in bytes that are no line, and in a line
that traps and one that fails its walk. -/
theorem witness_killsTaken :
    (killed 0x101#64).cur = .strand 0 ∧ (killed 0x101#64).cpu.kill = 9#64 :: [8#64] ∧
    (atHandler 0x104#64).lineOf (lineAddr 0x104#64) = .ok workedAt worked ∧ field (0x104#64) 5 0 ≤ worked.length ∧ field (0x104#64) 63 57 = 0 ∧
    (0x104#64 : Word) ≠ 0#64 ∧ (killed 0#64).cpu.khnd = 0#64 ∧ field (0x200000000000001#64) 63 57 ≠ 0 ∧ field (0x100#64) 5 0 = 0 ∧
    worked.length < field (0x105#64) 5 0 ∧
    (let s := bytes 0x1000 0x3F 1 (atHandler 0x1001#64); s.lineOf (lineAddr 0x1001#64) = .illegal) ∧
    (atHandler 0x40000001#64).lineOf (lineAddr 0x40000001#64) = .trap 0x13 0x40000000#64 ∧
    ∃ f, (atHandler 0xC0000001#64).lineOf (lineAddr 0xC0000001#64) = .fail f :=
  eight (by decide +kernel) (four (by decide +kernel) (fails_of (by decide +kernel)))

theorem witness_killMasks :
    Ready (regs [] user) ∧ ({ user with cpu := { user.cpu with sts := user.cpu.sts &&& ~~~0x2000#64 } } : State).cpu.killable = false ∧
    ({ dying with cpu := { dying.cpu with sts := dying.cpu.sts &&& ~~~0x2000#64 } } : State).cpu.killable = true ∧ Ready dying := by
  refine ⟨user_ready _, by decide +kernel, by decide +kernel, ?_⟩
  unfold Ready State.noPrefix State.flows
  decide +kernel


/-! ### Witnesses: traps, supervisors, translation and partitions -/

/-- A strand whose supervisor context waits in `WFE`, and supervisor contexts without a report and with one. -/
theorem witness_trapsTaken :
    user.cur = .strand 0 ∧ (0x3F : Nat) < 0x40 ∧ sup.cur = .sup 0 ∧ (sup.core 0).events.filter (fun e => e.cause == 0x42) = [] ∧
    ({ user with sups := [(0, { sup.cpu with wait := .idle })] } : State).thread? (.sup user.cpu.core) = some { sup.cpu with wait := .idle } ∧
    (user.core user.cpu.core).supMode = .running ∧ ({ sup.cpu with wait := .idle } : Thread).wait = .idle ∧
    ((({ sup with cores := [(0, { supMode := .running, events := [⟨0x42, 0, 0#64, 0#64, 0#64⟩] })] } : State).core 0).events.filter
      (fun e => e.cause == 0x42)).length = 1 := by decide +kernel

theorem witness_synchronousTraps :
    user.noPrefix ∧ user.isSup = false ∧ user.cur = .strand 0 ∧ sup.noPrefix ∧ sup.cur = .sup 0 ∧ (∃ m, Instr.trap 15#4 = .trap m) ∧
    (∃ n, Instr.svc 0x7FFF#16 = .svc n) :=
  ⟨user_noPrefix, by decide +kernel, by decide +kernel, sup_noPrefix, by decide +kernel, ⟨_, rfl⟩, ⟨_, rfl⟩⟩

/-- A supervisor context that holds a trap of slot 0, or has events; the strand of slot 0 waits for it. -/
def handling (held : Option (Nat × Word)) (events : List SupEvent) : State :=
  { sup with
    cores := [(0, { supMode := .running, slots := [(0, 0)], held, events })]
    threads := [(0, { user.cpu with wait := .suspended })]
    parts := [{ home with stopped := held.isNone }]
    cpu := { sup.cpu with tpc := 0x102#64 } }

/-- No event and one; the oldest event, and a gang stop behind it; a trap to dispose of with its strand and without; resumption in the worked
line, at its first and last instruction, at its index 0 and past its end, at bytes that are no line, and at a target with bit 57 set. -/
theorem witness_trapReturns :
    user.noPrefix ∧ user.flows ∧ user.cpu.sup = false ∧ sup.noPrefix ∧ sup.flows ∧ sup.cpu.sup = true ∧ (sup.core 0).held = none ∧ (sup.core 0).events = [] ∧
    ((handling none [⟨0x12, 3, 0x101#64, 0#64, 0#64⟩]).core 0).events = [⟨0x12, 3, 0x101#64, 0#64, 0#64⟩] ∧
    ((handling none [⟨0x12, 3, 0x101#64, 0#64, 0#64⟩, ⟨0x3F, 0, 0#64, 1#64, 0#64⟩]).core 0).events
      = [⟨0x12, 3, 0x101#64, 0#64, 0#64⟩] ++ ⟨0x3F, 0, 0#64, 1#64, 0#64⟩ :: [] ∧ (0x12 : Nat) ≠ 0x3F ∧
    ((handling (some (0, 0x101#64)) []).core 0).held = some (0, 0x101#64) ∧ lookup 0 ((handling (some (0, 0x101#64)) []).core 0).slots = some 0 ∧
    lookup 1 ((handling (some (1, 0x101#64)) []).core 0).slots = none ∧ (handling (some (0, 0x101#64)) []).cur = .sup 0 ∧
    (handling (some (0, 0x101#64)) []).thread? (.strand 0) = some { user.cpu with wait := .suspended } ∧
    (((handling (some (0, 0x101#64)) []).modThread (.strand 0) (fun t => t.clearPrefix)).focus (.strand 0)).lineOf 0x100#64 = .ok workedAt worked ∧
    lineAddr 0x101#64 = 0x100#64 ∧ 1 ≤ field (0x101#64) 5 0 ∧ field (0x104#64) 5 0 ≤ worked.length ∧ field (0x200000000000101#64) 63 57 ≠ 0 ∧
    (field (0x100#64) 5 0 = 0 ∧ worked.length < field (0x105#64) 5 0) ∧
    (((bytes 0x1000 0x3F 1 (handling (some (0, 0x101#64)) [])).modThread (.strand 0) (fun t => t.clearPrefix)).focus (.strand 0)).lineOf 0x1000#64 = .illegal := by
  refine ⟨user_noPrefix, user_flows, by decide +kernel, sup_noPrefix, sup_flows, ?_⟩
  decide +kernel

/-- A launch of the partition and one of another, slots with and without a strand, a destination that is none, register numbers 0, 1, 31 and
32, counts 0, 1, 65,536 and 65,537, a stopped and a running partition, a full log. -/
def launchOf (part : Nat) : State :=
  { sup with dies := [(0, { launches := [{ idx := 1, gen := 0, part, asid := 0, desc := [0x101#64, 2#64], by_ := some 0, parent := 0#64 }] })] }

/-- The supervised strand with another stack: one that nothing maps, and one at an address with bit 57 set. -/
def stackedAt (ssp : Word) : State := { handling none [] with threads := [(0, { user.cpu with wait := .suspended, ssp })] }
def unqueued (s : State) : State := s.modCore 0 (fun k => { k with
  held := k.held.filter (fun h => h.1 ≠ 0), events := k.events.filter (fun e => ¬ (e.cause < 0x3F ∧ e.slot = 0)) })
theorem witness_movedStacks :
    (∃ s1, ((stackedAt 0xC0000400#64).focus (.strand 0)).flush = .stopped s1 ∧ decide (s1.cpu.wait ≠ .suspended) = true) ∧
    (∃ s1, ((stackedAt 0x200000000200000#64).focus (.strand 0)).flush = .stopped s1 ∧ decide (s1.cpu.wait = .suspended) = true) ∧
    (∃ s2, (unqueued ((stackedAt 0x200000000200000#64).focus (.strand 0))).flush = .stopped s2) ∧
    ((stackedAt 0xC0000400#64).focus (.strand 0)).cpu.flushed = false ∧ (stackedAt 0xC0000400#64).slotStrand 0#64 = some 0 :=
  ⟨stops_with (p := fun s1 => decide _) (by decide +kernel), stops_with (p := fun s1 => decide _) (by decide +kernel), stopped_of (by decide +kernel),
    by decide +kernel⟩

theorem witness_supervisorServices :
    (∀ l, Ready (regs l sup)) ∧ sup.isSup = true ∧ ((launchOf 1).launch? 1#64).any (fun l => l.part == 1) = true ∧
    ((launchOf 2).launch? 1#64).any (fun l => l.part != 1) = true ∧ sup.launch? 1#64 = none ∧ sup.slotStrand 0#64 = none ∧
    (handling (some (0, 0x101#64)) []).slotStrand 0#64 = some 0 ∧ (handling none []).slotStrand 0#64 = some 0 ∧
    (handling none []).gangStopped 0 = true ∧ (handling (some (0, 0x101#64)) []).gangStopped 0 = false ∧ ((handling none []).core 0).stepping = none ∧
    place 0x1800#64 0 = none ∧ place 0x6000#64 0 = some (.core 0) ∧ home.allows (.core 0) = true ∧ home.allows (.core 256) = false ∧
    (Placed.core 0).bound = some 0 ∧ (Placed.pool 0).bound ≠ some 0 ∧
    (∃ s1, ((handling none []).focus (.strand 0)).flush = .ok s1) ∧ ((0 : Nat) = 0 ∨ 31 < 0) ∧ ((32 : Nat) = 0 ∨ 31 < 32) ∧
    24 ≤ (24#64).toNat ∧ (65536 < (65537#64).toNat ∧ (0#64).toNat = 0 ∧ 1 ≤ (65536#64).toNat ∧ (65536#64).toNat ≤ 65536) ∧
    home.dies.contains 23 = false ∧ home.logFull = false ∧
    { home with flTail := 4064, flogr := 0x20000 }.logFull = true ∧ (0x7FFF#16).toNat < 0x8000 ∧ 0x8006 < (0x8007#16).toNat := by
  refine ⟨sup_ready, eight (by decide +kernel) <| eight (by decide +kernel) <| ⟨⟨_, flush_sure (by decide +kernel)⟩, by decide +kernel⟩⟩

/-- A slice of the core's own partition, of one nanosecond and of none, after an overrun and after none; a bit past the word's fields. -/
theorem witness_sharingCores :
    (∀ l, Ready (regs l user) ∧ Ready (regs l sup)) ∧ (regs [] user).cpu.sup = false ∧ (regs [] sup).cpu.sup = true ∧ sup.part? 1 = some home ∧
    home.stopped = false ∧ { home with stopped := true }.stopped = true ∧ (sup.owner 0).map (·.num) = some (field (0x100000001#64) 47 32) ∧
    field (0x100000001#64) 63 48 = 0 ∧ field (0x1000000000000#64) 63 48 ≠ 0 ∧ (sup.owner 0).map (·.num) ≠ some (field (0x200000001#64) 47 32) ∧
    field (0x100000000#64) 31 0 = 0 ∧ 0 < (word (field (0x100000001#64) 31 0)).toInt ∧ (0xFFFFFFFFFFFFFFFF#64 : Word).toInt < 0 ∧
    (word (field (0x100000001#64) 31 0) + 0xFFFFFFFFFFFFFFFF#64).toInt ≤ 0 := by
  refine ⟨fun l => ⟨user_ready l, sup_ready l⟩, ?_⟩
  decide +kernel

/-- A cached composite of partition 2. -/
def cached : TlbEntry := ⟨0, 2, 0, 0x8000, ⟨0x8000, 0x8000, true, true, true, false, false, false, false, false, 4096, 0, 0, 0, 4096, false, false, (true, true, true)⟩, []⟩

/-- Address space 255 and 256; a partition with the hypervisor grant and without; a composite of the partition in the TLB. -/
theorem witness_invalidations :
    (∀ l, Ready (regs l user) ∧ Ready (regs l sup)) ∧ (regs [] user).cpu.sup = false ∧ (regs [] sup).cpu.sup = true ∧ 256 ≤ (256#64).toNat ∧
    (255#64).toNat < 256 ∧ sup.hypGrant = true ∧ ({ sup with parts := [{ home with hyp := false }] } : State).hypGrant = false ∧
    cached ∈ (({ sup with tlb := [cached] } : State).invalidate 1 .all).tlb := by
  refine ⟨fun l => ⟨user_ready l, sup_ready l⟩, by decide +kernel, by decide +kernel, by decide +kernel, by decide +kernel, by decide +kernel,
    by decide +kernel, ?_⟩
  exact List.mem_singleton.mpr rfl

/-- An entry of the partition's queue on die 0 that has not been popped, with token 2^16. -/
def faulted : State :=
  { sup with dies := [(0, { faults := [{ idx := 0, gen := 1, part := 1, hyp := false, asid := 0, va := 0x7000, ipa := 0, reason := 0, kinds := 16, srcs := 1, wcnt := 1, popped := false }] })] }

/-- Words at their bounds and past them, the hypervisor's queue with the grant, a doorbell that can be armed, an entry and none, a token that
no live entry has. -/
theorem witness_faultQueues :
    (∀ l s, s.cpu = sup.cpu → Ready (regs l s)) ∧ (regs [] user).cpu.sup = false ∧ (regs [] sup).cpu.sup = true ∧ sup.part? 1 = some home ∧
    (field (0x117#64) 63 9 = 0 ∧ field (0x117#64) 7 5 = 0 ∧ field (0x117#64) 4 0 < 24 ∧ (28#5).toNat ≤ 28) ∧ ¬ field (0x18#64) 4 0 < 24 ∧
    field (0x200#64) 63 9 ≠ 0 ∧ (0x8004#64).toNat % 8 ≠ 0 ∧ (0x8008#64).toNat % 8 = 0 ∧ home.dies.contains 0 = true ∧ home.dies.contains 23 = false ∧
    home.hyp = true ∧ ((faulted.die 0).faults.find? (fun e => e.hyp == false && !e.popped && (false || e.part == 1))).isSome = true ∧
    ((sup.die 0).faults.find? (fun e => e.hyp == false && !e.popped && (false || e.part == 1))) = none ∧
    (∃ c, sup.quiet 0x8008#64 = some c ∧ (!c.w && c.wr) = true) ∧ (∃ c, faulted.quiet 0x8008#64 = some c ∧ (!c.w && c.wr) = true) ∧
    ((regs [] sup).rd 9#5 = 0#64 ∧ (regs [(9, 0x8008#64)] sup).rd 9#5 ≠ 0#64) ∧ ((1#64).toNat ≤ 1 ∧ field (0x17000100010000#64) 63 56 = 0 ∧ field (0x17000100010000#64) 55 48 < 24) ∧
    ((faulted.die 0).faults.find? (fun e => e.token == field (0x10000#64) 31 0)).isSome = true ∧ (∀ e ∈ (faulted.die 0).faults, e.token ≠ field (0x10001#64) 31 0) ∧
    field (0x100010000#64) 47 32 = 1 := by
  refine ⟨fun l s h => regs_ready h (sup_ready l), eight (by decide +kernel) <| four (by decide +kernel) <| ⟨by decide +kernel, some_of (p := fun (c : Comp) => !c.w && c.wr) (by decide +kernel),
    some_of (p := fun (c : Comp) => !c.w && c.wr) (by decide +kernel), by decide +kernel⟩⟩

/-- Requests for the leaf at 1 GiB of the guest stage and of the hypervisor stage, with and without a comparison; one of a level past 4, and one
below a leaf. -/
theorem witness_pageMaps :
    (∀ l s, s.cpu = sup.cpu → Ready (regs l s)) ∧ (regs [] user).cpu.sup = false ∧ (regs [] sup).cpu.sup = true ∧ (near + 16#64).toNat % 32 ≠ 0 ∧
    near.toNat % 32 = 0 ∧
    (∃ s1 ws, (locals 0 (pack [0x40000000, 0x4000005F, 0x20000, 0]) 32 sup).readRecord near 32 = .ok s1 ws ∧
      (mapOk ws && !bitOf (ws.getD 2 0#64) 24 && !bitOf (ws.getD 2 0#64) 25 &&
        match s1.mapEntry home false (field (ws.getD 2 0#64) 15 0) (ws.getD 0 0#64).toNat (field (ws.getD 2 0#64) 23 16) with
        | .ok (at_, tleaf) => at_ == 0x17008 && tleaf == some 0x11000 | .error _ => false) = true) ∧
    (∃ s1 ws, (locals 0 (pack [0x40000000, 0x4000005F, 0x3020000, 7]) 32 sup).readRecord near 32 = .ok s1 ws ∧
      (mapOk ws && bitOf (ws.getD 2 0#64) 24 && bitOf (ws.getD 2 0#64) 25 && home.hyp &&
        match s1.mapEntry home true (field (ws.getD 2 0#64) 15 0) (ws.getD 0 0#64).toNat (field (ws.getD 2 0#64) 23 16) with
        | .ok (at_, tleaf) => word (s1.hbmWord at_) != ws.getD 3 0#64 && tleaf.isNone | .error _ => false) = true) ∧
    (∃ s1 ws, (locals 0 (pack [0, 0, 0x50000, 0]) 32 sup).readRecord near 32 = .ok s1 ws ∧ (!mapOk ws) = true) ∧
    (∃ s1 ws, (locals 0 (pack [0x40001000, 0x4000105F, 0x40000, 0]) 32 sup).readRecord near 32 = .ok s1 ws ∧
      (mapOk ws && match s1.mapEntry home false 0 0x40001000 4 with | .ok _ => false | .error _ => true) = true) := by
  refine ⟨fun l s h => regs_ready h (sup_ready l), by decide +kernel, by decide +kernel, by decide +kernel, by decide +kernel, ?_, ?_, ?_, ?_⟩
  · exact record_of (p := fun s1 ws => mapOk ws && !bitOf (ws.getD 2 0#64) 24 && !bitOf (ws.getD 2 0#64) 25 &&
        match s1.mapEntry home false (field (ws.getD 2 0#64) 15 0) (ws.getD 0 0#64).toNat (field (ws.getD 2 0#64) 23 16) with
        | .ok (at_, tleaf) => at_ == 0x17008 && tleaf == some 0x11000 | .error _ => false) (by decide +kernel)
  · exact record_of (p := fun s1 ws => mapOk ws && bitOf (ws.getD 2 0#64) 24 && bitOf (ws.getD 2 0#64) 25 && home.hyp &&
        match s1.mapEntry home true (field (ws.getD 2 0#64) 15 0) (ws.getD 0 0#64).toNat (field (ws.getD 2 0#64) 23 16) with
        | .ok (at_, tleaf) => word (s1.hbmWord at_) != ws.getD 3 0#64 && tleaf.isNone | .error _ => false) (by decide +kernel)
  · exact record_of (p := fun _ ws => !mapOk ws) (by decide +kernel)
  · exact record_of (p := fun s1 ws => mapOk ws && match s1.mapEntry home false 0 0x40001000 4 with | .ok _ => false | .error _ => true) (by decide +kernel)

/-- Node words at the bounds of die, level and index, and past each; a free node, one at the lowest level, and a split one with free halves. -/
theorem witness_partitionNodes :
    (∀ l, Ready (regs l user) ∧ Ready (regs l sup)) ∧ (regs [] user).cpu.sup = false ∧ (regs [] sup).cpu.sup = true ∧ NodeWord 0xF97#64 ∧ NodeWord 0#64 ∧
    field (0x1000#64) 63 12 ≠ 0 ∧ 24 ≤ field (0x18#64) 4 0 ∧ (4 < field (0xA0#64) 7 5 ∨ 2 ^ field (0xA0#64) 7 5 ≤ field (0xA0#64) 11 8) ∧
    (4 < field (0x100#64) 7 5 ∨ 2 ^ field (0x100#64) 7 5 ≤ field (0x100#64) 11 8) ∧ sup.hypGrant = true ∧
    ({ sup with parts := [{ home with hyp := false }] } : State).hypGrant = false ∧ sup.nodeFree 0 0 0 = true ∧ field (0xF97#64) 7 5 = 4 ∧
    sup.nodeFree 0 1 0 = false ∧ ({ sup with nodes := [⟨0, 0, 0, 1, 0⟩] } : State).stands 0 0 0 = true ∧
    ({ sup with nodes := [⟨0, 0, 0, 1, 0⟩] } : State).node? 0 0 0 = some ⟨0, 0, 0, 1, 0⟩ ∧ ({ sup with nodes := [⟨0, 0, 0, 1, 0⟩] } : State).nodeFree 0 1 0 = true ∧
    ({ sup with nodes := [⟨0, 0, 0, 1, 0⟩] } : State).nodeFree 0 1 1 = true := by
  refine ⟨fun l => ⟨user_ready l, sup_ready l⟩, ?_⟩
  unfold NodeWord
  decide +kernel


/-! ### Witnesses: events of the module and the machine as a whole -/

/-- A movement of one unit, from a source; a task of one tile; a run of one unit. -/
def moveFrom (src : Nat) (pos : Nat) : Move :=
  { from_ := ⟨0, 0, 0#64, 1, 0, false⟩, kind := 0, words := (copyWords.set 0 src).map word, seq := 1, pos }
def taskFrom (seq src kb : Nat) : Task :=
  { part := 1, seq, order := seq, from_ := ⟨0, 0, 0#64, 1, 0, false⟩, words := (taskWords.set 0 src).map word, prm := (taskWords.drop 16).map word, kb, running := true }
def runAt (seq : Nat) (u : SsmUnit) : Run :=
  { part := 1, seq, order := seq, from_ := ⟨0, 0, 0#64, 1, 0, false⟩, words := runWords.map word, done := [0], active := [u], started := true }

/-- A block of walked memory, and one of an address that no table maps. -/
def blockAt (va : Nat) (frame : FrameState) : Block := { key := ⟨1, 0, va⟩, frame, mark := some 0 }

/-- A die with work of every kind in progress: unmapped addresses lie from 2^48 on, and 2^57 is no address. -/
def busyDie : Die where
  nextRec := 3
  launches := [{ idx := 1, gen := 0, part := 1, asid := 0, desc := [0x101#64, 2#64], by_ := some 0, parent := 0#64 }]
  blocks := [blockAt 0x40008000 .absent, blockAt 0x40010000 .fetching, blockAt 0x1000000000000 .fetching, blockAt 0x40018000 .writingBack]
  engines := [(0, { part := some 1 }), (1, { part := some 1, work := some (moveFrom 0x8000 1) }), (2, { part := some 1, work := some (moveFrom (2 ^ 57) 0) }),
    (3, { part := some 1, work := some (moveFrom (2 ^ 48) 0) })]
  requests := [moveFrom 0x8000 0]
  armed := [{ cnum := 0, thresh := 1, move := moveFrom 0x8000 0, fired := true }]
  tasks := [taskFrom 1 (2 ^ 57) 0, taskFrom 2 (2 ^ 48) 0, taskFrom 3 0x8000 1]
  tiles := [(0, 1)]
  runs := [runAt 1 { quad := 0, ops := some ⟨[], [], []⟩ }, runAt 2 { quad := 0, hold := .gaveUp 0x8000 }]
  joins := [{ quorum with members := [{ failed := true }, {}] }, { quorum with idx := 1, state := 1, hold := .gaveUp 0x8000 },
    { quorum with idx := 2, state := 1, roster := 3, words := quorum.words.set 1 0x1000000000000#64, members := [{ state := .arrived }, { state := .arrived }] }]

/-- Core 0 as it reaches a control region. -/
def agent : DevAgent := user.devAgent

/-- A module with events of every kind due. -/
def busy : State where
  cpu := { sup.cpu with older := List.replicate 3 {} }
  cur := .sup 0
  now := 1000000
  threads := [(1, { sid := 1, part := 1, place := .transit 0 none none })]
  sups := [(1, { sup.cpu with core := 1, wait := .word 0 0 }), (2, { sup.cpu with core := 2, wait := .wordRetry }), (3, { sup.cpu with core := 3, wait := .remote 0 0#64 none })]
  cores := [(0, { supMode := .running }), (2, { netWait := [⟨[0#64, 0#64, 0#64, 0#64], 0, 0, 2, 0#64, 1, none, none, none⟩] }), (4, { slicing := true }),
    (5, { slicing := true, sliceEnd := true, slots := [(0, 1)] })]
  dies := [(0, busyDie), (5, { down := true })]
  parts := [home]
  hbm := tables
  posted := [⟨0, .direct 0x8000, 8, 5, .strand 1, { ctx := some (.strand 1), part := 1 }, 0⟩]
  wire := [⟨[0#64, 0#64, 0#64, 0#64], 0, 0, 2, 0#64, 1, none, none, none⟩]
  qports := [(0, ⟨1, [(7, 0)], [(7, List.replicate 16 0#64)], 63⟩), (1, ⟨1, [(7, 0)], [(7, List.replicate 16 1#64)], 63⟩)]
  rta := [(0x20000003000, 5, some (.sup 0, 0))]
  scanWait := [(1, 0, 0x40000000, 2, 0x17008, 0x11000)]
  wbTags := [(1, 5, 0x17008, 0x11000)]

theorem witness_contactEvents :
    ([.queuePortLaunch 0 7 0 (List.replicate 16 0#64), .queuePortLaunch 3 7 0 [], .queuePortServe 0, .queuePortServeOther 1, .queuePortOtherKind 0 7 0 (List.replicate 16 1#64),
      .queuePortAssignment 1 1 [], .launchStrandCreate 1, .launchSweep 1, .strandArrival 1, .messageArrival 0, .remoteMessage [] 0 0 0, .arrivalQueueAdmit 2,
      .remoteBarrierArrival 1 7 0 0 2 false 0#64, .remoteAccessArrival 1 1 0 0x8000 8 none, .hostAccess 0 7 0x8000 8 none, .storagePortAccess 1 0 0x8000 8 none,
      .remoteAccessRetry 0, .hostAccessRetry 0, .storagePortRetry 0, .wordRequestAnswer (.sup 3) 0, .ldxTimeout (.sup 3)] : List Event).all (fun e =>
      ({ busy with subject := some e } : State).subject == some e && (contactEvent { busy with subject := some e } e).isSome) = true ∧
    ([.postedWriteDrain 0 0, .spillSector 0, .slotPatienceExpiry (.sup 1), .wordWaiterRetry (.sup 2), .fetchStart 0, .fetchDone 0 ⟨1, 0, 0x40010000⟩,
      .fetchFault 0 ⟨1, 0, 0x1000000000000⟩, .writeBackDone 0 ⟨1, 0, 0x40018000⟩, .faultPostRetry 0, .rtaArm (.sup 0) 0x20000003000 5#64,
      .rtaActRead (.sup 0) 0x20000003000 0xFF0, .rtaArmExpiry 0x20000003000, .writeBackScan 1 0 0x40000000, .flashWriteComplete 5 true] : List Event).all (fun e =>
      ({ busy with subject := some e } : State).subject == some e && (memoryEvent { busy with subject := some e } e).isSome) = true := by
  refine ⟨?_, ?_⟩ <;> decide +kernel

theorem witness_engineEvents :
    ([.movementDispatch 0 1, .movementSegmentEnd 0 2, .movementFault 0 3, .movementComplete 0 1, .leasePeriodEnd 0 0, .triggeredEnqueue 0 1,
      .movementEngineFailure 0 1, .taskKblockEnd 0 1 1, .taskFault 0 1 2, .taskComplete 0 1 3, .engineFailure 0 0, .ssmUnitEnd 0 1 1 0, .ssmUnitFault 0 1 2 0,
      .joinDeferredArrival 0 0 0, .joinFoldDone 0 1, .joinFoldFault 0 2, .sliceExpiry 4, .sliceOverrun 5] : List Event).all (fun e =>
      ({ busy with subject := some e } : State).subject == some e && (engineEvent { busy with subject := some e } e).isSome) = true := by
  decide +kernel

theorem witness_controlEvents :
    ([.linkPortFailure 35, .dieReset 23, .dieReturn 5, .hbmStackLoss 31, .rowRemapFailure 0 0 0 64 true, .scrubPass 1 2, .localError 6143 262143, .accError 23 67108863, .parkError 1 0,
      .frameError 0 ⟨1, 0, 0⟩ 32767, .clockStretch 0 1, .vfReplan 7, .imageVerify 1 true true, .moduleMemoryInit, .moduleReset, .backgroundClearing 0,
      .virtualFunctionReset 0 32 1, .podFormation 1 [0, 1]] : List Event).all (fun e =>
      ({ busy with subject := some e } : State).subject == some e && (failureEvent { busy with subject := some e } e).isSome) = true ∧
    ([.crst 6239 1#64, .msrWrite 3#64, .msrWrite 4#64, .ahashWrite 5 0x1000#64, .ahashWrite 6 0#64, .pewcfgWrite 23 0x00009C4007D00040#64, .pewcfgWrite 24 0#64,
      .stackCounterClear 31 3 0#64, .partitionRecordCommit 2 0#64, .partitionDissolve 1 0#64, .partitionDissolve 2 0#64, .hmapStore agent 1 0 8 0#64,
      .pinqStore agent 1 0x1000 8 256#64, .controlRegionWrite agent 1 0x1108 8 32#64, .controlRegionWrite agent 1 0x1208 4 0#64] : List Event).all (fun e =>
      ({ busy with subject := some e } : State).subject == some e && (controlEvent { busy with subject := some e } e).isSome) = true ∧
    (serviceRegister 0 3#64).any (fun e => (controlEvent { busy with subject := some (.serviceSpaceWrite 0 8 3#64) } e).isSome) = true ∧
    (0x1000080 ≤ 0x101FFF0 ∧ 0x101FFF0 < 0x1020000 ∧ 0x101FFF0 % 8 = 0 ∧ 0x101FFF0 % 128 ≠ 120) ∧
    (serviceRegister 8 3#64 = none ∧ (8 < 0x1000080 ∨ 0x1020000 ≤ 8 ∨ 8 % 8 ≠ 0)) ∧
    (({ busy with subject := some (.serviceSpaceRead 0x20000 8) } : State).subject = some (.serviceSpaceRead 0x20000 8) ∧ 0x20000 % 0x100 = 0 ∧
      (4 ≠ 8 ∨ 0 % 8 ≠ 0) ∧ 0x2000008 ≤ 0x2001FF8 ∧ 0x2001FF8 < 0x2002000 ∧ 0x2001FF8 % 8 = 0) ∧
    (0x1028 < 0x1030 ∧ 0x1028 % 8 = 0 ∧ 0x11F18 < 0x12000 ∧ 0x11F18 % 0x100 < 32 ∧ 0x11F18 % 8 = 0) ∧
    ([0x1000080, 0x10000C0, 0x101FFC8, 0x101FFF8].all fun off => decide (0x1000080 ≤ off ∧ off < 0x1020000 ∧ off % 8 = 0)) = true ∧
    (serviceRegister 0x1030 0#64 = none ∧ serviceRegister 0x10020 0#64 = none ∧ serviceRegister 0x2002000 0#64 = none ∧ 0x1020000 ≤ 0x2002000) := by
  refine ⟨?_, ?_, ?_, ?_, ?_, ?_, ?_, ?_, ?_⟩ <;> decide +kernel

/-- An instruction that an encoding has, and the head and tail of one. -/
theorem witness_encodeDecode :
    (Instr.add 16#5 9#5 10#5).canonical = true ∧ (encode (.add 16#5 9#5 10#5)).isSome = true ∧ (0x2930#64).toNat < 2 ^ (16 * tailSlots (headTl 0x1070#16)) ∧
    decodeInstr 0x1070#16 0x2930#64 = .ok (.add 16#5 9#5 10#5) ∧ 2 ≤ (headOp 0x1070#16).toNat := by
  refine ⟨?_, ?_, ?_, ?_, ?_⟩ <;> decide +kernel

/-- A state with a head and tail in the latch. -/
def latched (s : State) (h : BitVec 16) (t : BitVec 64) : State := { s with cpu := { s.cpu with head := h, tail := t } }

/-- `pgmap` without SUP, a vector form on a Utell core, a wrong tail, a wrong modifier, pending prefixes where none is accepted, a register whose
latency is unmet, and nothing of all that. -/
theorem witness_issueChecks :
    (∀ i, decodeInstr 0#16 0#64 = .ok i → i = .ill 0#4) ∧ (latched user 0xF840#16 0x229#64).cpu.sup = false ∧
    isUtell ({ user with cpu := { user.cpu with core := 6144 } } : State).cpu.core = true ∧ decodeInstr 0x1080#16 0#64 = .bad .format ∧
    decodeInstr 0x1041#16 0#64 = .bad .operand ∧ ({ user.cpu with sts := 4#64 } : Thread).pfxf = true ∧ ({ user.cpu with sts := 0x100#64 } : Thread).pfxr = true ∧
    ({ user.cpu with sts := 1#64, fly := [⟨9, 0, 5, 2, 3⟩] } : Thread).chk = true ∧
    (({ user.cpu with sts := 1#64, fly := [⟨9, 0, 5, 2, 3⟩] } : Thread).undersized (user.cpu.sources false (.add 16#5 9#5 10#5))).isSome = true ∧
    (∃ sc x y z, (sc = Scope.quad ∨ sc = .sect) ∧ (Instr.bar .sect 1#5 2#5 = .bar sc x y ∨ Instr.bar .sect 1#5 2#5 = .bara sc x y z)) ∧
    badScope 0 (.add 16#5 9#5 10#5) = false ∧ user.cpu.prefixFits 0x10 = true ∧ user.cpu.chk = false ∧
    user.cpu.mustWait false 0x10 (.add 16#5 9#5 10#5) = false ∧
    ({ user.cpu with outs := [⟨[9], false, false, 0⟩] } : Thread).mustWait false 0x10 (.add 16#5 9#5 10#5) = true := by
  refine ⟨fun i h => ?_, eight (by decide +kernel) ⟨⟨.sect, 1#5, 2#5, 0#5, .inr rfl, .inl rfl⟩, by decide +kernel⟩⟩
  have e : decodeInstr 0#16 0#64 = .ok (.ill 0#4) := by decide +kernel
  rw [e] at h
  exact (Decoded.ok.inj h).symm

/-- The strand at the first instruction of the worked line, whose turn it is; and with that line held: as it was fetched, or to be fetched
again after stores that it has or has not seen. -/
def turning : State := { user with turn := some (.issue (.strand 0)) }
def held (stores : List LineStore) (stale : Bool) : State :=
  { turning with cpu := { turning.cpu with lines := [⟨turning.cpu.lineKey 0x100#64, .direct 0x100, worked, 0, stores, stale⟩] } }
def foreign (seen : Bool) : LineStore := { by_ := {}, mask := 0xFF#512, val := 0#512, seen }

theorem witness_stepRunsDecoded :
    (turning.turn = some (.issue turning.cur) ∧ turning.ready turning.cur = true ∧ turning.cpu.fresh = false ∧ turning.cpu.flushed = false) ∧
    (turning.cpu.trapDue = none ∧ turning.onlyFetch = false ∧ turning.cpu.staleCur = false ∧ field turning.cpu.pc 63 57 = 0 ∧ field turning.cpu.pc 5 0 ≠ 0) ∧
    (turning.entering.lineOf (lineAddr turning.cpu.pc) = .ok workedAt worked ∧ worked[field turning.cpu.pc 5 0 - 1]? = some ⟨0x1040#16, 0x2930#64⟩ ∧
      decodeInstr 0x1040#16 0x2930#64 = .ok (.add 16#5 9#5 10#5)) ∧
    (turning.entered workedAt worked ⟨0x1040#16, 0x2930#64⟩).issues ⟨0x1040#16, 0x2930#64⟩ (.add 16#5 9#5 10#5) ∧
    (((held [] false).cpu.copy? ((held [] false).cpu.lineKey 0x100#64)).map (·.stale) = some false ∧
      ((held [foreign true] true).cpu.copy? ((held [foreign true] true).cpu.lineKey 0x100#64)).map (·.stale) = some true ∧
      ((held [foreign true] true).cpu.copyAt 0x100#64 (.direct 0x100)).map (·.stores) = some [foreign true] ∧
      ((held [foreign false] true).cpu.copyAt 0x100#64 (.direct 0x100)).map (·.stores) = some [foreign false] ∧ turning.cpu.copy? (turning.cpu.lineKey 0x100#64) = none ∧
      turning.anyPoison (.direct 0x100) 64 = false ∧ decodeLine (bytesOf (turning.lineSeen 0x100#64 (.direct 0x100)).toNat 64) = some worked) ∧
    ∃ va c, turning.locateVirt 0x100#64 .exec = .at_ (.direct 0x100) va c := by
  refine ⟨by decide +kernel, by decide +kernel, by decide +kernel, ?_, by decide +kernel, ?_⟩
  · unfold State.issues
    decide +kernel
  · obtain ⟨l, va, c, h, e⟩ := at_of (f := turning.locateVirt 0x100#64 .exec) (p := fun l => decide (l = .direct 0x100)) (by decide +kernel)
    exact ⟨va, c, by rw [h, of_decide_eq_true e]⟩

theorem witness_memoryStaysInOrder : busy.memoryOk := by
  refine ⟨by unfold State.banksWf; decide +kernel, ?_⟩
  intro p hp core off e
  simp only [busy, List.mem_singleton] at hp
  subst hp
  exact absurd e (by simp)

/-- Does the state after one step have a property, where an instruction of `nbits` bits stands first after reset (log 13)? -/
def stepped (nbits w : Nat) (p : State → Bool) : Bool := match step (State.reset.withFetchWord nbits w) with | .next t => p t | _ => false

/-- `nop` and `add` go on to the next line and are retired (R47, R128); `ill` and `trap #5` stop the supervisor context (R247, R251). -/
theorem test_step_first :
    stepped 16 0x0100 (fun t => t.cpu.pc == 0x100000000000041#64 && (t.core 0).icnt == 1#64) = true ∧
    stepped 16 0x0000 (fun t => (t.core 0).supMode == .stopped) = true ∧
    stepped 32 0x10402930 (fun t => t.cpu.pc == 0x100000000000041#64 && (t.core 0).icnt == 1#64) = true ∧
    stepped 16 0xF005 (fun t => (t.core 0).supMode == .stopped) = true := by decide +kernel

/-- The sectors of a task's rows come in ascending order whatever the row: the scales of row 0, which lie highest, come after the data of row 1
(R235). -/
theorem test_rows_ascend :
    ([(0, 0x100#64, 2, 1), (1, 0x120#64, 2, 2), (0, 0x200#64, 1, 3)] : List (Nat × Word × Nat × Nat)) =
      [(0, 0x200#64, 1, 3), (0, 0x100#64, 2, 1), (1, 0x120#64, 2, 2)].foldr insertPiece [] := by decide +kernel

/-- A signalling BF16 not-a-number widens with its sign and payload, and NV; a quiet one and 1.0 as they are (R164, R177). -/
theorem test_widen_bf16 : widen .bf16 0xFF81 = (0xFF810000, 0x10#5) ∧ widen .bf16 0xFFC1 = (0xFFC10000, 0#5) ∧ widen .bf16 0x3F80 = (0x3F800000, 0#5) := by decide +kernel

/-- Of two stores into a line, the later one seen, a fetch shows memory but in the bits that the unseen one alone has written (R44). -/
theorem test_line_view :
    ({ key := (0#64, 0), at_ := .direct 0, insts := [], bytes := 0x11#512, stores := [⟨{}, 0xFFFF#512, 0x2222#512, false⟩, ⟨{}, 0xFF#512, 0x33#512, true⟩] } :
      LineCopy).view 0x442233#512 = 0x440033#512 := by decide +kernel

/-- During a gang stop a strand whose access was replayed is ready, and any other strand is not (R264, R415). -/
theorem test_gang_stop_replay :
    ({ user with parts := [{ home with stopped := true }] } : State).ready (.strand 0) = false ∧
    ({ user with parts := [{ home with stopped := true }], cpu := { user.cpu with again := true } } : State).ready (.strand 0) = true ∧
    user.ready (.strand 0) = true := by decide +kernel


end Sys2Proof.Tests
end

section

namespace Sys2Proof.Machine

/-! ### Division (R146, R147) -/

theorem quotient_zero (us : Bool) (a : Word) : quotient us a 0#64 = word (2 ^ 64 - 1) := rfl

theorem remainder_zero (us : Bool) (a : Word) : remainder us a 0#64 = a := rfl

theorem quotient_unsigned {a b : Word} (hb : b ≠ 0#64) : quotient true a b = a / b := by
  rw [quotient, if_neg hb, if_pos rfl, BitVec.udiv_def, word]

theorem remainder_unsigned {a b : Word} (hb : b ≠ 0#64) : remainder true a b = a % b := by
  rw [remainder, if_neg hb, if_pos rfl, BitVec.umod_def, word]

theorem quotient_signed {a b : Word} (hb : b ≠ 0#64) : quotient false a b = a.sdiv b := by
  rw [quotient, if_neg hb, if_neg Bool.false_ne_true]
  exact BitVec.eq_of_toInt_eq (by rw [wordInt, BitVec.toInt_ofInt, BitVec.toInt_sdiv])

theorem remainder_signed {a b : Word} (hb : b ≠ 0#64) : remainder false a b = a.srem b := by
  rw [remainder, if_neg hb, if_neg Bool.false_ne_true, wordInt, ← BitVec.toInt_srem, BitVec.ofInt_toInt]

/-- The one signed overflow: the quotient of −2^63 by −1 wraps, and nothing remains. -/
theorem quotient_remainder_overflow :
    quotient false (word (2 ^ 63)) (word (2 ^ 64 - 1)) = word (2 ^ 63) ∧
      remainder false (word (2 ^ 63)) (word (2 ^ 64 - 1)) = 0#64 := by decide

theorem unsigned_identity {a b : Word} (hb : b ≠ 0#64) :
    a.toNat = (quotient true a b).toNat * b.toNat + (remainder true a b).toNat := by
  rw [quotient_unsigned hb, remainder_unsigned hb, BitVec.toNat_udiv, BitVec.toNat_umod, Nat.div_add_mod']

theorem signed_identity {a b : Word} (hb : b ≠ 0#64) (fits : ¬ (a = word (2 ^ 63) ∧ b = word (2 ^ 64 - 1))) :
    a.toInt = (quotient false a b).toInt * b.toInt + (remainder false a b).toInt := by
  have fits : a ≠ BitVec.intMin 64 ∨ b ≠ -1#64 := not_and_or.mp fits
  rw [quotient_signed hb, remainder_signed hb, BitVec.toInt_sdiv_of_ne_or_ne a b fits, BitVec.toInt_srem, Int.tdiv_mul_add_tmod]

/-- A division form writes its result, and completes (R141). -/
theorem exec_div {s : State} (p : s.noPrefix) (us : Bool) (d a b : Reg) :
    exec (.div us d a b) s = .next ((s.setR d (quotient us (s.rd a) (s.rd b))).doneHold 15) := by
  show execDiv us d a b s = _
  rw [execDiv, plain_next p]

theorem exec_rem {s : State} (p : s.noPrefix) (us : Bool) (d a b : Reg) :
    exec (.rem us d a b) s = .next ((s.setR d (remainder us (s.rd a) (s.rd b))).doneHold 15) := by
  show execRem us d a b s = _
  rw [execRem, plain_next p]

theorem setR_doneHold_rd {s : State} (fl : s.flows) {d : Reg} (hd : d ≠ 0#5) (v : Word) (h : Nat) :
    ((s.setR d v).doneHold h).rd d = v := (setR_doneHold fl d v h).2.trans (if_neg hd)

/-- Settles O2: the results are `quotient` and `remainder`, which the library's division of bit vectors describes off the corners. -/
theorem divisionCorners : Obligations.DivisionCorners := by
  intro s us d a b p fl hd
  refine ⟨_, _, exec_div p us d a b, exec_rem p us d a b, ?_⟩
  rw [setR_doneHold_rd fl hd, setR_doneHold_rd fl hd]
  refine ⟨?zero, ?overflow, ?unsigned, ?signed⟩
  case zero =>
    intro hb
    rw [hb]
    exact ⟨quotient_zero us _, remainder_zero us _⟩
  case overflow =>
    rintro rfl ha hb
    rw [ha, hb]
    exact quotient_remainder_overflow
  case unsigned =>
    rintro hb rfl
    exact unsigned_identity hb
  case signed =>
    rintro hb rfl fits
    exact signed_identity hb fits

end Sys2Proof.Machine
end

section

namespace Sys2Proof.Machine

/-! ### Association lists -/

theorem lookup_insert {α β : Type} [DecidableEq α] (k k' : α) (v : β) (l : List (α × β)) :
    lookup k (insert k' v l) = if k' = k then some v else lookup k l := by
  induction l with
  | nil => rfl
  | cons p rest ih =>
    obtain ⟨a, b⟩ := p
    by_cases e : a = k'
    · subst e
      rw [insert, if_pos rfl, lookup, lookup]
      split <;> rfl
    · rw [insert, if_neg e, lookup, lookup, ih]
      by_cases h : a = k
      · rw [if_pos h, if_pos h, if_neg (fun x => e (h.trans x.symm))]
      · rw [if_neg h, if_neg h]

theorem lookup_map_value {α β : Type} [DecidableEq α] (f : α → β → β) (k : α) (l : List (α × β)) :
    lookup k (l.map (fun p => (p.1, f p.1 p.2))) = (lookup k l).map (f k) := by
  induction l with
  | nil => rfl
  | cons p rest ih =>
    rw [List.map_cons, lookup, lookup, ih]
    by_cases h : p.1 = k
    · rw [if_pos h, if_pos h, h]; rfl
    · rw [if_neg h, if_neg h]

theorem State.die_modDie (s : State) (d x : Nat) (f : Die → Die) :
    (s.modDie d f).die x = if d = x then f (s.die d) else s.die x := by
  show (lookup x (insert d (f (s.die d)) s.dies)).getD {} = _
  rw [lookup_insert]
  split <;> rfl

theorem State.core_modCore (s : State) (c x : Nat) (f : Core → Core) :
    (s.modCore c f).core x = if c = x then f (s.core c) else s.core x := by
  show (lookup x (insert c (f (s.core c)) s.cores)).getD {} = _
  rw [lookup_insert]
  split <;> rfl

/-! ### STS of a context that takes its results -/

theorem Thread.commit_sts (x : Thread) : x.commit.sts = x.sts := congrArg (·.sts) x.commit_rest

theorem Thread.receive_sts (x : Thread) (n : Nat) (v : Word) : (x.receive n v).sts = x.sts := by
  rw [Thread.receive]
  split
  next => split <;> rfl
  next => exact congrArg (·.sts) (x.put_rest n v.toNat)

theorem Thread.foldl_receive_sts (l : List (Nat × Word)) (x : Thread) :
    (l.foldl (fun t (p : Nat × Word) => t.receive p.1 p.2) x).sts = x.sts := by
  induction l generalizing x with
  | nil => rfl
  | cons p rest ih => exact (ih _).trans (x.receive_sts p.1 p.2)

/-! ### Pools, slots and STS: what an operation keeps

A lemma for each operation `op` extends what holds up to `t` to `t.op`, so that the lemmas nest as the operations do. Side conditions come
last and are found where they hold by definition. -/

/-- No pool has gained an entry, and every user slot holds what it held. -/
structure KeepsSeats (s t : State) : Prop where
  pool : ∀ d, (t.die d).pool ⊆ (s.die d).pool
  slots : ∀ c, (t.core c).slots = (s.core c).slots

/-- Moreover the issuing context's STS is as it was. -/
structure KeepsStatus (s t : State) : Prop extends KeepsSeats s t where
  sts : t.cpu.sts = s.cpu.sts

theorem KeepsSeats.refl (s : State) : KeepsSeats s s := ⟨fun _ => List.Subset.refl _, fun _ => rfl⟩

theorem KeepsSeats.trans {s t u : State} (a : KeepsSeats s t) (b : KeepsSeats t u) : KeepsSeats s u :=
  ⟨fun d => List.Subset.trans (b.pool d) (a.pool d), fun c => (b.slots c).trans (a.slots c)⟩

/-- Pools are fields of the dies, and slots of the cores. -/
theorem KeepsSeats.of_eq {s t : State} (dies : t.dies = s.dies) (cores : t.cores = s.cores) : KeepsSeats s t where
  pool d := by rw [State.die, State.die, dies]; exact List.Subset.refl _
  slots c := by rw [State.core, State.core, cores]

theorem KeepsStatus.refl (s : State) : KeepsStatus s s := ⟨KeepsSeats.refl s, rfl⟩

theorem KeepsStatus.trans {s t u : State} (a : KeepsStatus s t) (b : KeepsStatus t u) : KeepsStatus s u :=
  ⟨a.toKeepsSeats.trans b.toKeepsSeats, b.sts.trans a.sts⟩

/-- An update of neither dies nor cores, and of no STS. -/
theorem KeepsStatus.of_eq {s t u : State} (k : KeepsStatus s t) (dies : u.dies = t.dies := by rfl)
    (cores : u.cores = t.cores := by rfl) (sts : u.cpu.sts = t.cpu.sts := by rfl) : KeepsStatus s u := k.trans ⟨.of_eq dies cores, sts⟩

theorem KeepsStatus.foldl {α : Type} {f : State → α → State} (h : ∀ s a, KeepsStatus s (f s a)) {s t : State} (k : KeepsStatus s t)
    (l : List α) : KeepsStatus s (l.foldl f t) := by
  induction l generalizing t with
  | nil => exact k
  | cons a rest ih => exact ih (k.trans (h t a))

section

variable {s t : State} (k : KeepsStatus s t)
include k

theorem KeepsStatus.modDie {d : Nat} {f : Die → Die}
    (h : ∀ x, (f x).pool ⊆ x.pool := by exact fun _ => List.Subset.refl _) : KeepsStatus s (t.modDie d f) := by
  refine k.trans ⟨⟨fun x => ?_, fun _ => rfl⟩, rfl⟩
  rw [State.die_modDie]
  split
  next e => subst e; exact h _
  next => exact List.Subset.refl _

theorem KeepsStatus.mapDies {f : Nat → Die → Die}
    (h : ∀ d x, (f d x).pool ⊆ x.pool := by exact fun _ _ => List.Subset.refl _) : KeepsStatus s (t.mapDies f) := by
  refine k.trans ⟨⟨fun d => ?_, fun _ => rfl⟩, rfl⟩
  show ((lookup d (t.dies.map (fun p => (p.1, f p.1 p.2)))).getD {}).pool ⊆ ((lookup d t.dies).getD {}).pool
  rw [lookup_map_value]
  cases lookup d t.dies with
  | none => exact List.Subset.refl _
  | some x => exact h d x

theorem KeepsStatus.modCore {c : Nat} {f : Core → Core}
    (h : ∀ x, (f x).slots = x.slots := by exact fun _ => rfl) : KeepsStatus s (t.modCore c f) := by
  refine k.trans ⟨⟨fun _ => List.Subset.refl _, fun x => ?_⟩, rfl⟩
  rw [State.core_modCore]
  split
  next e => subst e; exact h _
  next => rfl

theorem KeepsStatus.modCpu {f : Thread → Thread}
    (h : ∀ x, (f x).sts = x.sts := by exact fun _ => rfl) : KeepsStatus s (t.modCpu f) :=
  k.of_eq rfl rfl (h _)

theorem KeepsStatus.modThread {c : CtxId} {f : Thread → Thread}
    (h : ∀ x, (f x).sts = x.sts := by exact fun _ => rfl) : KeepsStatus s (t.modThread c f) := by
  rw [State.modThread]
  split
  next => exact k
  next x e =>
    unfold State.setThread
    split
    next hc =>
      unfold State.thread? at e
      rw [if_pos hc, Option.some.injEq] at e
      exact k.of_eq rfl rfl ((h x).trans (congrArg Thread.sts e.symm))
    next => cases c <;> exact .of_eq k

/-! ### Memory and posted writes -/

theorem KeepsStatus.setBlock {d : Nat} {b : Block} : KeepsStatus s (t.setBlock d b) := .modDie k

theorem KeepsStatus.modBank {l : Loc} {n : Nat} {f : Bank → Nat → Bank} : KeepsStatus s (t.modBank l n f) := by
  cases l with
  | loc core off => exact .of_eq k
  | direct pa => exact .of_eq k
  | frame d key off => exact .setBlock k

theorem KeepsStatus.noteStore {w : Writer} {l : Loc} {v n : Nat} : KeepsStatus s (t.noteStore w l v n) := .of_eq k

theorem KeepsStatus.writeCopy {l : Loc} {v n : Nat} : KeepsStatus s (t.writeCopy l v n) := .modBank k

theorem KeepsStatus.drainOne {p : Posted} : KeepsStatus s (t.drainOne p) := by
  rw [State.drainOne]
  split
  next => exact .modBank (.writeCopy (.noteStore k))
  next => exact .writeCopy (.noteStore k)

theorem KeepsStatus.drain {f : Posted → Bool} : KeepsStatus s (t.drain f) :=
  .foldl (fun u p => .drainOne (p := p) (.refl u)) (.of_eq k (u := { t with posted := (splitPosted f t.posted).2 })) _

theorem KeepsStatus.setD {a : Nat} : KeepsStatus s (t.setD a) := by
  rw [State.setD]
  split
  next => exact k
  next => exact .writeCopy k

theorem KeepsStatus.engineWrite {w : Writer} {l : Loc} {v n : Nat} : KeepsStatus s (t.engineWrite w l v n) := by
  rw [State.engineWrite]
  split
  next => exact .modBank (.modBank (.modBank (.noteStore (.drain k))))
  next => exact .modBank (.modBank (.noteStore (.drain k)))

theorem KeepsStatus.setDirty {c : Comp} : KeepsStatus s (t.setDirty c) := by
  rw [State.setDirty]
  split
  next => exact .setD k
  next => exact .setD (.writeCopy (.setD k))

theorem KeepsStatus.cacheComp {d part asid va : Nat} {c : Comp} {ipas : List Nat} :
    KeepsStatus s (t.cacheComp d part asid va c ipas) := by
  rw [State.cacheComp]
  dsimp only
  split
  next => exact k
  next => exact .of_eq k

/-! ### Traps, reports and faults -/

theorem KeepsStatus.modPart {p : Nat} {f : Part → Part} : KeepsStatus s (t.modPart p f) := .of_eq k

theorem KeepsStatus.machineCheck {who code : Nat} : KeepsStatus s (t.machineCheck who code) := .of_eq k

theorem KeepsStatus.faultLog {part : Nat} {ws : List Word} : KeepsStatus s (t.faultLog part ws) := by
  rw [State.faultLog]
  split
  next => exact k
  next p _ =>
    dsimp only
    split
    next =>
      split
      next => exact .modPart k
      next => exact .modPart (.engineWrite (.setD k))
    next => exact .modPart k
    next => exact .modPart k

theorem KeepsStatus.queueEvent {c : Nat} {e : SupEvent} : KeepsStatus s (t.queueEvent c e) := by
  have joined : KeepsStatus s (t.setCore c { t.core c with events := (t.core c).events ++ [e] }) :=
    k.modCore (f := fun x => { x with events := x.events ++ [e] })
  rw [State.queueEvent]
  dsimp only
  split
  next => exact k
  next =>
    split
    next => exact .modThread joined (fun x => by split <;> rfl)
    next => exact joined

theorem KeepsStatus.supFault {c cause : Nat} {pc val : Word} : KeepsStatus s (t.supFault c cause pc val) := by
  have stopped : KeepsStatus s (t.setCore c
      { t.core c with supMode := .stopped, events := (t.core c).events.filter (fun x => x.cause != 0x42) }) :=
    k.modCore (f := fun x => { x with supMode := .stopped, events := x.events.filter (fun x => x.cause != 0x42) })
  rw [State.supFault]
  dsimp only
  exact .foldl (fun u _ => .faultLog (.refl u)) (.machineCheck (.faultLog (.modThread stopped (by exact Thread.commit_sts)))) _

theorem KeepsStatus.trapAt {cause : Nat} {pc val : Word} : KeepsStatus s (t.trapAt cause pc val) := by
  rw [State.trapAt]
  split
  next => exact .supFault k
  next =>
    dsimp only
    exact .queueEvent (.modCpu (.drain k) (by exact Thread.commit_sts))

theorem KeepsStatus.writeBell {d : Nat} {b : Bell} : KeepsStatus s (t.writeBell d b) := by
  rw [State.writeBell]
  split
  next => exact k
  next =>
    split
    next =>
      dsimp only
      split
      next => exact k
      next => exact .engineWrite (.setDirty (.cacheComp k))
    next => exact .modDie k
    next => exact k

theorem KeepsStatus.ringBell {d key : Nat} : KeepsStatus s (t.ringBell d key) := by
  rw [State.ringBell]
  split
  next => exact k
  next => exact .writeBell (.modDie k)

theorem KeepsStatus.postFault {d part asid va : Nat} {kind : Kind} {src w : Nat} {f : WalkFail} :
    KeepsStatus s (t.postFault d part asid va kind src w f).1 := by
  have faults (l : List FaultEntry) (g : List (Nat × Nat)) :
      KeepsStatus s (t.setDie d { t.die d with faults := l, faultGens := g }) :=
    k.modDie (f := fun x => { x with faults := l, faultGens := g })
  rw [State.postFault]
  dsimp only
  split
  next => exact faults _ _
  next =>
    split
    next => exact k
    next => exact .ringBell (faults _ _)

theorem KeepsStatus.faultWait {va : Word} {kind : Kind} {f : WalkFail} : KeepsStatus s (t.faultWait va kind f) := by
  rw [State.faultWait]
  exact .modCpu (.postFault k)

theorem KeepsStatus.conflictTrap {va : Word} : KeepsStatus s (t.conflictTrap va) := .trapAt (.machineCheck (.faultLog k))

theorem KeepsStatus.spillStop {va : Word} {kind : Kind} {f : Found} : KeepsStatus s (t.spillStop va kind f) := by
  cases f with
  | fail _ w => exact .faultWait k
  | conflict _ => exact .conflictTrap k
  | writeBack l =>
    rw [State.spillStop]
    exact .modCpu k
  | trap c v => exact .trapAt k
  | at_ _ _ _ | absent _ _ _ | device _ _ _ _ => exact .trapAt k

/-! ### Uses and refills -/

theorem KeepsStatus.sweepBlocks {d : Nat} : KeepsStatus s (t.sweepBlocks d) := .modDie k

theorem KeepsStatus.freeFrame {d : Nat} {b : Block} : KeepsStatus s (t.freeFrame d b) :=
  .sweepBlocks (.mapDies (.modDie (.setBlock k)))

theorem KeepsStatus.startEvict {d : Nat} {key : BlockKey} : KeepsStatus s (t.startEvict d key) := by
  rw [State.startEvict]
  split
  next => exact .drain k
  next =>
    split
    next => exact .drain k
    next =>
      split
      next => exact .freeFrame (.drain k)
      next => exact .setBlock (.drain k)

theorem KeepsStatus.noteIdle {key : BlockKey} : KeepsStatus s (t.noteIdle key) := by
  rw [State.noteIdle]
  split
  next => exact k
  next =>
    dsimp only
    split
    next => exact k
    next =>
      split
      next => exact k
      next =>
        split
        next => exact .startEvict (.setBlock k)
        next => exact .setBlock k

theorem KeepsStatus.noteIdles {l : List BlockKey} : KeepsStatus s (l.foldl State.noteIdle t) :=
  .foldl (fun u key => .noteIdle (key := key) (.refl u)) k l

theorem KeepsStatus.cacheFound {f : Found} : KeepsStatus s (t.cacheFound f) := by
  unfold State.cacheFound
  split
  next => exact .cacheComp k
  next => exact .cacheComp k
  next => exact k

theorem KeepsStatus.useBlocks {fs : List Found} : KeepsStatus s (t.useBlocks fs) := by
  rw [State.useBlocks]
  split
  next => exact k
  next =>
    dsimp only
    split
    next => exact .noteIdle (.modCpu k)
    next => exact .modCpu k

theorem KeepsStatus.touch {f : Found} : KeepsStatus s (t.touch f) := .useBlocks (.cacheFound k)

theorem KeepsStatus.spillRead {va : Word} {n : Nat} : KeepsStatus s (t.spillRead va n).1 := by
  rw [State.spillRead]
  split
  next =>
    dsimp only
    exact .touch k
  next => exact k

end

/-- The state that a spill, a fill or a refill leaves, whether it went on or stopped. -/
def Spilled.state : Spilled → State
  | .ok s | .stopped s => s

theorem KeepsStatus.refillRegs {s t : State} (k : KeepsStatus s t) : KeepsStatus s t.refillRegs.state := by
  rw [State.refillRegs]
  dsimp only
  split
  next => exact .spillStop k
  next => exact .of_eq (.spillRead (.spillRead (.spillRead k))) rfl rfl (Thread.foldl_receive_sts _ _)

/-- Another context takes its turn: dies and cores are as they were. -/
theorem KeepsSeats.focus {s t : State} (k : KeepsSeats s t) {c : CtxId} : KeepsSeats s (t.focus c) := by
  refine k.trans ?_
  unfold State.focus
  split
  next => exact .refl t
  next =>
    split
    next => exact .refl t
    next => cases hc : t.cur <;> cases c <;> exact .of_eq rfl rfl

theorem KeepsSeats.unfocus {s t : State} (k : KeepsSeats s t) {sid : Nat} : KeepsSeats s (t.unfocus sid) := by
  rw [State.unfocus]
  split
  next => exact k.focus
  next => exact k

theorem KeepsSeats.refillRegs {s t : State} (k : KeepsSeats s t) : KeepsSeats s t.refillRegs.state :=
  k.trans (KeepsStatus.refillRegs (.refl t)).toKeepsSeats

/-! ### Joining a pool (R101 to R105, R131) -/

theorem KeepsStatus.modLaunch {s t : State} (k : KeepsStatus s t) {lid : Word} {f : Launch → Launch} :
    KeepsStatus s (t.modLaunch lid f) := by
  rw [State.modLaunch]
  split
  next => exact k
  next => exact .modDie k

theorem KeepsStatus.crosses {s t : State} (k : KeepsStatus s t) {x : Thread} {d : Nat} : KeepsStatus s (t.crosses x d) := by
  rw [State.crosses]
  split
  next => exact k
  next => exact .modLaunch k

theorem KeepsStatus.unjournal {s t : State} (k : KeepsStatus s t) {d kind id : Nat} : KeepsStatus s (t.unjournal d kind id) := .modDie k

theorem KeepsStatus.dropVisitor {s t : State} (k : KeepsStatus s t) {sid : Nat} : KeepsStatus s (t.dropVisitor sid) :=
  .mapDies (.modThread k)

theorem State.modLaunch_thread? (s : State) (lid : Word) (f : Launch → Launch) (c : CtxId) :
    (s.modLaunch lid f).thread? c = s.thread? c := by
  rw [State.modLaunch]
  split <;> rfl

theorem State.crosses_thread? (s : State) (t : Thread) (d : Nat) (c : CtxId) : (s.crosses t d).thread? c = s.thread? c := by
  rw [State.crosses]
  split
  next => rfl
  next => exact s.modLaunch_thread? _ _ c

/-- A strand that is parked or in transit is retired with no slot to give up, so no other strand takes one. -/
theorem retire_keeps {s : State} {sid : Nat} {t : Thread} (ht : s.thread? (.strand sid) = some t) (hp : t.place ≠ .slot) :
    KeepsSeats s (s.retire sid) := by
  have alone := KeepsSeats.unfocus (KeepsStatus.drain (f := fun p => p.ctx == .strand sid) (.refl s)).toKeepsSeats (sid := sid)
  rw [State.retire, ht]
  dsimp only
  rw [if_neg hp]
  refine alone.trans (KeepsStatus.toKeepsSeats ?_)
  refine .modCore (.unjournal (.modDie (.noteIdles (.mapDies (.of_eq (.refl _)) ?_)))) ?_
  · exact fun _ _ => List.filter_subset_self _
  · intro x
    split <;> rfl

/-- Taking a slot touches no pool; the refill of a flushed strand, whether it goes on or stops, neither. -/
theorem enterSlot_keeps (s : State) (sid c sl : Nat) :
    KeepsSeats (s.modCore c (fun k => { k with slots := insert sl sid k.slots })) (s.enterSlot sid c sl) := by
  have seated := (KeepsStatus.modThread (.refl (s.modCore c (fun k => { k with slots := insert sl sid k.slots }))) (c := .strand sid)
    (f := fun t => { t with place := .slot, core := c, slot := sl, wait := .none, overflowed := false, fresh := true })).toKeepsSeats
  rw [State.enterSlot]
  dsimp only
  split
  next => exact seated
  next =>
    split
    next =>
      have refilled := (seated.focus (c := .strand sid)).refillRegs
      revert refilled
      generalize State.refillRegs _ = outcome
      cases outcome <;> exact fun refilled => refilled.focus
    next => exact seated

theorem enterSlot_pool (s : State) (sid c sl d : Nat) : ((s.enterSlot sid c sl).die d).pool ⊆ (s.die d).pool :=
  (enterSlot_keeps s sid c sl).pool d

theorem enterSlot_slot (s : State) (sid c sl : Nat) : lookup sl ((s.enterSlot sid c sl).core c).slots = some sid := by
  rw [(enterSlot_keeps s sid c sl).slots c, State.core_modCore, if_pos rfl, lookup_insert, if_pos rfl]

/-- The entry with which a strand joins a pool: its level is that of its STS (R131). -/
def Thread.entry (t : Thread) (sid : Nat) (bound : Option Nat) : PoolEntry := ⟨sid, t.pri, bound, t.part⟩

/-- A strand comes to a die as a tiny context, with no visitor record. -/
def State.comes (s : State) (t : Thread) (d sid : Nat) (bound : Option Nat) : State :=
  ((s.crosses t d).dropVisitor sid).modThread (.strand sid) (fun t => { t with
    place := match bound with
      | some c => if isUtell c then .utellQueue c else .pool d
      | none => .pool d
    wait := .none, overflowed := false })

/-- An entry joins the pool of a die. -/
def State.join (s : State) (d : Nat) (e : PoolEntry) : State := s.modDie d (fun x => { x with pool := x.pool ++ [e] })

/-- The strand of an entry takes an empty slot at once, where one is offered. -/
def State.seat (s : State) (d sid : Nat) (e : PoolEntry) : State :=
  match s.offer d e with
  | none => s
  | some (c, sl) =>
    (s.modDie d (fun x => { x with
      pool := x.pool.erase e, refills := if isUtell c then x.refills else (s.die d).refills + 1 })).enterSlot sid c sl

theorem enterPool_eq {s : State} {sid : Nat} {t : Thread} (ht : s.thread? (.strand sid) = some t) (d : Nat) (bound : Option Nat) :
    s.enterPool d sid bound =
      if t.doomed == some d && t.place != .slot && !((s.crosses t d).die d).down then ((s.crosses t d).loseLaunch t.lid d).retire sid
      else ((s.comes t d sid bound).join d (t.entry sid bound)).seat d sid (t.entry sid bound) := by
  unfold State.enterPool
  rw [ht]
  rfl

theorem comes_keeps (s : State) (t : Thread) (d sid : Nat) (bound : Option Nat) : KeepsSeats s (s.comes t d sid bound) :=
  (KeepsStatus.modThread (.dropVisitor (.crosses (.refl s)))).toKeepsSeats

theorem mem_join_pool (s : State) (d : Nat) (e x : PoolEntry) : x ∈ ((s.join d e).die d).pool ↔ x ∈ (s.die d).pool ∨ x = e := by
  rw [State.join, State.die_modDie, if_pos rfl, List.mem_append, List.mem_singleton]

theorem seat_pool (s : State) (d sid : Nat) (e : PoolEntry) : ((s.seat d sid e).die d).pool ⊆ (s.die d).pool := by
  rw [State.seat]
  split
  next => exact List.Subset.refl _
  next =>
    refine List.Subset.trans (enterSlot_pool _ _ _ _ d) ?_
    rw [State.die_modDie, if_pos rfl]
    exact List.erase_subset

theorem seat_waits_or_takes (s : State) (d sid : Nat) (e : PoolEntry) :
    s.seat d sid e = s ∨ ∃ c sl, lookup sl ((s.seat d sid e).core c).slots = some sid := by
  rw [State.seat]
  split
  next => exact .inl rfl
  next c sl _ => exact .inr ⟨c, sl, enterSlot_slot _ sid c sl⟩

/-- A strand that the die's reset doomed is retired instead of joining, and its entry joins no pool (R123). -/
theorem doomed_keeps {s : State} {sid : Nat} {t : Thread} (ht : s.thread? (.strand sid) = some t) (hp : t.place ≠ .slot) (d : Nat) :
    KeepsSeats s (((s.crosses t d).loseLaunch t.lid d).retire sid) := by
  have lost : KeepsStatus s ((s.crosses t d).loseLaunch t.lid d) := .modLaunch (.crosses (.refl s))
  have same : ((s.crosses t d).loseLaunch t.lid d).thread? (.strand sid) = some t :=
    (State.modLaunch_thread? _ _ _ _).trans ((State.crosses_thread? s t d _).trans ht)
  exact lost.toKeepsSeats.trans (retire_keeps same hp)

/-- Whatever becomes of the strand, the pool gains no entry but its own. -/
theorem enterPool_pool {s : State} {sid : Nat} {t : Thread} (ht : s.thread? (.strand sid) = some t) (d : Nat) (bound : Option Nat) :
    ∀ x ∈ ((s.enterPool d sid bound).die d).pool, x ∈ (s.die d).pool ∨ x = t.entry sid bound := by
  intro x hx
  rw [enterPool_eq ht] at hx
  split at hx
  next h =>
    simp only [Bool.and_eq_true, bne_iff_ne] at h
    obtain ⟨⟨-, parked⟩, -⟩ := h
    exact .inl ((doomed_keeps ht parked d).pool d hx)
  next => exact ((mem_join_pool _ _ _ _).mp (seat_pool _ _ _ _ hx)).imp_left ((comes_keeps s t d sid bound).pool d ·)

/-- A strand that is not doomed there has its entry wait in the pool, unless it takes a slot at once. -/
theorem enterPool_waits_or_takes {s : State} {sid : Nat} {t : Thread} (ht : s.thread? (.strand sid) = some t) {d : Nat}
    (alive : t.doomed ≠ some d) (bound : Option Nat) :
    t.entry sid bound ∈ ((s.enterPool d sid bound).die d).pool ∨
      ∃ c sl, lookup sl ((s.enterPool d sid bound).core c).slots = some sid := by
  rw [enterPool_eq ht, if_neg (by simp [alive])]
  refine (seat_waits_or_takes _ d sid _).imp_left (fun waits => ?_)
  rw [waits]
  exact (mem_join_pool _ d _ _).mpr (.inr rfl)

/-! ### Pending prefixes (R131) -/

theorem pending_of_keeps {s t : State} (k : KeepsStatus s t) : t.pending = s.pending := congrArg (· &&& 0x1F4#64) k.sts

theorem State.trap_pending (s : State) (cause : Nat) (val : Word) : (s.trap cause val).pending = s.pending :=
  pending_of_keeps (.trapAt (.refl s))

theorem State.illegal_pending (s : State) : s.illegal.pending = s.pending := s.trap_pending _ _

/-- Whether the flow goes on or its target is bad, `donePrefix` leaves pending what it is given. -/
theorem State.donePrefix_pending (s : State) (w : Word) : (s.donePrefix w).pending = w &&& 0x1F4#64 := by
  show (s.done.cpu.sts &&& ~~~0x1F4#64 ||| w &&& 0x1F4#64) &&& 0x1F4#64 = w &&& 0x1F4#64
  have cleared : ~~~0x1F4#64 &&& 0x1F4#64 = 0#64 := by decide
  rw [BitVec.and_or_distrib_right, BitVec.and_assoc, cleared, BitVec.and_zero, BitVec.zero_or, BitVec.and_assoc, BitVec.and_self]

theorem execMovs_pending {s t : State} {d : Reg} {sp : BitVec 6} (h : execMovs d sp s = .next t) : t.pending = s.pending := by
  rw [execMovs, Host.Outcome.next.injEq] at h
  subst h
  split
  next => exact State.illegal_pending s
  next =>
    split
    next => exact State.trap_pending s _ _
    next => exact State.donePrefix_pending _ _

theorem execMovt_pending {s t : State} {a : Reg} {sp : BitVec 6} (h : execMovt sp a s = .next t) : t.pending = s.pending := by
  rw [execMovt, Host.Outcome.next.injEq] at h
  subst h
  split
  next => exact State.illegal_pending s
  next =>
    split
    next => exact State.trap_pending s _ _
    next =>
      split
      next => exact State.illegal_pending s
      next => exact State.donePrefix_pending _ _

theorem execMovtSts_pending {s t : State} {a : Reg} (h : execMovtSts a s = .next t) : t.pending = s.pending := by
  rw [execMovtSts, Host.Outcome.next.injEq] at h
  subst h
  split
  next => exact State.illegal_pending s
  next => exact State.donePrefix_pending _ _

/-! ### The value that `MOVT` writes to STS (R131) -/

theorem testBit_field (w : Word) (hi lo i : Nat) : (field w hi lo).testBit i = (decide (i < hi + 1 - lo) && bitOf w (lo + i)) := by
  rw [field, Nat.testBit_mod_two_pow, Nat.testBit_shiftRight]
  rfl

/-- A word cut above, inside and below a field, with the inside replaced. -/
theorem setField_eq (w : Word) (hi lo v : Nat) :
    setField w hi lo v = word (2 ^ lo * (2 ^ (hi + 1 - lo) * (w.toNat / 2 ^ lo / 2 ^ (hi + 1 - lo)) + v % 2 ^ (hi + 1 - lo)) +
      w.toNat % 2 ^ lo) := by
  rw [setField]
  congr 1
  rw [Nat.shiftRight_eq_div_pow, Nat.shiftLeft_eq, Nat.shiftLeft_eq]
  have below := Nat.div_add_mod w.toNat (2 ^ lo)
  have inside := congrArg (2 ^ lo * ·) (Nat.div_add_mod (w.toNat / 2 ^ lo) (2 ^ (hi + 1 - lo)))
  simp only [Nat.mul_add] at inside ⊢
  rw [Nat.mul_comm _ (2 ^ lo), Nat.mul_comm _ (2 ^ lo)]
  omega

theorem bitOf_setField (w : Word) {hi lo : Nat} (h : lo ≤ hi) (v : Nat) {i : Nat} (hi64 : i < 64) :
    bitOf (setField w hi lo v) i = if lo ≤ i ∧ i ≤ hi then v.testBit (i - lo) else bitOf w i := by
  have low : v % 2 ^ (hi + 1 - lo) < 2 ^ (hi + 1 - lo) := Nat.mod_lt _ (Nat.two_pow_pos _)
  rw [setField_eq, bitOf, word, BitVec.getLsbD_ofNat, decide_eq_true hi64, Bool.true_and,
    Nat.testBit_two_pow_mul_add _ (Nat.mod_lt _ (Nat.two_pow_pos _)), Nat.testBit_two_pow_mul_add _ low, Nat.testBit_mod_two_pow,
    Nat.testBit_mod_two_pow, Nat.testBit_div_two_pow, Nat.testBit_div_two_pow, BitVec.testBit_toNat, BitVec.testBit_toNat]
  by_cases below : i < lo
  · rw [if_pos below, if_neg (by omega), decide_eq_true below, Bool.true_and, bitOf]
  · rw [if_neg below]
    by_cases inside : i - lo < hi + 1 - lo
    · rw [if_pos inside, if_pos (by omega), decide_eq_true inside, Bool.true_and]
    · rw [if_neg inside, if_neg (by omega), bitOf]
      congr 1
      omega

theorem field_setField (w : Word) {hi lo : Nat} (h : lo ≤ hi) (h64 : hi < 64) (v : Nat) :
    field (setField w hi lo v) hi lo = v % 2 ^ (hi + 1 - lo) := by
  apply Nat.eq_of_testBit_eq
  intro i
  rw [testBit_field, Nat.testBit_mod_two_pow]
  by_cases inside : i < hi + 1 - lo
  · rw [bitOf_setField w h v (by omega), if_pos (by omega), Nat.add_sub_cancel_left]
  · rw [decide_eq_false inside, Bool.false_and, Bool.false_and]

/-- The bits that `MOVT` writes: CHK, PRI, ANUL, RM and the flags, and SUP where it is set. -/
def stsMask (sup : Bool) : Word := 0x1FD601#64 ||| (if sup then 0x800#64 else 0#64)

theorem State.stsWritten_eq (s : State) (v : Word) :
    s.stsWritten v = setField ((s.cpu.sts &&& ~~~stsMask s.cpu.sup) ||| (v &&& stsMask s.cpu.sup)) 10 9 (s.ceiling (field v 10 9)) := rfl

theorem State.bitOf_stsWritten (s : State) (v : Word) {i : Nat} (hi : i < 64) (notPri : ¬ (9 ≤ i ∧ i ≤ 10)) :
    bitOf (s.stsWritten v) i = if bitOf (stsMask s.cpu.sup) i then bitOf v i else bitOf s.cpu.sts i := by
  rw [State.stsWritten_eq, bitOf_setField _ (by decide) _ hi, if_neg notPri]
  simp only [bitOf, BitVec.getLsbD_or, BitVec.getLsbD_and, BitVec.getLsbD_not, hi, decide_true, Bool.true_and]
  by_cases written : (stsMask s.cpu.sup).getLsbD i = true <;> simp [written]

theorem stsMask_written : ∀ sup : Bool, ∀ i < 64,
    i = 0 ∨ i = 12 ∨ i = 14 ∨ i = 15 ∨ (16 ≤ i ∧ i ≤ 20) → bitOf (stsMask sup) i = true := by
  decide

theorem stsMask_kept : ∀ sup : Bool, ∀ i < 64, i ∈ [1, 2, 3, 4, 5, 6, 7, 8, 13] ∨ 21 ≤ i → bitOf (stsMask sup) i = false := by
  decide

theorem stsMask_sup : ∀ sup : Bool, bitOf (stsMask sup) 11 = sup := by decide

theorem State.stsWritten_written (s : State) (v : Word) :
    ∀ i < 64, i = 0 ∨ i = 12 ∨ i = 14 ∨ i = 15 ∨ (16 ≤ i ∧ i ≤ 20) → bitOf (s.stsWritten v) i = bitOf v i := by
  intro i hi h
  rw [s.bitOf_stsWritten v hi (by omega), if_pos (stsMask_written _ i hi h)]

theorem State.stsWritten_kept (s : State) (v : Word) :
    ∀ i < 64, i ∈ [1, 2, 3, 4, 5, 6, 7, 8, 13] ∨ 21 ≤ i → bitOf (s.stsWritten v) i = bitOf s.cpu.sts i := by
  intro i hi h
  have notPri : ¬ (9 ≤ i ∧ i ≤ 10) := by
    rintro ⟨h9, h10⟩
    obtain rfl | rfl : i = 9 ∨ i = 10 := by omega
    · exact absurd h (by decide)
    · exact absurd h (by decide)
  rw [s.bitOf_stsWritten v hi notPri, if_neg (by simp [stsMask_kept _ i hi h])]

theorem State.stsWritten_sup (s : State) (v : Word) : bitOf (s.stsWritten v) 11 = (s.cpu.sup && bitOf v 11) := by
  rw [s.bitOf_stsWritten v (by decide) (by decide), stsMask_sup]
  cases e : s.cpu.sup with
  | true => rfl
  | false => exact e

theorem ceilPri_eq_max (p : Part) (pri : Nat) : ceilPri p pri = max p.pric pri := by
  rw [ceilPri]
  split <;> omega

theorem State.stsWritten_pri (s : State) (v : Word) :
    field (s.stsWritten v) 10 9 = match s.part? s.cpu.part with
      | some p => max p.pric (field v 10 9) % 4
      | none => field v 10 9 := by
  rw [State.stsWritten_eq, field_setField _ (by decide) (by decide), State.ceiling]
  cases s.part? s.cpu.part with
  | some p => exact congrArg (· % 4) (ceilPri_eq_max p _)
  | none => exact Nat.mod_eq_of_lt (Nat.mod_lt _ (Nat.two_pow_pos 2))

/-! ### `MOVT` to STS -/

/-- The value is legal: the write completes, and nothing changes but what the value writes. -/
theorem exec_movtSts_writes {s : State} {a : Reg} (fl : s.flows) (h63 : field (s.rd a) 63 21 = 0) (h3 : bitOf (s.rd a) 3 = false) :
    ∃ t, exec (.movtSts a) s = .next t ∧
      Leaves { s with cpu := { s.cpu with sts := s.stsWritten (s.rd a) } } t 0 s.seqPc [] 0#64 [] s.pending := by
  refine ⟨_, ?_, leaves_donePrefix (s := { s with cpu := { s.cpu with sts := s.stsWritten (s.rd a) } }) (f := id) fl
    (Effect.refl _) s.cpu.sts⟩
  show execMovtSts a s = _
  rw [execMovtSts, if_neg (by simp [h63, h3])]
  rfl

theorem exec_movtSts_illegal {s : State} {a : Reg} (h : field (s.rd a) 63 21 ≠ 0 ∨ bitOf (s.rd a) 3 = true) :
    exec (.movtSts a) s = .next (s.trap 0x03 s.cpu.operandVal) := by
  show execMovtSts a s = _
  rw [execMovtSts, if_pos (by simpa using h)]
  rfl

/-- Settles O4: the mask of `stsWritten` gives the bits; the level of the entry is read off STS, and no refill drops the entry or the slot;
a form that completes ends in `donePrefix`, and one that traps keeps STS. -/
theorem writeStatus : Obligations.WriteStatus := by
  refine ⟨fun s a fl => ⟨?writes, exec_movtSts_illegal⟩, ?pool, ?prefixes⟩
  case writes =>
    intro h63 h3
    obtain ⟨t, he, hl⟩ := exec_movtSts_writes fl h63 h3
    exact ⟨t, s.stsWritten (s.rd a), he, hl, s.stsWritten_written _, s.stsWritten_kept _, s.stsWritten_sup _, s.stsWritten_pri _⟩
  case pool =>
    intro s d sid bound t ht
    exact ⟨enterPool_pool ht d bound, fun alive => enterPool_waits_or_takes ht alive bound⟩
  case prefixes =>
    rintro s t d a sp (h | h | h)
    · exact execMovs_pending h
    · exact execMovt_pending h
    · exact execMovtSts_pending h

end Sys2Proof.Machine
end

section

namespace Sys2Proof.Laws

open Sys2Proof

/-- The instruction's encoding has these fields. -/
structure Encodes (op : Nat) (tl : BitVec 2) (m : BitVec 4) (t : BitVec 64) (i : Instr) : Prop where
  canonical : i.canonical = true
  encoding : encode i = some ⟨BitVec.ofNat 8 op, tl, m, t⟩

/-! ### Encoding undoes decoding: codes and fields -/

@[simp] theorem scope_ofCode_iff {m : BitVec 4} {c : Scope} : Scope.ofCode m = some c ↔ m = c.toCode :=
  ⟨by revert m; cases c <;> decide, by rintro rfl; exact ofCode_scope c⟩
@[simp] theorem cond_ofCode_iff {m : BitVec 4} {c : Cond} : Cond.ofCode m = some c ↔ m = c.toCode :=
  ⟨by revert m; cases c <;> decide, by rintro rfl; exact ofCode_cond c⟩
@[simp] theorem fCond_ofCode_iff {m : BitVec 3} {c : FCond} : FCond.ofCode m = some c ↔ m = c.toCode :=
  ⟨by revert m; cases c <;> decide, by rintro rfl; exact ofCode_fCond c⟩
@[simp] theorem rnd_ofCode_iff {m : BitVec 3} {c : Rnd} : Rnd.ofCode m = some c ↔ m = c.toCode :=
  ⟨by revert m; cases c <;> decide, by rintro rfl; exact ofCode_rnd c⟩
@[simp] theorem ldSize_ofCode_iff {m : BitVec 4} {c : LdSize} : LdSize.ofCode m = some c ↔ m = c.toCode :=
  ⟨by revert m; cases c <;> decide, by rintro rfl; exact ofCode_ldSize c⟩
@[simp] theorem stSize_ofCode_iff {m : BitVec 4} {c : StSize} : StSize.ofCode m = some c ↔ m = c.toCode :=
  ⟨by revert m; cases c <;> decide, by rintro rfl; exact ofCode_stSize c⟩
@[simp] theorem logOp_ofCode_iff {m : BitVec 4} {c : LogOp} : LogOp.ofCode m = some c ↔ m = c.toCode :=
  ⟨by revert m; cases c <;> decide, by rintro rfl; exact ofCode_logOp c⟩
@[simp] theorem fcvtCode_ofCode_iff {m : BitVec 4} {c : FcvtCode} : FcvtCode.ofCode m = some c ↔ m = c.toCode :=
  ⟨by revert m; cases c <;> decide, by rintro rfl; exact ofCode_fcvtCode c⟩
@[simp] theorem sgnOp_ofCode_iff {m : BitVec 2} {c : SgnOp} : SgnOp.ofCode m = some c ↔ m = c.toCode :=
  ⟨by revert m; cases c <;> decide, by rintro rfl; exact ofCode_sgnOp c⟩
@[simp] theorem vShiftOp_ofCode_iff {m : BitVec 2} {c : VShiftOp} : VShiftOp.ofCode m = some c ↔ m = c.toCode :=
  ⟨by revert m; cases c <;> decide, by rintro rfl; exact ofCode_vShiftOp c⟩
@[simp] theorem redOp_ofCode_iff {m : BitVec 2} {c : RedOp} : RedOp.ofCode m = some c ↔ m = c.toCode :=
  ⟨by revert m; cases c <;> decide, by rintro rfl; exact ofCode_redOp c⟩
@[simp] theorem fmt_ofCode_iff {m : BitVec 4} {c : Fmt} : Fmt.ofCode m = some c ↔ m = c.toCode :=
  ⟨by revert m; cases c <;> decide, by rintro rfl; exact ofCode_fmt c⟩
@[simp] theorem fp8_ofCode_iff {m : BitVec 4} {c : Fp8} : Fp8.ofCode m = some c ↔ m = c.toCode :=
  ⟨by revert m; cases c <;> decide, by rintro rfl; exact ofCode_fp8 c⟩
@[simp] theorem packFmt_ofCode_iff {m : BitVec 4} {c : PackFmt} : PackFmt.ofCode m = some c ↔ m = c.toCode :=
  ⟨by revert m; cases c <;> decide, by rintro rfl; exact ofCode_packFmt c⟩
@[simp] theorem idsSel_ofCode_iff {m : BitVec 4} {c : IdsSel} : IdsSel.ofCode m = some c ↔ m = c.toCode :=
  ⟨by revert m; cases c <;> decide, by rintro rfl; exact ofCode_idsSel c⟩
@[simp] theorem spawnPri_ofCode_iff {m : BitVec 4} {c : SpawnPri} : SpawnPri.ofCode m = some c ↔ m = c.toCode :=
  ⟨by revert m; cases c <;> decide, by rintro rfl; exact ofCode_spawnPri c⟩
@[simp] theorem prec_ofCode_iff {m : BitVec 4} {c : Prec} : Prec.ofCode m = some c ↔ m = c.toCode :=
  ⟨by revert m; cases c <;> decide, by rintro rfl; exact ofCode_prec c⟩

@[simp] theorem toVReg_iff {f : BitVec 5} {v : VReg} : toVReg f = some v ↔ f = ofVReg v := by revert f v; decide
@[simp] theorem toKReg_iff {f : BitVec 5} {k : KReg} : toKReg f = some k ↔ f = ofKReg k := by revert f k; decide

@[simp] theorem vecM_ofCode_iff {m : BitVec 4} {v : VecM} : VecM.ofCode m = some v ↔ m = v.toCode := by
  constructor
  · have key : ∀ m : BitVec 4, (VecM.ofCode m).all (fun v => m == v.toCode) = true := by decide
    intro h
    simpa [h] using key m
  · rintro rfl
    exact ofCode_vecM v

/-- Every tail is made of its fields. -/
theorem tail_fields (t : BitVec 64) : t = mkTail (Tail.imm48 t) (Tail.x t) (Tail.b t) (Tail.a t) (Tail.d t) := by
  apply BitVec.eq_of_getLsbD_eq
  intro i hi
  simp only [mkTail, Tail.imm48, Tail.x, Tail.b, Tail.a, Tail.d, BitVec.getLsbD_append, BitVec.getLsbD_extractLsb']
  split_ifs
  all_goals
    rw [decide_eq_true (by omega), Bool.true_and]
    congr 1
    omega

theorem high_zero (t : BitVec 64) (k w : Nat) (h : t.toNat < 2 ^ k) : t.extractLsb' k w = 0#w := by
  apply BitVec.eq_of_toNat_eq
  rw [BitVec.extractLsb'_toNat, Nat.shiftRight_eq_div_pow, Nat.div_eq_of_lt h]
  rfl

theorem tail_short1 {t : BitVec 64} (h : t.toNat < 2 ^ 16) : ∃ x b a d, t = mkTail 0#48 x b a d := by
  have e := tail_fields t
  rw [show Tail.imm48 t = 0#48 from high_zero t 16 48 h] at e
  exact ⟨_, _, _, _, e⟩

theorem imm48_short {t : BitVec 64} (h : t.toNat < 2 ^ 32) : Tail.imm48 t = 0#32 ++ Tail.imm16 t := by
  apply BitVec.eq_of_getLsbD_eq
  intro i hi
  rw [Tail.imm48, Tail.imm16, BitVec.getLsbD_append, BitVec.getLsbD_extractLsb', decide_eq_true hi, Bool.true_and]
  split
  · rename_i low
    rw [BitVec.getLsbD_extractLsb', decide_eq_true low, Bool.true_and]
  · rename_i high
    rw [BitVec.getLsbD_zero, BitVec.getLsbD, Nat.testBit_lt_two_pow (h.trans_le (Nat.pow_le_pow_right (by decide) (by omega)))]

theorem tail_short2 {t : BitVec 64} (h : t.toNat < 2 ^ 32) : ∃ (v : BitVec 16) (x : BitVec 1) (b a d : BitVec 5), t = mkTail (0#32 ++ v) x b a d := by
  have e := tail_fields t
  rw [imm48_short h] at e
  exact ⟨_, _, _, _, _, e⟩

section

variable {op : Nat} {tl : BitVec 2} {t : BitVec 64} (mask : (tailMask op).testBit tl.toNat = true)
  (fits : t.toNat < 2 ^ (16 * tailSlots tl))
include mask fits

/-- The tail of an opcode that has none. -/
theorem shape_none (hm : tailMask op = 1) : tl = 0#2 ∧ t = 0#64 := by
  rw [hm] at mask
  have : tl = 0#2 := by clear fits; revert mask; revert tl; decide
  subst this
  exact ⟨rfl, BitVec.eq_of_toNat_eq (Nat.lt_one_iff.mp fits)⟩

/-- The tail of an opcode whose tail is one slot. -/
theorem shape_one (hm : tailMask op = 2) : tl = 1#2 ∧ ∃ x b a d, t = mkTail 0#48 x b a d := by
  rw [hm] at mask
  have : tl = 1#2 := by clear fits; revert mask; revert tl; decide
  subst this
  exact ⟨rfl, tail_short1 fits⟩

/-- The tail of an opcode whose tail is two slots. -/
theorem shape_two (hm : tailMask op = 4) : tl = 2#2 ∧ ∃ (v : BitVec 16) (x : BitVec 1) (b a d : BitVec 5), t = mkTail (0#32 ++ v) x b a d := by
  rw [hm] at mask
  have : tl = 2#2 := by clear fits; revert mask; revert tl; decide
  subst this
  exact ⟨rfl, tail_short2 fits⟩

theorem shape_one_two (hm : tailMask op = 6) :
    (tl = 1#2 ∧ ∃ x b a d, t = mkTail 0#48 x b a d) ∨ (tl = 2#2 ∧ ∃ (v : BitVec 16) (x : BitVec 1) (b a d : BitVec 5), t = mkTail (0#32 ++ v) x b a d) := by
  rw [hm] at mask
  have : tl = 1#2 ∨ tl = 2#2 := by clear fits; revert mask; revert tl; decide
  obtain rfl | rfl := this
  · exact .inl ⟨rfl, tail_short1 fits⟩
  · exact .inr ⟨rfl, tail_short2 fits⟩

theorem shape_two_four (hm : tailMask op = 12) :
    (tl = 2#2 ∧ ∃ (v : BitVec 16) (x : BitVec 1) (b a d : BitVec 5), t = mkTail (0#32 ++ v) x b a d) ∨ (tl = 3#2 ∧ ∃ v x b a d, t = mkTail v x b a d) := by
  rw [hm] at mask
  have : tl = 2#2 ∨ tl = 3#2 := by clear fits; revert mask; revert tl; decide
  obtain rfl | rfl := this
  · exact .inl ⟨rfl, tail_short2 fits⟩
  · exact .inr ⟨rfl, _, _, _, _, _, tail_fields t⟩

end

theorem encodes_of {op : Nat} {tl : BitVec 2} {m m' : BitVec 4} {t t' : BitVec 64} {i : Instr} (hc : i.canonical = true)
    (he : encode i = some ⟨BitVec.ofNat 8 op, tl, m', t'⟩) (hm : m' = m) (ht : t' = t) : Encodes op tl m t i := by
  subst hm ht
  exact ⟨hc, he⟩

theorem canonical_of {i : Instr} (wf : i.wf = true) (he : i.canonical = (i.wf && true)) : i.canonical = true := by
  rw [he, wf]
  rfl

theorem low_flag {m : BitVec 4} (h : m.toNat ≤ 1) : 0#3 ++ bit (m.getLsbD 0) = m := by revert m; decide
theorem low_pair {m : BitVec 4} (h : m.toNat < 4) : 0#2 ++ m.extractLsb' 0 2 = m := by revert m; decide
theorem low_three {m : BitVec 4} (h : m.toNat < 8) : 0#1 ++ m.extractLsb' 0 3 = m := by revert m; decide
theorem prec_low {m : BitVec 4} {c : BitVec 3} (h : m.extractLsb' 1 3 = c) : c ++ (Prec.ofBit (m.getLsbD 0)).toBit = m := by
  subst h; revert m; decide
theorem sign_low {m : BitVec 4} {c : BitVec 2} (h3 : m.getLsbD 3 = false) (h : m.extractLsb' 1 2 = c) :
    0#1 ++ c ++ (Prec.ofBit (m.getLsbD 0)).toBit = m := by
  subst h; revert m; decide
theorem wide_code {m : BitVec 4} {c : BitVec 2} (h3 : m.getLsbD 3 = false) (h : m.extractLsb' 0 2 = c) :
    0#1 ++ bit (m.getLsbD 2) ++ c = m := by
  subst h; revert m; decide
theorem wide_bits {m : BitVec 4} (h3 : m.getLsbD 3 = false) :
    0#1 ++ bit (m.getLsbD 2) ++ bit (m.getLsbD 1) ++ bit (m.getLsbD 0) = m := by
  revert m; decide
theorem wide_mask {m : BitVec 4} (h3 : m.getLsbD 3 = true) : 1#1 ++ bit (m.getLsbD 2) ++ m.extractLsb' 0 2 = m := by
  revert m; decide
theorem wide_only {m : BitVec 4} (h0 : m.getLsbD 0 = false) (h1 : m.getLsbD 1 = false) (h3 : m.getLsbD 3 = false) :
    0#1 ++ bit (m.getLsbD 2) ++ 0#2 = m := by
  revert m; decide
theorem wide_cond {m : BitVec 4} {c : BitVec 3} (h : m.extractLsb' 0 3 = c) : bit (m.getLsbD 3) ++ c = m := by
  subst h; revert m; decide

theorem special_fields {x : BitVec 1} {a : BitVec 5} {n : BitVec 6} (h : x ++ a = n) :
    n.extractLsb' 5 1 = x ∧ n.extractLsb' 0 5 = a := by
  subst h; revert x a; decide

section

variable (x : BitVec 1) (b a d : BitVec 5)

theorem toNat_zero_append {k n : Nat} (v : BitVec n) : (0#k ++ v).toNat = v.toNat := by simp [BitVec.toNat_append]

/-- A value that fits in the low `n` bits, taken from them. -/
theorem short_imm {k n : Nat} {v : BitVec 16} (hk : k + n = 48) (h : v.toNat < 2 ^ n) :
    (0#k ++ v.extractLsb' 0 n).cast hk = 0#32 ++ v := by
  apply BitVec.eq_of_toNat_eq
  have right : (0#32 ++ v : BitVec 48).toNat = v.toNat := toNat_zero_append v
  rw [right, BitVec.toNat_cast, toNat_zero_append, BitVec.extractLsb'_toNat, Nat.shiftRight_zero, Nat.mod_eq_of_lt h]

theorem short_imm6 {v : BitVec 16} (h : v.toNat < 64) : mkTail (0#42 ++ v.extractLsb' 0 6) x b a d = mkTail (0#32 ++ v) x b a d :=
  congrArg (mkTail · x b a d) (short_imm (k := 42) rfl h)

theorem short_imm4 {v : BitVec 16} (h : v.toNat < 16) : mkTail (0#44 ++ v.extractLsb' 0 4) x b a d = mkTail (0#32 ++ v) x b a d :=
  congrArg (mkTail · x b a d) (short_imm (k := 44) rfl h)

theorem short_imm13 {v : BitVec 16} (h : v.extractLsb' 13 3 = 0#3) :
    mkTail (0#35 ++ v.extractLsb' 6 7 ++ v.extractLsb' 0 6) x b a d = mkTail (0#32 ++ v) x b a d := by
  refine congrArg (mkTail · x b a d) (BitVec.eq_of_toNat_eq ?_)
  have small : v.toNat < 2 ^ 13 := by
    have := congrArg BitVec.toNat h
    simp only [BitVec.extractLsb'_toNat, Nat.shiftRight_eq_div_pow, BitVec.toNat_ofNat] at this
    omega
  have right : (0#32 ++ v : BitVec 48).toNat = v.toNat := toNat_zero_append v
  have left : (0#35 ++ v.extractLsb' 6 7 ++ v.extractLsb' 0 6 : BitVec 48).toNat =
      (0#35 ++ v.extractLsb' 6 7).toNat <<< 6 ||| (v.extractLsb' 0 6).toNat := BitVec.toNat_append _ _
  rw [left, right, toNat_zero_append, ← Nat.shiftLeft_add_eq_or_of_lt (BitVec.isLt _), Nat.shiftLeft_eq]
  simp only [BitVec.extractLsb'_toNat, Nat.shiftRight_eq_div_pow]
  omega

end

theorem decodeSvc_encode (v : BitVec 16) : Encodes 0xF2 2#2 0#4 (mkTail (0#32 ++ v) 0#1 0#5 0#5 0#5) (decodeSvc v) := by
  unfold decodeSvc
  split
  case h_8 =>
    refine ⟨canonical_of ?_ rfl, rfl⟩
    have : v.toNat < 0x8000 ∨ 0x8006 < v.toNat := by
      simp only [imp_false] at *
      omega
    simpa [Instr.wf] using this
  all_goals
    rename_i hv
    have e : v = BitVec.ofNat 16 v.toNat := BitVec.eq_of_toNat_eq (by simp)
    rw [hv] at e
    subst e
    exact ⟨rfl, rfl⟩

/-- Row 1 of the map. -/
theorem decodeRow1_encode {col : Nat} {tl : BitVec 2} {m : BitVec 4} {t : BitVec 64} {i : Instr}
    (h : decodeRow1 col tl m t = some i) (mask : (tailMask (0x10 + col)).testBit tl.toNat = true)
    (fits : t.toNat < 2 ^ (16 * tailSlots tl)) : Encodes (0x10 + col) tl m t i := by
  unfold decodeRow1 at h
  split at h
  case h_1 | h_2 | h_4 | h_12 =>
    obtain ⟨rfl, x, b, a, d, rfl⟩ := shape_one mask fits rfl
    simp at h
    casesm* _ ∧ _
    subst_vars
    exact ⟨rfl, rfl⟩
  case h_5 | h_6 | h_7 | h_8 | h_9 | h_10 =>
    obtain ⟨rfl, x, b, a, d, rfl⟩ := shape_one mask fits rfl
    simp at h
    casesm* _ ∧ _
    subst_vars
    exact encodes_of rfl rfl (low_flag ‹_›) rfl
  case h_3 =>
    rcases shape_two_four mask fits rfl with ⟨rfl, v, x, b, a, d, rfl⟩ | ⟨rfl, v, x, b, a, d, rfl⟩
    all_goals
      simp at h
      casesm* _ ∧ _
      subst_vars
      exact ⟨rfl, rfl⟩
  case h_11 =>
    rcases shape_two_four mask fits rfl with ⟨rfl, v, x, b, a, d, rfl⟩ | ⟨rfl, v, x, b, a, d, rfl⟩
    all_goals
      simp at h
      casesm* _ ∧ _
      subst_vars
      exact encodes_of rfl rfl (low_flag ‹_›) rfl
  case h_13 => cases h

/-- Row 2 of the map. -/
theorem decodeRow2_encode {col : Nat} {tl : BitVec 2} {m : BitVec 4} {t : BitVec 64} {i : Instr}
    (h : decodeRow2 col tl m t = some i) (mask : (tailMask (0x20 + col)).testBit tl.toNat = true)
    (fits : t.toNat < 2 ^ (16 * tailSlots tl)) : Encodes (0x20 + col) tl m t i := by
  unfold decodeRow2 at h
  split at h
  case h_1 | h_2 | h_3 | h_4 | h_10 | h_11 =>
    obtain ⟨rfl, x, b, a, d, rfl⟩ := shape_one mask fits rfl
    simp at h
    casesm* _ ∧ _
    subst_vars
    exact ⟨rfl, rfl⟩
  case h_5 =>
    rcases shape_two_four mask fits rfl with ⟨rfl, v, x, b, a, d, rfl⟩ | ⟨rfl, v, x, b, a, d, rfl⟩
    all_goals
      clear mask fits
      simp at h
      split at h
      · simp at *
        casesm* _ ∧ _
        subst_vars
        exact ⟨rfl, rfl⟩
      · simp at h
  case h_6 | h_7 | h_8 | h_9 =>
    obtain ⟨rfl, x, b, a, d, rfl⟩ | ⟨rfl, v, x, b, a, d, rfl⟩ := shape_one_two mask fits rfl
    · simp at h
      casesm* _ ∧ _
      subst_vars
      exact ⟨rfl, rfl⟩
    · clear mask fits
      simp at h
      casesm* _ ∧ _
      subst_vars
      exact encodes_of rfl rfl rfl (short_imm6 _ _ _ _ ‹_›)
  case h_12 =>
    obtain ⟨rfl, v, x, b, a, d, rfl⟩ := shape_two mask fits rfl
    clear mask fits
    simp [needWf] at h
    casesm* _ ∧ _
    subst_vars
    exact encodes_of (canonical_of ‹_› rfl) rfl (low_flag ‹_›) (short_imm13 _ _ _ _ ‹_›)
  case h_13 => cases h

/-- Row 3 of the map. -/
theorem decodeRow3_encode {col : Nat} {tl : BitVec 2} {m : BitVec 4} {t : BitVec 64} {i : Instr}
    (h : decodeRow3 col tl m t = some i) (mask : (tailMask (0x30 + col)).testBit tl.toNat = true)
    (fits : t.toNat < 2 ^ (16 * tailSlots tl)) : Encodes (0x30 + col) tl m t i := by
  unfold decodeRow3 at h
  split at h
  case h_1 | h_4 | h_9 | h_10 =>
    obtain ⟨rfl, x, b, a, d, rfl⟩ := shape_one mask fits rfl
    simp at h
    casesm* _ ∧ _
    subst_vars
    exact ⟨rfl, rfl⟩
  case h_2 | h_5 =>
    rcases shape_two_four mask fits rfl with ⟨rfl, v, x, b, a, d, rfl⟩ | ⟨rfl, v, x, b, a, d, rfl⟩
    all_goals
      simp at h
      casesm* _ ∧ _
      subst_vars
      exact ⟨rfl, rfl⟩
  case h_3 =>
    obtain ⟨rfl, v, x, b, a, d, rfl⟩ := shape_two mask fits rfl
    simp at h
    casesm* _ ∧ _
    subst_vars
    exact encodes_of rfl rfl (low_pair ‹_›) rfl
  case h_6 =>
    obtain ⟨rfl, x, b, a, d, rfl⟩ := shape_one mask fits rfl
    simp [decodeMovs] at h
    obtain ⟨⟨rfl, rfl⟩, h⟩ := h
    split_ifs at h with h4 h5
    · obtain ⟨rfl, rfl⟩ := special_fields h4
      cases h
      exact ⟨rfl, rfl⟩
    · obtain ⟨rfl, rfl⟩ := special_fields h5
      cases h
      exact ⟨rfl, rfl⟩
    · simp [needWf] at h
      obtain ⟨wf, rfl⟩ := h
      exact encodes_of (canonical_of wf rfl) rfl rfl (by rw [(special_fields rfl).1, (special_fields rfl).2])
  case h_7 =>
    obtain ⟨rfl, x, b, a, d, rfl⟩ := shape_one mask fits rfl
    simp [decodeMovt] at h
    obtain ⟨⟨rfl, rfl⟩, h⟩ := h
    split_ifs at h with h0 h4 h5
    · obtain ⟨rfl, rfl⟩ := special_fields h0
      cases h
      exact ⟨rfl, rfl⟩
    · obtain ⟨rfl, rfl⟩ := special_fields h4
      cases h
      exact ⟨rfl, rfl⟩
    · obtain ⟨rfl, rfl⟩ := special_fields h5
      cases h
      exact ⟨rfl, rfl⟩
    · simp [needWf] at h
      obtain ⟨wf, rfl⟩ := h
      exact encodes_of (canonical_of wf rfl) rfl rfl (by rw [(special_fields rfl).1, (special_fields rfl).2])
  case h_8 =>
    obtain ⟨rfl, x, b, a, d, rfl⟩ := shape_one mask fits rfl
    clear mask fits
    simp at h
    split at h
    · simp at *
      casesm* _ ∧ _
      subst_vars
      exact ⟨rfl, rfl⟩
    · simp at h
  case h_11 =>
    obtain ⟨rfl, x, b, a, d, rfl⟩ | ⟨rfl, v, x, b, a, d, rfl⟩ := shape_one_two mask fits rfl
    · clear mask fits
      simp at h
      split at h
      · simp at *
        casesm* _ ∧ _
        subst_vars
        exact ⟨rfl, rfl⟩
      · simp at h
    · clear mask fits
      simp at h
      split at h
      · simp at *
        casesm* _ ∧ _
        subst_vars
        exact ⟨rfl, rfl⟩
      · simp at h
  case h_12 =>
    obtain ⟨rfl, x, b, a, d, rfl⟩ := shape_one mask fits rfl
    clear mask fits
    simp at h
    split at h
    · simp [needWf] at *
      casesm* _ ∧ _
      subst_vars
      exact encodes_of (canonical_of ‹_› rfl) rfl rfl rfl
    · simp at h
  case h_13 => cases h

/-- Row 4 of the map. -/
theorem decodeRow4_encode {col : Nat} {tl : BitVec 2} {m : BitVec 4} {t : BitVec 64} {i : Instr}
    (h : decodeRow4 col tl m t = some i) (mask : (tailMask (0x40 + col)).testBit tl.toNat = true)
    (fits : t.toNat < 2 ^ (16 * tailSlots tl)) : Encodes (0x40 + col) tl m t i := by
  unfold decodeRow4 at h
  split at h
  case h_1 | h_2 | h_3 | h_4 | h_5 | h_6 | h_9 =>
    obtain ⟨rfl, x, b, a, d, rfl⟩ := shape_one mask fits rfl
    clear mask fits
    simp at h
    split at h
    · simp at *
      casesm* _ ∧ _
      subst_vars
      exact encodes_of rfl rfl (prec_low ‹_›) rfl
    · simp at h
  case h_7 | h_8 | h_10 | h_12 =>
    obtain ⟨rfl, x, b, a, d, rfl⟩ := shape_one mask fits rfl
    clear mask fits
    simp at h
    split at h
    · simp at *
      casesm* _ ∧ _
      subst_vars
      exact ⟨rfl, rfl⟩
    · simp at h
  case h_11 =>
    obtain ⟨rfl, x, b, a, d, rfl⟩ := shape_one mask fits rfl
    clear mask fits
    simp at h
    split at h
    · simp at *
      casesm* _ ∧ _
      subst_vars
      exact encodes_of rfl rfl (sign_low ‹_› ‹_›) rfl
    · simp at h
  case h_13 => cases h

/-- Row 5 of the map. -/
theorem decodeRow5_encode {col : Nat} {tl : BitVec 2} {m : BitVec 4} {t : BitVec 64} {i : Instr}
    (h : decodeRow5 col tl m t = some i) (mask : (tailMask (0x50 + col)).testBit tl.toNat = true)
    (fits : t.toNat < 2 ^ (16 * tailSlots tl)) : Encodes (0x50 + col) tl m t i := by
  unfold decodeRow5 at h
  split at h
  case h_1 | h_2 | h_3 | h_4 | h_5 | h_6 =>
    obtain ⟨rfl, x, b, a, d, rfl⟩ := shape_one mask fits rfl
    clear mask fits
    simp at h
    split at h
    · simp at *
      casesm* _ ∧ _
      subst_vars
      exact ⟨rfl, rfl⟩
    · simp at h
  case h_7 =>
    obtain ⟨rfl, x, b, a, d, rfl⟩ := shape_one mask fits rfl
    clear mask fits
    simp at h
    split at h
    · simp at *
      casesm* _ ∧ _
      subst_vars
      exact encodes_of rfl rfl (wide_code ‹_› ‹_›) rfl
    · simp at h
  case h_8 =>
    obtain ⟨rfl, x, b, a, d, rfl⟩ := shape_one mask fits rfl
    clear mask fits
    simp at h
    split at h
    · simp at *
      casesm* _ ∧ _
      subst_vars
      exact encodes_of rfl rfl (wide_bits ‹_›) rfl
    · simp at h
  case h_9 =>
    obtain ⟨rfl, x, b, a, d, rfl⟩ := shape_one mask fits rfl
    clear mask fits
    simp at h
    split at h
    · simp at *
      casesm* _ ∧ _
      subst_vars
      exact encodes_of rfl rfl (wide_mask ‹_›) rfl
    · simp at h
  case h_10 | h_11 =>
    obtain ⟨rfl, x, b, a, d, rfl⟩ := shape_one mask fits rfl
    clear mask fits
    simp at h
    split at h
    · simp at *
      casesm* _ ∧ _
      subst_vars
      exact encodes_of rfl rfl (wide_only ‹_› ‹_› ‹_›) rfl
    · simp at h
  case h_12 =>
    obtain ⟨rfl, x, b, a, d, rfl⟩ | ⟨rfl, v, x, b, a, d, rfl⟩ := shape_one_two mask fits rfl
    · clear mask fits
      simp at h
      split at h
      · simp at *
        casesm* _ ∧ _
        subst_vars
        exact encodes_of rfl rfl (wide_only ‹_› ‹_› ‹_›) rfl
      · simp at h
    · clear mask fits
      simp at h
      split at h
      · simp [needWf] at *
        casesm* _ ∧ _
        subst_vars
        exact encodes_of (canonical_of ‹_› rfl) rfl (wide_only ‹_› ‹_› ‹_›) (short_imm4 _ _ _ _ ‹_›)
      · simp at h
  case h_13 => cases h

/-- Row 6 of the map. -/
theorem decodeRow6_encode {col : Nat} {tl : BitVec 2} {m : BitVec 4} {t : BitVec 64} {i : Instr}
    (h : decodeRow6 col tl m t = some i) (mask : (tailMask (0x60 + col)).testBit tl.toNat = true)
    (fits : t.toNat < 2 ^ (16 * tailSlots tl)) : Encodes (0x60 + col) tl m t i := by
  unfold decodeRow6 at h
  split at h
  case h_1 | h_2 | h_3 | h_4 | h_5 | h_6 | h_7 | h_8 | h_9 =>
    obtain ⟨rfl, x, b, a, d, rfl⟩ := shape_one mask fits rfl
    clear mask fits
    simp at h
    split at h
    · simp at *
      casesm* _ ∧ _
      subst_vars
      exact ⟨rfl, rfl⟩
    · simp at h
  case h_10 =>
    obtain ⟨rfl, x, b, a, d, rfl⟩ := shape_one mask fits rfl
    clear mask fits
    simp at h
    split at h
    · simp at *
      casesm* _ ∧ _
      subst_vars
      exact encodes_of rfl rfl (wide_cond ‹_›) rfl
    · simp at h
  case h_11 =>
    obtain ⟨rfl, x, b, a, d, rfl⟩ := shape_one mask fits rfl
    clear mask fits
    simp at h
    split at h
    · simp at *
      casesm* _ ∧ _
      subst_vars
      exact encodes_of rfl rfl (wide_code ‹_› ‹_›) rfl
    · simp at h
  case h_12 =>
    obtain ⟨rfl, x, b, a, d, rfl⟩ := shape_one mask fits rfl
    clear mask fits
    simp at h
    split at h
    · simp at *
      casesm* _ ∧ _
      subst_vars
      exact encodes_of rfl rfl (low_flag ‹_›) rfl
    · simp at h
  case h_13 => cases h

/-- Row 7 of the map. -/
theorem decodeRow7_encode {col : Nat} {tl : BitVec 2} {m : BitVec 4} {t : BitVec 64} {i : Instr}
    (h : decodeRow7 col tl m t = some i) (mask : (tailMask (0x70 + col)).testBit tl.toNat = true)
    (fits : t.toNat < 2 ^ (16 * tailSlots tl)) : Encodes (0x70 + col) tl m t i := by
  unfold decodeRow7 at h
  split at h
  case h_1 =>
    obtain ⟨rfl, rfl⟩ := shape_none mask fits rfl
    clear mask fits
    split at h
    · simp at *
      subst_vars
      exact ⟨rfl, rfl⟩
    · simp at h
  case h_2 | h_9 =>
    obtain ⟨rfl, rfl⟩ := shape_none mask fits rfl
    simp at h
    casesm* _ ∧ _
    subst_vars
    exact ⟨rfl, rfl⟩
  case h_3 | h_4 | h_5 | h_6 | h_7 | h_10 | h_11 | h_12 =>
    obtain ⟨rfl, x, b, a, d, rfl⟩ := shape_one mask fits rfl
    clear mask fits
    simp at h
    split at h
    · simp at *
      casesm* _ ∧ _
      subst_vars
      exact ⟨rfl, rfl⟩
    · simp at h
  case h_8 =>
    obtain ⟨rfl, x, b, a, d, rfl⟩ := shape_one mask fits rfl
    clear mask fits
    simp at h
    split_ifs at h
    all_goals
      split at h
      · simp at *
        casesm* _ ∧ _
        subst_vars
        exact ⟨rfl, rfl⟩
      · simp at h
  case h_13 => cases h

/-- Row 8 of the map. -/
theorem decodeRow8_encode {col : Nat} {tl : BitVec 2} {m : BitVec 4} {t : BitVec 64} {i : Instr}
    (h : decodeRow8 col tl m t = some i) (mask : (tailMask (0x80 + col)).testBit tl.toNat = true)
    (fits : t.toNat < 2 ^ (16 * tailSlots tl)) : Encodes (0x80 + col) tl m t i := by
  unfold decodeRow8 at h
  split at h
  case h_1 | h_2 | h_3 | h_4 | h_10 | h_12 =>
    rcases shape_two_four mask fits rfl with ⟨rfl, v, x, b, a, d, rfl⟩ | ⟨rfl, v, x, b, a, d, rfl⟩
    all_goals
      clear mask fits
      simp at h
      split at h
      · simp at *
        casesm* _ ∧ _
        subst_vars
        exact ⟨rfl, rfl⟩
      · simp at h
  case h_5 | h_6 =>
    obtain ⟨rfl, v, x, b, a, d, rfl⟩ := shape_two mask fits rfl
    clear mask fits
    simp at h
    split at h
    · simp at *
      casesm* _ ∧ _
      subst_vars
      exact ⟨rfl, rfl⟩
    · simp at h
  case h_7 | h_8 | h_9 =>
    rcases shape_two_four mask fits rfl with ⟨rfl, v, x, b, a, d, rfl⟩ | ⟨rfl, v, x, b, a, d, rfl⟩
    all_goals
      simp at h
      casesm* _ ∧ _
      subst_vars
      exact ⟨rfl, rfl⟩
  case h_11 =>
    rcases shape_two_four mask fits rfl with ⟨rfl, v, x, b, a, d, rfl⟩ | ⟨rfl, v, x, b, a, d, rfl⟩
    all_goals
      clear mask fits
      simp [needWf] at h
      casesm* _ ∧ _
      subst_vars
      exact encodes_of (canonical_of ‹_› rfl) rfl (low_three ‹_›) rfl
  case h_13 => cases h

/-- Row 9 of the map. -/
theorem decodeRow9_encode {col : Nat} {tl : BitVec 2} {m : BitVec 4} {t : BitVec 64} {i : Instr}
    (h : decodeRow9 col tl m t = some i) (mask : (tailMask (0x90 + col)).testBit tl.toNat = true)
    (fits : t.toNat < 2 ^ (16 * tailSlots tl)) : Encodes (0x90 + col) tl m t i := by
  unfold decodeRow9 at h
  split at h
  case h_1 | h_2 | h_3 | h_4 | h_11 | h_12 =>
    rcases shape_two_four mask fits rfl with ⟨rfl, v, x, b, a, d, rfl⟩ | ⟨rfl, v, x, b, a, d, rfl⟩
    all_goals
      clear mask fits
      simp at h
      split at h
      · simp at *
        casesm* _ ∧ _
        subst_vars
        exact ⟨rfl, rfl⟩
      · simp at h
  case h_5 | h_6 =>
    obtain ⟨rfl, v, x, b, a, d, rfl⟩ := shape_two mask fits rfl
    clear mask fits
    simp at h
    split at h
    · simp at *
      casesm* _ ∧ _
      subst_vars
      exact ⟨rfl, rfl⟩
    · simp at h
  case h_7 | h_8 =>
    rcases shape_two_four mask fits rfl with ⟨rfl, v, x, b, a, d, rfl⟩ | ⟨rfl, v, x, b, a, d, rfl⟩
    all_goals
      simp at h
      casesm* _ ∧ _
      subst_vars
      exact ⟨rfl, rfl⟩
  case h_9 =>
    rcases shape_two_four mask fits rfl with ⟨rfl, v, x, b, a, d, rfl⟩ | ⟨rfl, v, x, b, a, d, rfl⟩
    all_goals
      clear mask fits
      simp at h
      split_ifs at h
      all_goals
        casesm* _ ∧ _
        cases h
        subst_vars
        exact ⟨rfl, rfl⟩
  case h_10 =>
    rcases shape_two_four mask fits rfl with ⟨rfl, v, x, b, a, d, rfl⟩ | ⟨rfl, v, x, b, a, d, rfl⟩
    all_goals
      clear mask fits
      simp [needWf] at h
      casesm* _ ∧ _
      subst_vars
      exact encodes_of (canonical_of ‹_› rfl) rfl (low_three ‹_›) rfl
  case h_13 => cases h

/-- Row A of the map. -/
theorem decodeRowA_encode {col : Nat} {tl : BitVec 2} {m : BitVec 4} {t : BitVec 64} {i : Instr}
    (h : decodeRowA col tl m t = some i) (mask : (tailMask (0xA0 + col)).testBit tl.toNat = true)
    (fits : t.toNat < 2 ^ (16 * tailSlots tl)) : Encodes (0xA0 + col) tl m t i := by
  unfold decodeRowA at h
  split at h
  case h_1 | h_2 | h_3 | h_4 | h_5 | h_6 | h_7 | h_8 | h_9 =>
    rcases shape_two_four mask fits rfl with ⟨rfl, v, x, b, a, d, rfl⟩ | ⟨rfl, v, x, b, a, d, rfl⟩
    all_goals
      clear mask fits
      simp at h
      split at h
      · simp at *
        casesm* _ ∧ _
        subst_vars
        exact ⟨rfl, rfl⟩
      · simp at h
  case h_10 =>
    obtain ⟨rfl, rfl⟩ := shape_none mask fits rfl
    clear mask fits
    split at h
    · simp at *
      subst_vars
      exact ⟨rfl, rfl⟩
    · simp at h
  case h_11 =>
    obtain ⟨rfl, rfl⟩ := shape_none mask fits rfl
    simp at h
    casesm* _ ∧ _
    subst_vars
    exact ⟨rfl, rfl⟩
  case h_12 =>
    rcases shape_two_four mask fits rfl with ⟨rfl, v, x, b, a, d, rfl⟩ | ⟨rfl, v, x, b, a, d, rfl⟩
    all_goals
      clear mask fits
      simp at h
      split_ifs at h
      all_goals
        casesm* _ ∧ _
        cases h
        subst_vars
        exact ⟨rfl, rfl⟩
  case h_13 => cases h

/-- Row B of the map. -/
theorem decodeRowB_encode {col : Nat} {tl : BitVec 2} {m : BitVec 4} {t : BitVec 64} {i : Instr}
    (h : decodeRowB col tl m t = some i) (mask : (tailMask (0xB0 + col)).testBit tl.toNat = true)
    (fits : t.toNat < 2 ^ (16 * tailSlots tl)) : Encodes (0xB0 + col) tl m t i := by
  unfold decodeRowB at h
  split at h
  case h_1 =>
    obtain ⟨rfl, x, b, a, d, rfl⟩ | ⟨rfl, v, x, b, a, d, rfl⟩ := shape_one_two mask fits rfl
    · clear mask fits
      simp at h
      split at h
      · simp at *
        casesm* _ ∧ _
        subst_vars
        exact ⟨rfl, rfl⟩
      · simp at h
    · clear mask fits
      simp at h
      split at h
      · simp at *
        casesm* _ ∧ _
        subst_vars
        exact ⟨rfl, rfl⟩
      · simp at h
  case h_2 | h_4 | h_8 =>
    obtain ⟨rfl, rfl⟩ := shape_none mask fits rfl
    simp at h
    casesm* _ ∧ _
    subst_vars
    exact ⟨rfl, rfl⟩
  case h_3 | h_11 =>
    obtain ⟨rfl, x, b, a, d, rfl⟩ := shape_one mask fits rfl
    simp at h
    casesm* _ ∧ _
    subst_vars
    exact ⟨rfl, rfl⟩
  case h_5 =>
    obtain ⟨rfl, x, b, a, d, rfl⟩ := shape_one mask fits rfl
    clear mask fits
    simp at h
    split_ifs at h
    all_goals
      casesm* _ ∧ _
      cases h
      subst_vars
      exact ⟨rfl, rfl⟩
  case h_6 | h_12 =>
    obtain ⟨rfl, x, b, a, d, rfl⟩ := shape_one mask fits rfl
    clear mask fits
    simp [needWf] at h
    casesm* _ ∧ _
    subst_vars
    exact encodes_of (canonical_of ‹_› rfl) rfl (low_pair ‹_›) rfl
  case h_7 =>
    obtain ⟨rfl, x, b, a, d, rfl⟩ := shape_one mask fits rfl
    clear mask fits
    simp [needWf] at h
    casesm* _ ∧ _
    subst_vars
    exact encodes_of (canonical_of ‹_› rfl) rfl rfl rfl
  case h_9 | h_10 =>
    obtain ⟨rfl, x, b, a, d, rfl⟩ := shape_one mask fits rfl
    clear mask fits
    simp at h
    split at h
    · simp [needWf] at *
      casesm* _ ∧ _
      subst_vars
      exact encodes_of (canonical_of ‹_› rfl) rfl rfl rfl
    · simp at h
  case h_13 => cases h

/-- Row C of the map. -/
theorem decodeRowC_encode {col : Nat} {tl : BitVec 2} {m : BitVec 4} {t : BitVec 64} {i : Instr}
    (h : decodeRowC col tl m t = some i) (mask : (tailMask (0xC0 + col)).testBit tl.toNat = true)
    (fits : t.toNat < 2 ^ (16 * tailSlots tl)) : Encodes (0xC0 + col) tl m t i := by
  unfold decodeRowC at h
  split at h
  case h_1 | h_2 | h_3 | h_4 | h_5 | h_6 | h_9 | h_10 | h_11 | h_12 =>
    obtain ⟨rfl, x, b, a, d, rfl⟩ := shape_one mask fits rfl
    simp at h
    casesm* _ ∧ _
    subst_vars
    exact ⟨rfl, rfl⟩
  case h_7 | h_8 =>
    obtain ⟨rfl, v, x, b, a, d, rfl⟩ := shape_two mask fits rfl
    clear mask fits
    simp at h
    split at h
    · simp at *
      casesm* _ ∧ _
      subst_vars
      exact ⟨rfl, rfl⟩
    · simp at h
  case h_13 => cases h

/-- Row D of the map. -/
theorem decodeRowD_encode {col : Nat} {tl : BitVec 2} {m : BitVec 4} {t : BitVec 64} {i : Instr}
    (h : decodeRowD col tl m t = some i) (mask : (tailMask (0xD0 + col)).testBit tl.toNat = true)
    (fits : t.toNat < 2 ^ (16 * tailSlots tl)) : Encodes (0xD0 + col) tl m t i := by
  unfold decodeRowD at h
  split at h
  case h_1 | h_2 | h_3 | h_4 | h_6 | h_7 | h_8 | h_9 | h_11 | h_12 =>
    obtain ⟨rfl, x, b, a, d, rfl⟩ := shape_one mask fits rfl
    simp at h
    casesm* _ ∧ _
    subst_vars
    exact ⟨rfl, rfl⟩
  case h_5 =>
    obtain ⟨rfl, x, b, a, d, rfl⟩ := shape_one mask fits rfl
    clear mask fits
    simp at h
    split_ifs at h
    all_goals
      casesm* _ ∧ _
      cases h
      subst_vars
      exact ⟨rfl, rfl⟩
  case h_10 =>
    obtain ⟨rfl, rfl⟩ := shape_none mask fits rfl
    clear mask fits
    simp at h
    split_ifs at h
    all_goals
      cases h
      subst_vars
      exact ⟨rfl, rfl⟩
  case h_13 => cases h

/-- Row E of the map. -/
theorem decodeRowE_encode {col : Nat} {tl : BitVec 2} {m : BitVec 4} {t : BitVec 64} {i : Instr}
    (h : decodeRowE col tl m t = some i) (mask : (tailMask (0xE0 + col)).testBit tl.toNat = true)
    (fits : t.toNat < 2 ^ (16 * tailSlots tl)) : Encodes (0xE0 + col) tl m t i := by
  unfold decodeRowE at h
  split at h
  case h_1 | h_2 | h_3 | h_4 | h_5 | h_6 | h_7 =>
    obtain ⟨rfl, x, b, a, d, rfl⟩ := shape_one mask fits rfl
    simp at h
    casesm* _ ∧ _
    subst_vars
    exact encodes_of rfl rfl (low_pair ‹_›) rfl
  case h_8 | h_9 | h_11 | h_12 =>
    obtain ⟨rfl, x, b, a, d, rfl⟩ := shape_one mask fits rfl
    simp at h
    casesm* _ ∧ _
    subst_vars
    exact ⟨rfl, rfl⟩
  case h_10 =>
    obtain ⟨rfl, v, x, b, a, d, rfl⟩ := shape_two mask fits rfl
    clear mask fits
    simp at h
    casesm* _ ∧ _
    subst_vars
    exact encodes_of rfl rfl (low_pair ‹_›) (short_imm4 _ _ _ _ ‹_›)
  case h_13 => cases h

/-- Row F of the map. -/
theorem decodeRowF_encode {col : Nat} {tl : BitVec 2} {m : BitVec 4} {t : BitVec 64} {i : Instr}
    (h : decodeRowF col tl m t = some i) (mask : (tailMask (0xF0 + col)).testBit tl.toNat = true)
    (fits : t.toNat < 2 ^ (16 * tailSlots tl)) : Encodes (0xF0 + col) tl m t i := by
  unfold decodeRowF at h
  split at h
  case h_1 =>
    obtain ⟨rfl, rfl⟩ := shape_none mask fits rfl
    cases h
    exact ⟨rfl, rfl⟩
  case h_2 | h_4 | h_5 | h_12 =>
    obtain ⟨rfl, rfl⟩ := shape_none mask fits rfl
    simp at h
    casesm* _ ∧ _
    subst_vars
    exact ⟨rfl, rfl⟩
  case h_9 | h_10 =>
    obtain ⟨rfl, x, b, a, d, rfl⟩ := shape_one mask fits rfl
    simp at h
    casesm* _ ∧ _
    subst_vars
    exact ⟨rfl, rfl⟩
  case h_3 =>
    obtain ⟨rfl, v, x, b, a, d, rfl⟩ := shape_two mask fits rfl
    clear mask fits
    simp at h
    casesm* _ ∧ _
    subst_vars
    exact decodeSvc_encode _
  case h_6 | h_11 =>
    obtain ⟨rfl, x, b, a, d, rfl⟩ := shape_one mask fits rfl
    clear mask fits
    simp at h
    split_ifs at h
    all_goals
      casesm* _ ∧ _
      cases h
      subst_vars
      exact ⟨rfl, rfl⟩
  case h_7 =>
    obtain ⟨rfl, x, b, a, d, rfl⟩ := shape_one mask fits rfl
    clear mask fits
    simp [needWf] at h
    casesm* _ ∧ _
    subst_vars
    exact encodes_of (canonical_of ‹_› rfl) rfl rfl rfl
  case h_8 =>
    obtain ⟨rfl, x, b, a, d, rfl⟩ := shape_one mask fits rfl
    clear mask fits
    simp at h
    obtain ⟨⟨rfl, rfl⟩, rfl⟩ := h
    split
    · subst_vars
      exact ⟨rfl, rfl⟩
    · exact ⟨bne_iff_ne.mpr ‹_›, rfl⟩
  case h_13 => cases h

theorem tail_low {t : BitVec 64} (h : t.toNat < 2 ^ 16) : 0#48 ++ t.extractLsb' 0 16 = t := by
  apply BitVec.eq_of_toNat_eq
  have left : (0#48 ++ t.extractLsb' 0 16 : BitVec 64).toNat = (t.extractLsb' 0 16).toNat := toNat_zero_append _
  rw [left, BitVec.extractLsb'_toNat, Nat.shiftRight_zero, Nat.mod_eq_of_lt h]

/-- Row 0 of the map, `ILL` and `NOP` apart. -/
theorem decodeRow0_encode {col : Nat} {tl : BitVec 2} {m : BitVec 4} {t : BitVec 64} {i : Instr}
    (h : decodeRow0 col tl m t = some i) (h2 : 2 ≤ col) (mask : (tailMask (0x00 + col)).testBit tl.toNat = true)
    (fits : t.toNat < 2 ^ (16 * tailSlots tl)) : Encodes (0x00 + col) tl m t i := by
  unfold decodeRow0 at h
  split at h
  case h_1 | h_2 => omega
  case h_3 | h_6 =>
    have one : tl = 1#2 := (shape_one mask fits rfl).1
    subst one
    simp at h
    casesm* _ ∧ _
    subst_vars
    exact encodes_of rfl rfl rfl (tail_low fits)
  case h_4 =>
    obtain ⟨rfl, v, x, b, a, d, rfl⟩ := shape_two mask fits rfl
    clear mask fits
    simp at h
    split at h
    · simp at *
      casesm* _ ∧ _
      subst_vars
      exact ⟨rfl, rfl⟩
    · simp at h
  case h_5 | h_7 =>
    obtain ⟨rfl, x, b, a, d, rfl⟩ := shape_one mask fits rfl
    simp at h
    casesm* _ ∧ _
    subst_vars
    exact ⟨rfl, rfl⟩
  case h_8 | h_9 | h_10 | h_12 =>
    obtain ⟨rfl, rfl⟩ := shape_none mask fits rfl
    simp at h
    casesm* _ ∧ _
    subst_vars
    exact ⟨rfl, rfl⟩
  case h_11 =>
    obtain ⟨rfl, v, x, b, a, d, rfl⟩ := shape_two mask fits rfl
    clear mask fits
    simp [needWf] at h
    casesm* _ ∧ _
    subst_vars
    exact encodes_of (canonical_of ‹_› rfl) rfl rfl rfl
  case h_13 => cases h

/-- `ILL` and `NOP` have encodings, whatever their tails. -/
theorem decodeRow0_low {col : Nat} {tl : BitVec 2} {m : BitVec 4} {t : BitVec 64} {i : Instr}
    (h : decodeRow0 col tl m t = some i) (h2 : col < 2) : i.canonical = true ∧ ∃ e, encode i = some e := by
  obtain rfl | rfl : col = 0 ∨ col = 1 := by omega
  · obtain ⟨rfl⟩ := h
    split_ifs <;> exact ⟨rfl, _, rfl⟩
  · simp only [decodeRow0, Option.ite_none_right_eq_some, Option.some.injEq] at h
    obtain ⟨-, rfl⟩ := h
    split_ifs <;> exact ⟨rfl, _, rfl⟩

/-- What the body of an opcode decodes to encodes to its fields again. -/
theorem decodeBody_encode {op : BitVec 8} {tl : BitVec 2} {m : BitVec 4} {t : BitVec 64} {i : Instr}
    (h : decodeBody op tl m t = some i) (h2 : 2 ≤ op.toNat) (mask : (tailMask op.toNat).testBit tl.toNat = true)
    (fits : t.toNat < 2 ^ (16 * tailSlots tl)) : Encodes op.toNat tl m t i := by
  have split_op : op.toNat = 16 * (op.toNat / 16) + op.toNat % 16 := (Nat.div_add_mod _ _).symm
  have small := op.isLt
  generalize hr : op.toNat / 16 = r at *
  unfold decodeBody at h
  rw [split_op] at mask ⊢
  rw [hr] at h
  obtain rfl | rfl | rfl | rfl | rfl | rfl | rfl | rfl | rfl | rfl | rfl | rfl | rfl | rfl | rfl | rfl :
      r = 0 ∨ r = 1 ∨ r = 2 ∨ r = 3 ∨ r = 4 ∨ r = 5 ∨ r = 6 ∨ r = 7 ∨ r = 8 ∨ r = 9 ∨ r = 10 ∨ r = 11 ∨ r = 12 ∨ r = 13 ∨ r = 14 ∨ r = 15 := by
    omega
  · exact decodeRow0_encode h (by omega) mask fits
  · exact decodeRow1_encode h mask fits
  · exact decodeRow2_encode h mask fits
  · exact decodeRow3_encode h mask fits
  · exact decodeRow4_encode h mask fits
  · exact decodeRow5_encode h mask fits
  · exact decodeRow6_encode h mask fits
  · exact decodeRow7_encode h mask fits
  · exact decodeRow8_encode h mask fits
  · exact decodeRow9_encode h mask fits
  · exact decodeRowA_encode h mask fits
  · exact decodeRowB_encode h mask fits
  · exact decodeRowC_encode h mask fits
  · exact decodeRowD_encode h mask fits
  · exact decodeRowE_encode h mask fits
  · exact decodeRowF_encode h mask fits

theorem head_fields (h : BitVec 16) : headOp h ++ headTl h ++ h.extractLsb' 4 2 ++ headM h = h := by
  apply BitVec.eq_of_getLsbD_eq
  intro i hi
  simp only [headOp, headTl, headM, BitVec.getLsbD_append, BitVec.getLsbD_extractLsb']
  split_ifs
  all_goals
    rw [decide_eq_true (by omega), Bool.true_and]
    congr 1
    omega

/-- What a head and tail decode to encodes to that head and tail again, `NOP` and `ILL` apart. -/
theorem encode_decode {h : BitVec 16} {t : BitVec 64} {i : Instr} (fits : t.toNat < 2 ^ (16 * tailSlots (headTl h)))
    (hd : decodeInstr h t = .ok i) :
    i.canonical = true ∧ ∃ e, encode i = some e ∧ (2 ≤ (headOp h).toNat → e.head (h.extractLsb' 4 2) = h ∧ e.tail = t) := by
  unfold decodeInstr decodeFields at hd
  split at hd
  case isTrue reserved =>
    cases hd
    refine ⟨canonical_of ?_ rfl, _, rfl, fun _ => ⟨head_fields h, rfl⟩⟩
    simpa [Instr.wf, opReserved, fits] using reserved
  case isFalse =>
    split at hd
    case isTrue => cases hd
    case isFalse mask =>
      split at hd
      case h_2 => cases hd
      case h_1 j body =>
        cases hd
        have mask : (tailMask (headOp h).toNat).testBit (headTl h).toNat = true := by simpa using mask
        by_cases h2 : 2 ≤ (headOp h).toNat
        · obtain ⟨canonical, enc⟩ := decodeBody_encode body h2 mask fits
          rw [BitVec.ofNat_toNat, BitVec.setWidth_eq] at enc
          exact ⟨canonical, _, enc, fun _ => ⟨head_fields h, rfl⟩⟩
        · have row : decodeRow0 ((headOp h).toNat % 16) (headTl h) (headM h) t = some i := by
            unfold decodeBody at body
            rwa [show (headOp h).toNat / 16 = 0 by omega] at body
          obtain ⟨canonical, e, enc⟩ := decodeRow0_low row (by omega)
          exact ⟨canonical, e, enc, fun h => absurd h h2⟩

/-! ### Decoding undoes encoding, for every instruction -/

theorem decode_encode : ∀ i, RoundTrip.Statement i
  | .ill x => RoundTrip.ill x | .br x => RoundTrip.br x | .brc x y z u => RoundTrip.brc x y z u | .jmp x => RoundTrip.jmp x
  | .call x => RoundTrip.call x | .callr x => RoundTrip.callr x | .loop x y => RoundTrip.loop x y
  | .add x y z => RoundTrip.add x y z | .sub x y z => RoundTrip.sub x y z | .addi x y z => RoundTrip.addi x y z
  | .addiT4 x y z => RoundTrip.addiT4 x y z | .mul x y z => RoundTrip.mul x y z | .mulh x y z u => RoundTrip.mulh x y z u
  | .div x y z u => RoundTrip.div x y z u | .rem x y z u => RoundTrip.rem x y z u | .min x y z u => RoundTrip.min x y z u
  | .max x y z u => RoundTrip.max x y z u | .slt x y z u => RoundTrip.slt x y z u | .slti x y z u => RoundTrip.slti x y z u
  | .sltiT4 x y z u => RoundTrip.sltiT4 x y z u | .madd x y z => RoundTrip.madd x y z | .and x y z => RoundTrip.and x y z
  | .or x y z => RoundTrip.or x y z | .xor x y z => RoundTrip.xor x y z | .andn x y z => RoundTrip.andn x y z
  | .logi x y z u => RoundTrip.logi x y z u | .logiT4 x y z u => RoundTrip.logiT4 x y z u | .shl x y z => RoundTrip.shl x y z
  | .shlImm x y z => RoundTrip.shlImm x y z | .shr x y z => RoundTrip.shr x y z | .shrImm x y z => RoundTrip.shrImm x y z
  | .sar x y z => RoundTrip.sar x y z | .sarImm x y z => RoundTrip.sarImm x y z | .rot x y z => RoundTrip.rot x y z
  | .rotImm x y z => RoundTrip.rotImm x y z | .clz x y => RoundTrip.clz x y | .popc x y => RoundTrip.popc x y
  | .bfx x y z u v => RoundTrip.bfx x y z u v | .mov x y => RoundTrip.mov x y | .movi x y => RoundTrip.movi x y
  | .moviT4 x y => RoundTrip.moviT4 x y | .movhi x y z => RoundTrip.movhi x y z | .sel x y z => RoundTrip.sel x y z
  | .lea x y z => RoundTrip.lea x y z | .leaT4 x y z => RoundTrip.leaT4 x y z | .movs x y => RoundTrip.movs x y
  | .movsWptr x => RoundTrip.movsWptr x | .movsSsp x => RoundTrip.movsSsp x | .movt x y => RoundTrip.movt x y
  | .movtSts x => RoundTrip.movtSts x | .movtWptr x => RoundTrip.movtWptr x | .movtSsp x => RoundTrip.movtSsp x
  | .ids x y => RoundTrip.ids x y | .clk x => RoundTrip.clk x | .rng x y z => RoundTrip.rng x y z
  | .cmp x y z u => RoundTrip.cmp x y z u | .cmpImm x y z u => RoundTrip.cmpImm x y z u | .ext x y z => RoundTrip.ext x y z
  | .fadd x y z u v => RoundTrip.fadd x y z u v | .fsub x y z u v => RoundTrip.fsub x y z u v
  | .fmul x y z u v => RoundTrip.fmul x y z u v | .ffma x y z u v => RoundTrip.ffma x y z u v
  | .fdiv x y z u v => RoundTrip.fdiv x y z u v | .fsqrt x y z u => RoundTrip.fsqrt x y z u
  | .fmin x y z u => RoundTrip.fmin x y z u | .fmax x y z u => RoundTrip.fmax x y z u
  | .fcmp x y z u v => RoundTrip.fcmp x y z u v | .fcvt x y z => RoundTrip.fcvt x y z
  | .fsgn x y z u v => RoundTrip.fsgn x y z u v | .fcls x y z => RoundTrip.fcls x y z | .vadd x y z u => RoundTrip.vadd x y z u
  | .vsub x y z u => RoundTrip.vsub x y z u | .vmul x y z u => RoundTrip.vmul x y z u | .vand x y z u => RoundTrip.vand x y z u
  | .vor x y z u => RoundTrip.vor x y z u | .vxor x y z u => RoundTrip.vxor x y z u
  | .vshift x y z u v => RoundTrip.vshift x y z u v | .vminmax x y z u v w => RoundTrip.vminmax x y z u v w
  | .vsel x y z u v => RoundTrip.vsel x y z u v | .vbcast x y z => RoundTrip.vbcast x y z
  | .vperm x y z u => RoundTrip.vperm x y z u | .vextr x y z u => RoundTrip.vextr x y z u
  | .vextrImm x y z u => RoundTrip.vextrImm x y z u | .vfadd x y z u => RoundTrip.vfadd x y z u
  | .vfsub x y z u => RoundTrip.vfsub x y z u | .vfmul x y z u => RoundTrip.vfmul x y z u
  | .vffma x y z u => RoundTrip.vffma x y z u | .vfmin x y z u => RoundTrip.vfmin x y z u
  | .vfmax x y z u => RoundTrip.vfmax x y z u | .vfrcp x y z => RoundTrip.vfrcp x y z | .vfrsq x y z => RoundTrip.vfrsq x y z
  | .vfexp x y z => RoundTrip.vfexp x y z | .vfcmp x y z u v => RoundTrip.vfcmp x y z u v
  | .vfred x y z u => RoundTrip.vfred x y z u | .vrng x y z u => RoundTrip.vrng x y z u | .fmt x => RoundTrip.fmt x
  | .vcvt x y z => RoundTrip.vcvt x y z | .vq8 x y z u => RoundTrip.vq8 x y z u | .vdq8 x y z u => RoundTrip.vdq8 x y z u
  | .vscale x y z u => RoundTrip.vscale x y z u | .kand x y z u => RoundTrip.kand x y z u | .kmov x y => RoundTrip.kmov x y
  | .kmovFx x y => RoundTrip.kmovFx x y | .kmovTx x y => RoundTrip.kmovTx x y | .vpack x y z u => RoundTrip.vpack x y z u
  | .vunpk x y z u => RoundTrip.vunpk x y z u | .vclamp x y z u => RoundTrip.vclamp x y z u | .ld x y z u => RoundTrip.ld x y z u
  | .ldT4 x y z u => RoundTrip.ldT4 x y z u | .ldv x y z u => RoundTrip.ldv x y z u | .ldvT4 x y z u => RoundTrip.ldvT4 x y z u
  | .ldvs x y z u v => RoundTrip.ldvs x y z u v | .ldvsT4 x y z u v => RoundTrip.ldvsT4 x y z u v
  | .ldvg x y z u v => RoundTrip.ldvg x y z u v | .ldvgT4 x y z u v => RoundTrip.ldvgT4 x y z u v
  | .ldl x y z u => RoundTrip.ldl x y z u | .ldlv x y z u => RoundTrip.ldlv x y z u | .ldfe x y z => RoundTrip.ldfe x y z
  | .ldfeT4 x y z => RoundTrip.ldfeT4 x y z | .ldff x y z => RoundTrip.ldff x y z | .ldffT4 x y z => RoundTrip.ldffT4 x y z
  | .ldfs x y z u => RoundTrip.ldfs x y z u | .ldfsT4 x y z u => RoundTrip.ldfsT4 x y z u
  | .ldx x y z u v => RoundTrip.ldx x y z u v | .ldxT4 x y z u v => RoundTrip.ldxT4 x y z u v
  | .ldm x y z u => RoundTrip.ldm x y z u | .ldmT4 x y z u => RoundTrip.ldmT4 x y z u
  | .ldnp x y z u v => RoundTrip.ldnp x y z u v | .ldnpT4 x y z u v => RoundTrip.ldnpT4 x y z u v
  | .st x y z u => RoundTrip.st x y z u | .stT4 x y z u => RoundTrip.stT4 x y z u | .stv x y z u => RoundTrip.stv x y z u
  | .stvT4 x y z u => RoundTrip.stvT4 x y z u | .stvs x y z u v => RoundTrip.stvs x y z u v
  | .stvsT4 x y z u v => RoundTrip.stvsT4 x y z u v | .stvg x y z u v => RoundTrip.stvg x y z u v
  | .stvgT4 x y z u v => RoundTrip.stvgT4 x y z u v | .stl x y z u => RoundTrip.stl x y z u
  | .stlv x y z u => RoundTrip.stlv x y z u | .stef x y z => RoundTrip.stef x y z | .stefT4 x y z => RoundTrip.stefT4 x y z
  | .stff x y z => RoundTrip.stff x y z | .stffT4 x y z => RoundTrip.stffT4 x y z | .fesetE x y => RoundTrip.fesetE x y
  | .fesetET4 x y => RoundTrip.fesetET4 x y | .fesetF x y => RoundTrip.fesetF x y | .fesetFT4 x y => RoundTrip.fesetFT4 x y
  | .stm x y z u => RoundTrip.stm x y z u | .stmT4 x y z u => RoundTrip.stmT4 x y z u | .stx x y z u v => RoundTrip.stx x y z u v
  | .stxT4 x y z u v => RoundTrip.stxT4 x y z u v | .stnp x y z u v => RoundTrip.stnp x y z u v
  | .stnpT4 x y z u v => RoundTrip.stnpT4 x y z u v | .aadd x y z u v => RoundTrip.aadd x y z u v
  | .aaddT4 x y z u v => RoundTrip.aaddT4 x y z u v | .amin x y z u v => RoundTrip.amin x y z u v
  | .aminT4 x y z u v => RoundTrip.aminT4 x y z u v | .amax x y z u v => RoundTrip.amax x y z u v
  | .amaxT4 x y z u v => RoundTrip.amaxT4 x y z u v | .aand x y z u v => RoundTrip.aand x y z u v
  | .aandT4 x y z u v => RoundTrip.aandT4 x y z u v | .aor x y z u v => RoundTrip.aor x y z u v
  | .aorT4 x y z u v => RoundTrip.aorT4 x y z u v | .axor x y z u v => RoundTrip.axor x y z u v
  | .axorT4 x y z u v => RoundTrip.axorT4 x y z u v | .aswp x y z u v => RoundTrip.aswp x y z u v
  | .aswpT4 x y z u v => RoundTrip.aswpT4 x y z u v | .acas x y z u v => RoundTrip.acas x y z u v
  | .acasT4 x y z u v => RoundTrip.acasT4 x y z u v | .afadd x y z u v => RoundTrip.afadd x y z u v
  | .afaddT4 x y z u v => RoundTrip.afaddT4 x y z u v | .fence x => RoundTrip.fence x | .bhintPf x y z => RoundTrip.bhintPf x y z
  | .bhintPfT4 x y z => RoundTrip.bhintPfT4 x y z | .bhintPin x y z => RoundTrip.bhintPin x y z
  | .bhintPinT4 x y z => RoundTrip.bhintPinT4 x y z | .bhintUnpin x y z => RoundTrip.bhintUnpin x y z
  | .bhintUnpinT4 x y z => RoundTrip.bhintUnpinT4 x y z | .bhintEv x y z => RoundTrip.bhintEv x y z
  | .bhintEvT4 x y z => RoundTrip.bhintEvT4 x y z | .spawn x y z u => RoundTrip.spawn x y z u
  | .spawnLabel x y z u => RoundTrip.spawnLabel x y z u | .launch x y => RoundTrip.launch x y
  | .migrate x y => RoundTrip.migrate x y | .migrateNear x y => RoundTrip.migrateNear x y
  | .send x y z u => RoundTrip.send x y z u | .sendLoopback x y z u => RoundTrip.sendLoopback x y z u
  | .sendEndOverflow x y z u => RoundTrip.sendEndOverflow x y z u | .recv x y => RoundTrip.recv x y
  | .recvArrival x y => RoundTrip.recvArrival x y | .bar x y z => RoundTrip.bar x y z | .bara x y z u => RoundTrip.bara x y z u
  | .trigarm x y z => RoundTrip.trigarm x y z | .sendx x y z u => RoundTrip.sendx x y z u
  | .tqpush x y z => RoundTrip.tqpush x y z | .tqstat x y => RoundTrip.tqstat x y | .tkill x y => RoundTrip.tkill x y
  | .tcont x y z => RoundTrip.tcont x y z | .accal x y => RoundTrip.accal x y | .accfr x y => RoundTrip.accfr x y
  | .accld x y z u => RoundTrip.accld x y z u | .accst x y z u => RoundTrip.accst x y z u | .accz x y => RoundTrip.accz x y
  | .ssmrun x y z => RoundTrip.ssmrun x y z | .ssmstat x y => RoundTrip.ssmstat x y | .tseq x y => RoundTrip.tseq x y
  | .jinit x y z => RoundTrip.jinit x y z | .jarrive x => RoundTrip.jarrive x | .jcontrib x y z => RoundTrip.jcontrib x y z
  | .jwait x y => RoundTrip.jwait x y | .jqrySt x y => RoundTrip.jqrySt x y | .jqryWt x y => RoundTrip.jqryWt x y
  | .jkill x y z => RoundTrip.jkill x y z | .jroster x y z => RoundTrip.jroster x y z | .jreplay x y z => RoundTrip.jreplay x y z
  | .jclose x y => RoundTrip.jclose x y | .jbind x y z => RoundTrip.jbind x y z | .jrel x y => RoundTrip.jrel x y
  | .copy x y => RoundTrip.copy x y | .copys x y => RoundTrip.copys x y | .deal x y => RoundTrip.deal x y
  | .enck x y => RoundTrip.enck x y | .deck x y => RoundTrip.deck x y | .redc x y => RoundTrip.redc x y
  | .bcast x y => RoundTrip.bcast x y | .lease x y => RoundTrip.lease x y | .unlease x y => RoundTrip.unlease x y
  | .mbxst x y z u => RoundTrip.mbxst x y z u | .trigset x y z => RoundTrip.trigset x y z | .trigrd x y => RoundTrip.trigrd x y
  | .trap x => RoundTrip.trap x | .svc x => RoundTrip.svc x | .tlbiG x y => RoundTrip.tlbiG x y | .tlbiH x => RoundTrip.tlbiH x
  | .tlbiAsid x => RoundTrip.tlbiAsid x | .fqpop x y z => RoundTrip.fqpop x y z
  | .fqrepReplay x y z => RoundTrip.fqrepReplay x y z | .fqrepGiveup x y z => RoundTrip.fqrepGiveup x y z
  | .pgmap x y => RoundTrip.pgmap x y | .slice x y z => RoundTrip.slice x y z | .prtnQry x y => RoundTrip.prtnQry x y
  | .prtnSplit x y => RoundTrip.prtnSplit x y | .prtnMerge x y => RoundTrip.prtnMerge x y
  | .reservedOpcode x y z u => RoundTrip.reservedOpcode x y z u | .illT1 => RoundTrip.illT1 | .illT2 => RoundTrip.illT2
  | .illT4 => RoundTrip.illT4 | .nop => RoundTrip.nop | .nopT1 => RoundTrip.nopT1 | .nopT2 => RoundTrip.nopT2
  | .nopT4 => RoundTrip.nopT4 | .ret => RoundTrip.ret | .save => RoundTrip.save | .restore => RoundTrip.restore
  | .kpt => RoundTrip.kpt | .rlx => RoundTrip.rlx | .vdrop => RoundTrip.vdrop | .waita => RoundTrip.waita
  | .quit => RoundTrip.quit | .yield => RoundTrip.yield | .waitm => RoundTrip.waitm | .kmaskOff => RoundTrip.kmaskOff
  | .kmaskOn => RoundTrip.kmaskOn | .tret => RoundTrip.tret | .lend => RoundTrip.lend | .smove => RoundTrip.smove
  | .sreg => RoundTrip.sreg | .sret => RoundTrip.sret | .pspill => RoundTrip.pspill | .sstep => RoundTrip.sstep
  | .flog => RoundTrip.flog | .gstop => RoundTrip.gstop | .gres => RoundTrip.gres | .tlbiAll => RoundTrip.tlbiAll
  | .wfe => RoundTrip.wfe | .queuePortLaunch => RoundTrip.queuePortLaunch | .queuePortOtherKind => RoundTrip.queuePortOtherKind
  | .launchStrandCreate => RoundTrip.launchStrandCreate | .strandArrival => RoundTrip.strandArrival
  | .wordRequestAnswer => RoundTrip.wordRequestAnswer | .postedWriteDrain => RoundTrip.postedWriteDrain
  | .spillSector => RoundTrip.spillSector | .slotPatienceExpiry => RoundTrip.slotPatienceExpiry
  | .wordWaiterRetry => RoundTrip.wordWaiterRetry | .fetchStart => RoundTrip.fetchStart | .fetchDone => RoundTrip.fetchDone
  | .fetchFault => RoundTrip.fetchFault | .writeBackDone => RoundTrip.writeBackDone | .launchSweep => RoundTrip.launchSweep
  | .messageArrival => RoundTrip.messageArrival | .arrivalQueueAdmit => RoundTrip.arrivalQueueAdmit
  | .movementDispatch => RoundTrip.movementDispatch | .movementSegmentEnd => RoundTrip.movementSegmentEnd
  | .movementComplete => RoundTrip.movementComplete | .movementFault => RoundTrip.movementFault
  | .leasePeriodEnd => RoundTrip.leasePeriodEnd | .triggeredEnqueue => RoundTrip.triggeredEnqueue
  | .taskKblockEnd => RoundTrip.taskKblockEnd | .taskFault => RoundTrip.taskFault | .taskComplete => RoundTrip.taskComplete
  | .engineFailure => RoundTrip.engineFailure | .ssmUnitEnd => RoundTrip.ssmUnitEnd | .ssmUnitFault => RoundTrip.ssmUnitFault
  | .joinDeferredArrival => RoundTrip.joinDeferredArrival | .joinFoldDone => RoundTrip.joinFoldDone
  | .joinFoldFault => RoundTrip.joinFoldFault | .faultPostRetry => RoundTrip.faultPostRetry
  | .sliceExpiry => RoundTrip.sliceExpiry | .sliceOverrun => RoundTrip.sliceOverrun | .ldxTimeout => RoundTrip.ldxTimeout
  | .rtaArm => RoundTrip.rtaArm | .rtaActRead => RoundTrip.rtaActRead | .rtaArmExpiry => RoundTrip.rtaArmExpiry
  | .writeBackScan => RoundTrip.writeBackScan | .flashWriteComplete => RoundTrip.flashWriteComplete
  | .hostAccess => RoundTrip.hostAccess | .linkPortFailure => RoundTrip.linkPortFailure | .dieReset => RoundTrip.dieReset
  | .dieReturn => RoundTrip.dieReturn | .hbmStackLoss => RoundTrip.hbmStackLoss | .rowRemapFailure => RoundTrip.rowRemapFailure
  | .scrubPass => RoundTrip.scrubPass | .clockStretch => RoundTrip.clockStretch | .vfReplan => RoundTrip.vfReplan
  | .imageVerify => RoundTrip.imageVerify | .moduleMemoryInit => RoundTrip.moduleMemoryInit | .crst => RoundTrip.crst
  | .msrWrite => RoundTrip.msrWrite | .ahashWrite => RoundTrip.ahashWrite | .pewcfgWrite => RoundTrip.pewcfgWrite
  | .stackCounterClear => RoundTrip.stackCounterClear | .partitionRecordCommit => RoundTrip.partitionRecordCommit
  | .partitionDissolve => RoundTrip.partitionDissolve | .serviceSpaceWrite => RoundTrip.serviceSpaceWrite
  | .hmapStore => RoundTrip.hmapStore | .pinqStore => RoundTrip.pinqStore | .controlRegionWrite => RoundTrip.controlRegionWrite
  | .movementEngineFailure => RoundTrip.movementEngineFailure | .remoteAccessArrival => RoundTrip.remoteAccessArrival
  | .remoteBarrierArrival => RoundTrip.remoteBarrierArrival | .storagePortAccess => RoundTrip.storagePortAccess
  | .backgroundClearing => RoundTrip.backgroundClearing | .virtualFunctionReset => RoundTrip.virtualFunctionReset
  | .moduleReset => RoundTrip.moduleReset | .podFormation => RoundTrip.podFormation
  | .queuePortAssignment => RoundTrip.queuePortAssignment

end Sys2Proof.Laws
end

section

namespace Sys2Proof.Machine

set_option Elab.async false

/-- A table answers none where its instruction is not of its form. -/
theorem none_ne_some {α : Type} {a : α} {P : Prop} (h : none = some a) : P := nomatch h

end Sys2Proof.Machine
end

section

namespace Sys2Proof.Laws

open Sys2Proof

/-! ### An encoded instruction in its line -/

/-- The tail fits in the slots that its length gives. -/
def EncFits (e : Enc) : Prop := e.tail.toNat < 2 ^ (16 * tailSlots e.tl)

section

variable (op : BitVec 8) (m : BitVec 4) (x : BitVec 1) (b a d : BitVec 5)

theorem mkTail_lt {i : BitVec 48} {k : Nat} (h : i.toNat < 2 ^ k) : (mkTail i x b a d).toNat < 2 ^ (16 + k) := by
  have imm := congrArg BitVec.toNat (tail_imm48 i x b a d)
  have small := (mkTail i x b a d).isLt
  rw [Tail.imm48, BitVec.extractLsb'_toNat, Nat.shiftRight_eq_div_pow, Nat.mod_eq_of_lt (by omega)] at imm
  rw [Nat.pow_add, Nat.mul_comm]
  exact (Nat.div_lt_iff_lt_mul (by decide)).mp (imm ▸ h)

theorem fits_zero (tl : BitVec 2) : EncFits ⟨op, tl, m, 0#64⟩ := Nat.two_pow_pos _

theorem fits_target (v : BitVec 16) : EncFits ⟨op, 1#2, m, 0#48 ++ v⟩ := (toNat_zero_append v).trans_lt v.isLt

theorem fits_one : EncFits ⟨op, 1#2, m, mkTail 0#48 x b a d⟩ := mkTail_lt (k := 0) x b a d (by decide)

theorem fits_two (v : BitVec 16) : EncFits ⟨op, 2#2, m, mkTail (0#32 ++ v) x b a d⟩ :=
  mkTail_lt (k := 16) x b a d ((toNat_zero_append v).trans_lt v.isLt)

theorem fits_imm6 (v : BitVec 6) : EncFits ⟨op, 2#2, m, mkTail (0#42 ++ v) x b a d⟩ :=
  mkTail_lt (k := 16) x b a d ((toNat_zero_append v).trans_lt (v.isLt.trans (by decide)))

theorem fits_imm4 (v : BitVec 4) : EncFits ⟨op, 2#2, m, mkTail (0#44 ++ v) x b a d⟩ :=
  mkTail_lt (k := 16) x b a d ((toNat_zero_append v).trans_lt (v.isLt.trans (by decide)))

theorem fits_imm13 (w : BitVec 7) (p : BitVec 6) : EncFits ⟨op, 2#2, m, mkTail (0#35 ++ w ++ p) x b a d⟩ := by
  refine mkTail_lt (k := 16) x b a d ?_
  have e : (0#35 ++ w ++ p : BitVec 48).toNat = (0#35 ++ w).toNat <<< 6 ||| p.toNat := BitVec.toNat_append _ _
  rw [e, toNat_zero_append, ← Nat.shiftLeft_add_eq_or_of_lt p.isLt, Nat.shiftLeft_eq]
  have hw := w.isLt
  have hp := p.isLt
  omega

theorem fits_four (v : BitVec 64) : EncFits ⟨op, 3#2, m, v⟩ := v.isLt

end

theorem fits_of {e' : Enc} (h : EncFits e') {e : Enc} (he : some e' = some e) : EncFits e := Option.some.inj he ▸ h

theorem encode_fits {i : Instr} {e : Enc} (hc : i.canonical = true) (he : encode i = some e) : EncFits e := by
  cases i
  case reservedOpcode op m tl t =>
    cases he
    simp only [Instr.canonical, Instr.wf, Bool.and_eq_true, decide_eq_true_eq] at hc
    exact hc.1.2
  case ill | illT1 | illT2 | nop | nopT1 | nopT2 | ret | save | restore | kpt | fmt | rlx | vdrop | fence | waita | quit |
    yield | waitm | kmaskOff | kmaskOn | trap | tret | gstop | gres | wfe =>
    exact fits_of (fits_zero _ _ _) he
  case jmp | callr | add | sub | mul | mulh | div | rem | min | max | slt | madd | and | or | xor | andn | shl | shr | sar |
    rot | clz | popc | mov | sel | movs | movt | ids | clk | rng | cmp | ext | fadd | fsub | fmul | ffma | fdiv | fsqrt |
    fmin | fmax | fcmp | fcvt | fsgn | fcls | vadd | vsub | vmul | vand | vor | vxor | vshift | vminmax | vsel | vbcast |
    vperm | vextr | vfadd | vfsub | vfmul | vffma | vfmin | vfmax | vfrcp | vfrsq | vfexp | vfcmp | vfred | vrng | vcvt | vq8 |
    vdq8 | vscale | kand | kmov | kmovFx | kmovTx | vpack | vunpk | vclamp | spawn | launch | migrate | migrateNear | send |
    recv | bar | bara | trigarm | sendx | tqpush | tqstat | tkill | tcont | accal | accfr | accz | ssmrun | ssmstat | tseq |
    jinit | jarrive | jcontrib | jwait | jqrySt | jqryWt | jkill | jroster | jreplay | jclose | jbind | jrel | copy | copys |
    deal | enck | deck | redc | bcast | lease | unlease | trigset | trigrd | tlbiG | tlbiH | tlbiAsid | tlbiAll | fqpop |
    fqrepReplay | fqrepGiveup | pgmap | slice | prtnQry | prtnSplit | prtnMerge | movsWptr | movsSsp | movtSts | movtWptr |
    movtSsp | sendLoopback | sendEndOverflow | recvArrival =>
    exact fits_of (fits_one _ _ _ _ _ _) he
  case brc | loop | addi | slti | logi | movi | movhi | lea | cmpImm | ld | ldv | ldvs | ldvg | ldl | ldlv | ldfe | ldff |
    ldfs | ldx | ldm | ldnp | st | stv | stvs | stvg | stl | stlv | stef | stff | fesetE | fesetF | stm | stx | stnp | aadd |
    amin | amax | aand | aor | axor | aswp | acas | afadd | bhintPf | bhintPin | bhintUnpin | bhintEv | spawnLabel | accld |
    accst | svc | lend | smove | sreg | sret | pspill | sstep | flog =>
    exact fits_of (fits_two _ _ _ _ _ _ _) he
  case illT4 | nopT4 | addiT4 | sltiT4 | logiT4 | moviT4 | leaT4 | ldT4 | ldvT4 | ldvsT4 | ldvgT4 | ldfeT4 | ldffT4 | ldfsT4 |
    ldxT4 | ldmT4 | ldnpT4 | stT4 | stvT4 | stvsT4 | stvgT4 | stefT4 | stffT4 | fesetET4 | fesetFT4 | stmT4 | stxT4 | stnpT4 |
    aaddT4 | aminT4 | amaxT4 | aandT4 | aorT4 | axorT4 | aswpT4 | acasT4 | afaddT4 | bhintPfT4 | bhintPinT4 | bhintUnpinT4 |
    bhintEvT4 =>
    exact fits_of (fits_four _ _ _) he
  case br | call =>
    exact fits_of (fits_target _ _ _) he
  case shlImm | shrImm | sarImm | rotImm =>
    exact fits_of (fits_imm6 _ _ _ _ _ _ _) he
  case vextrImm | mbxst =>
    exact fits_of (fits_imm4 _ _ _ _ _ _ _) he
  case bfx =>
    exact fits_of (fits_imm13 _ _ _ _ _ _ _ _) he
  all_goals exact Machine.none_ne_some he

theorem lineSlots_slotBytes (l : List (BitVec 16)) : lineSlots (slotBytes l) = l := by
  induction l with
  | nil => rfl
  | cons s rest ih =>
    have : s.extractLsb' 8 8 ++ s.extractLsb' 0 8 = s := by
      apply BitVec.eq_of_getLsbD_eq
      intro i hi
      rw [BitVec.getLsbD_append, BitVec.getLsbD_extractLsb', BitVec.getLsbD_extractLsb']
      split
      · rw [decide_eq_true ‹_›, Bool.true_and, Nat.zero_add]
      · rw [decide_eq_true (by omega), Bool.true_and]
        congr 1
        omega
    rw [slotBytes, lineSlots, ih, this]

/-- The lowest slot of a tail under the others. -/
theorem tail_slots (t : BitVec 64) : (t >>> 16) <<< 16 ||| (t.extractLsb' 0 16).setWidth 64 = t := by
  apply BitVec.eq_of_getLsbD_eq
  intro i hi
  simp only [BitVec.getLsbD_or, BitVec.getLsbD_shiftLeft, BitVec.getLsbD_ushiftRight, BitVec.getLsbD_setWidth, BitVec.getLsbD_extractLsb', hi, decide_true, Bool.true_and, Nat.zero_add]
  by_cases h : i < 16
  · simp [h]
  · simp [h, Nat.add_sub_cancel' (Nat.le_of_not_lt h)]

/-- The slots of a tail, gathered again. -/
theorem gatherTail_slots (before : List (BitVec 16)) (k : Nat) (t : BitVec 64) (h : t.toNat < 2 ^ (16 * k)) :
    gatherTail (before ++ tailToSlots t k) before.length k = t := by
  induction k generalizing before t with
  | zero =>
    have : t.toNat = 0 := by simpa using h
    exact BitVec.eq_of_toNat_eq this.symm
  | succ k ih =>
    have low : slotAt (before ++ tailToSlots t (k + 1)) before.length = t.extractLsb' 0 16 := by
      simp [slotAt, tailToSlots]
    have high : (t >>> 16).toNat < 2 ^ (16 * k) := by
      rw [Nat.mul_succ, Nat.pow_add] at h
      rw [BitVec.toNat_ushiftRight, Nat.shiftRight_eq_div_pow]
      exact (Nat.div_lt_iff_lt_mul (Nat.two_pow_pos 16)).mpr h
    have rest := ih (before ++ [t.extractLsb' 0 16]) (t >>> 16) high
    rw [List.length_append, List.length_singleton, List.append_assoc] at rest
    rw [gatherTail, low, show tailToSlots t (k + 1) = [t.extractLsb' 0 16] ++ tailToSlots (t >>> 16) k from rfl, rest, tail_slots]

theorem tailSlots_le (tl : BitVec 2) : tailSlots tl ≤ 4 := by revert tl; decide

/-- A line of one instruction decodes to it. -/
theorem decodeLine_oneLine {h : BitVec 16} {t : BitVec 64} (fits : t.toNat < 2 ^ (16 * tailSlots (headTl h))) :
    decodeLine (oneLine h t) = some [⟨h, t⟩] := by
  generalize hk : tailSlots (headTl h) = k at fits
  have k4 : k ≤ 4 := hk ▸ tailSlots_le _
  have gathered := gatherTail_slots (1#16 :: h :: List.replicate (30 - k) 0#16) k t fits
  have len : (1#16 :: h :: List.replicate (30 - k) 0#16).length = 32 - k := by
    simp only [List.length_cons, List.length_replicate]
    omega
  rw [len] at gathered
  have zeros : (((1#16 :: h :: List.replicate (30 - k) 0#16) ++ tailToSlots t k).drop 2).take (32 - k - 2) = List.replicate (30 - k) 0#16 := by
    simp only [List.cons_append, List.drop_succ_cons, List.drop_zero]
    exact List.take_left' (by rw [List.length_replicate]; omega)
  have slots : lineSlots (oneLine h t) = (1#16 :: h :: List.replicate (30 - k) 0#16) ++ tailToSlots t k := by
    rw [oneLine, hk]
    exact lineSlots_slotBytes _
  have taken : takeTails (lineSlots (oneLine h t)) 1 1 32 = some ([⟨h, t⟩], 32 - k) := by
    rw [slots, takeTails]
    have head : slotAt ((1#16 :: h :: List.replicate (30 - k) 0#16) ++ tailToSlots t k) 1 = h := rfl
    simp only [head, hk, takeTails, gathered]
    rw [if_neg (by omega)]
  have first : slotAt (lineSlots (oneLine h t)) 0 = 1#16 := by rw [slots]; rfl
  unfold decodeLine
  simp only [first]
  rw [if_neg (by decide)]
  have one : (BitVec.extractLsb' 0 5 1#16).toNat = 1 := by decide
  rw [one, taken]
  simp only
  rw [if_neg (by omega), slots, zeros, if_pos (by simp)]

end Sys2Proof.Laws

namespace Sys2Proof.Machine

set_option Elab.async false

open Sys2Proof.Laws

/-- Settles O55: decoding undoes encoding by the law of each row, and a line of one instruction gathers its tail again; the other
direction goes row by row through the map, where the guards of an arm leave no freedom but the fields that its encoding writes. -/
theorem encodeDecode : Obligations.EncodeDecode := by
  refine ⟨fun i e st hc he => ⟨decode_encode i e st hc he, ?line⟩, fun c d a b => ⟨rfl, rfl, rfl⟩, fun h t i => encode_decode⟩
  case line =>
    exact decodeLine_oneLine (by rw [headTl_head]; exact encode_fits hc he)

end Sys2Proof.Machine
end

section

namespace Sys2Proof.Machine

set_option Elab.async false

/-! ### Row 0: `ILL`, the reserved opcodes and `NOP` (R61 to R63) -/

/-- An instruction without effect completes with sequential flow. -/
theorem plain_done {s : State} (p : s.noPrefix) (fl : s.flows) :
    ∃ t, plain s State.done = .next t ∧ Completes s t 0 s.seqPc [] 0#64 [] :=
  ⟨_, plain_next p _, completes_doneHold (f := id) fl (Effect.refl s.cpu) 0⟩

/-- Settles O6: all these forms share one trap, and the forms of `NOP` one completion. -/
theorem illegalAndNop : Obligations.IllegalAndNop := by
  constructor
  · rintro s i (⟨m, rfl⟩ | rfl | rfl | rfl | ⟨op, m, tl, t, rfl⟩) <;> rfl
  · intro s i p fl hi
    simp only [List.mem_cons, List.not_mem_nil, or_false] at hi
    rcases hi with rfl | rfl | rfl | rfl <;> exact plain_done p fl

/-- Settles O54: decoding is computed on the manual's words. -/
theorem decodeWords : Obligations.DecodeWords := by
  refine ⟨?line, ?loop, ?words⟩
  case line => decide +kernel
  case loop => decide +kernel
  case words =>
    repeat' apply And.intro
    all_goals decide +kernel

end Sys2Proof.Machine
end

section

namespace Sys2Proof.Machine

set_option Elab.async false

/-! ### Integer results as exact arithmetic gives them (R146 to R153) -/

theorem wordInt_toInt (a : Word) : wordInt a.toInt = a := BitVec.ofInt_toInt

theorem wordInt_add (i j : Int) : wordInt (i + j) = wordInt i + wordInt j := BitVec.ofInt_add i j

theorem add_eq (a b : Word) : a + b = wordInt (a.toInt + b.toInt) := by rw [wordInt_add, wordInt_toInt, wordInt_toInt]

theorem add_wordInt (a : Word) (i : Int) : a + wordInt i = wordInt (a.toInt + i) := by rw [wordInt_add, wordInt_toInt]

theorem sub_eq (a b : Word) : a - b = wordInt (a.toInt - b.toInt) := by
  apply BitVec.eq_of_toInt_eq
  rw [wordInt, BitVec.toInt_ofInt, BitVec.toInt_sub]

theorem mul_eq (a b : Word) : a * b = word (a.toNat * b.toNat) := by
  apply BitVec.eq_of_toNat_eq
  rw [word, BitVec.toNat_ofNat, BitVec.toNat_mul]

theorem madd_eq (c a b : Word) : c + a * b = word (c.toNat + a.toNat * b.toNat) := by
  apply BitVec.eq_of_toNat_eq
  rw [word, BitVec.toNat_ofNat, BitVec.toNat_add, BitVec.toNat_mul, Nat.add_mod_mod]

theorem word_toNat (a : Word) : word a.toNat = a := by rw [word, BitVec.ofNat_toNat, BitVec.setWidth_eq]

theorem min_signed (a b : Word) : (if less false b a then b else a) = wordInt (min a.toInt b.toInt) := by
  simp only [less, Bool.false_eq_true, if_false, BitVec.slt_iff_toInt_lt]
  split
  · rw [min_eq_right (by omega), wordInt_toInt]
  · rw [min_eq_left (by omega), wordInt_toInt]

theorem min_unsigned (a b : Word) : (if less true b a then b else a) = word (min a.toNat b.toNat) := by
  simp only [less, if_true, BitVec.ult_iff_toNat_lt]
  split
  · rw [min_eq_right (by omega), word_toNat]
  · rw [min_eq_left (by omega), word_toNat]

theorem max_signed (a b : Word) : (if less false a b then b else a) = wordInt (max a.toInt b.toInt) := by
  simp only [less, Bool.false_eq_true, if_false, BitVec.slt_iff_toInt_lt]
  split
  · rw [max_eq_right (by omega), wordInt_toInt]
  · rw [max_eq_left (by omega), wordInt_toInt]

theorem max_unsigned (a b : Word) : (if less true a b then b else a) = word (max a.toNat b.toNat) := by
  simp only [less, if_true, BitVec.ult_iff_toNat_lt]
  split
  · rw [max_eq_right (by omega), word_toNat]
  · rw [max_eq_left (by omega), word_toNat]

theorem boolWord_eq {b : Bool} {p : Prop} [Decidable p] (h : b = true ↔ p) : boolWord b = if p then 1#64 else 0#64 := by
  rw [boolWord]
  exact if_congr h rfl rfl

theorem less_signed (a b : Word) : less false a b = true ↔ a.toInt < b.toInt := BitVec.slt_iff_toInt_lt

theorem less_unsigned (a b : Word) : less true a b = true ↔ a.toNat < b.toNat := BitVec.ult_iff_toNat_lt

theorem sx16_eq (i : BitVec 16) : sx16 i = wordInt (immInt i) := rfl
theorem sx48_eq (i : BitVec 48) : sx48 i = wordInt (immInt i) := rfl

theorem wordInt_immInt_toInt {w : Nat} (hw : w ≤ 64) (i : BitVec w) : (wordInt (immInt i)).toInt = immInt i :=
  BitVec.toInt_signExtend_of_le hw

theorem shl_eq (a : Word) (n : Nat) : a <<< n = word (a.toNat * 2 ^ n) := by
  apply BitVec.eq_of_toNat_eq
  rw [word, BitVec.toNat_ofNat, BitVec.toNat_shiftLeft, Nat.shiftLeft_eq]

theorem shr_eq (a : Word) (n : Nat) : a >>> n = word (a.toNat / 2 ^ n) := by
  apply BitVec.eq_of_toNat_eq
  rw [word, BitVec.toNat_ofNat, BitVec.toNat_ushiftRight, Nat.shiftRight_eq_div_pow,
    Nat.mod_eq_of_lt ((Nat.div_le_self _ _).trans_lt a.isLt)]

theorem sar_eq (a : Word) (n : Nat) : a.sshiftRight n = wordInt (a.toInt / 2 ^ n) := by
  rw [BitVec.sshiftRight, Int.shiftRight_eq_div_pow]
  rfl

theorem rot_eq (a : Word) {n : Nat} (h : n < 64) : a.rotateLeft n = word (a.toNat * 2 ^ n + a.toNat / 2 ^ (64 - n)) := by
  apply BitVec.eq_of_toNat_eq
  rw [BitVec.rotateLeft, Nat.mod_eq_of_lt h, BitVec.rotateLeftAux, BitVec.toNat_or, BitVec.toNat_shiftLeft, BitVec.toNat_ushiftRight, Nat.shiftLeft_eq, Nat.shiftRight_eq_div_pow, word, BitVec.toNat_ofNat]
  have hlo : a.toNat / 2 ^ (64 - n) < 2 ^ n := by
    rw [Nat.div_lt_iff_lt_mul (by positivity), ← pow_add, Nat.add_sub_cancel' h.le]
    exact a.isLt
  have hsplit : (2 : Nat) ^ 64 = 2 ^ (64 - n) * 2 ^ n := by rw [← pow_add, Nat.sub_add_cancel h.le]
  have hhi : a.toNat * 2 ^ n % 2 ^ 64 = 2 ^ n * (a.toNat % 2 ^ (64 - n)) := by
    rw [hsplit, Nat.mul_mod_mul_right, Nat.mul_comm]
  have hlt : 2 ^ n * (a.toNat % 2 ^ (64 - n)) + a.toNat / 2 ^ (64 - n) < 2 ^ 64 := by
    have hr : a.toNat % 2 ^ (64 - n) + 1 ≤ 2 ^ (64 - n) := Nat.mod_lt _ (by positivity)
    have hm := Nat.mul_le_mul_left (2 ^ n) hr
    rw [Nat.mul_comm _ (2 ^ (64 - n)), ← hsplit, Nat.mul_add_one] at hm
    omega
  rw [hhi, ← Nat.two_pow_add_eq_or_of_lt hlo, ← Nat.mod_eq_of_lt hlt, ← hhi, Nat.mod_add_mod]

theorem takeWhile_reverse_range (p : Nat → Bool) (n : Nat) :
    ((List.range (n + 1)).reverse.takeWhile p).length =
      if p n then ((List.range n).reverse.takeWhile p).length + 1 else 0 := by
  rw [List.range_succ, List.reverse_append]
  simp only [List.reverse_singleton, List.singleton_append, List.takeWhile_cons]
  split <;> rfl

theorem clz_eq (a : Word) : clz64 a = ((List.range 64).reverse.takeWhile (fun i => !a.getLsbD i)).length := by
  have run (m k : Nat) (h : ∀ i, m ≤ i → i < m + k → a.getLsbD i = false) :
      ((List.range (m + k)).reverse.takeWhile (fun i => !a.getLsbD i)).length =
        k + ((List.range m).reverse.takeWhile (fun i => !a.getLsbD i)).length := by
    induction k with
    | zero => simp
    | succ k ih =>
      rw [← Nat.add_assoc, takeWhile_reverse_range, if_pos (by simp [h (m + k) (by omega) (by omega)]),
        ih fun i h1 h2 => h i h1 (by omega)]
      omega
  unfold clz64
  split
  next h => subst h; rw [run 0 64 (by simp)]; rfl
  next h =>
    have h0 : a.toNat ≠ 0 := fun h' => h (BitVec.eq_of_toNat_eq h')
    have hlt : a.toNat.log2 < 64 := (Nat.log2_lt h0).2 a.isLt
    have key := run (a.toNat.log2 + 1) (63 - a.toNat.log2) fun i h1 _ => by
      rw [BitVec.getLsbD, Nat.testBit_lt_two_pow ((Nat.log2_lt h0).1 h1)]
    rw [show a.toNat.log2 + 1 + (63 - a.toNat.log2) = 64 by omega] at key
    rw [key, takeWhile_reverse_range, if_neg]
    · rfl
    · have : a.toNat.testBit a.toNat.log2 = true := Nat.testBit_log2 h0
      simp [BitVec.getLsbD, this]

theorem popcount_filter {w : Nat} (a : BitVec w) (k : Nat) : popcount a.toNat k = ((List.range k).filter a.getLsbD).length := by
  induction k with
  | zero => rfl
  | succ k ih =>
    rw [popcount, ih, List.range_succ, List.filter_append, List.length_append, Nat.add_comm]
    congr 1
    rw [List.filter_singleton, boolNat, BitVec.getLsbD]
    cases a.toNat.testBit k <;> rfl

theorem toSigned_mod (w n : Nat) : toSigned w (n % 2 ^ w) = toSigned w n := by
  rw [toSigned, toSigned, Nat.mod_mod]

theorem toSigned_eq {w : Nat} (h : 1 ≤ w) (n : Nat) : toSigned w n = signedOf w n := by
  obtain ⟨v, rfl⟩ : ∃ v, w = v + 1 := ⟨w - 1, by omega⟩
  have hp : n % 2 ^ (v + 1) = 2 ^ v * (n / 2 ^ v % 2) + n % 2 ^ v := by rw [pow_succ, Nat.mod_mul]; omega
  have hl : n % 2 ^ v < 2 ^ v := Nat.mod_lt _ (by positivity)
  simp only [toSigned, signedOf, Nat.add_sub_cancel]
  obtain h0 | h0 := Nat.mod_two_eq_zero_or_one (n / 2 ^ v)
  · rw [if_pos (by rw [hp, h0]; omega), if_neg (by omega)]
  · rw [if_neg (by rw [hp, h0]; omega), if_pos h0]

theorem extend_eq (sz : LdSize) (v : Nat) : extend sz v = extended sz v := by
  cases sz
  case ws => exact congrArg wordInt (toSigned_eq (by decide) v)
  case hs => exact congrArg wordInt (toSigned_eq (by decide) v)
  case bs => exact congrArg wordInt (toSigned_eq (by decide) v)
  all_goals rfl

theorem movhi_eq (k : BitVec 2) (a : Word) (imm : BitVec 16) :
    (a &&& ~~~(0xFFFF#64 <<< (16 * k.toNat))) ||| (imm.setWidth 64 <<< (16 * k.toNat)) =
      word (a.toNat / 2 ^ (16 * k.toNat + 16) * 2 ^ (16 * k.toNat + 16) + imm.toNat * 2 ^ (16 * k.toNat) + a.toNat % 2 ^ (16 * k.toNat)) := by
  have hk : 16 * k.toNat + 16 ≤ 64 := by have := k.isLt; omega
  generalize 16 * k.toNat = n at hk
  have hl : a.toNat % 2 ^ n < 2 ^ n := Nat.mod_lt _ (by positivity)
  have hm : imm.toNat < 2 ^ 16 := imm.isLt
  have hmid : imm.toNat * 2 ^ n + a.toNat % 2 ^ n < 2 ^ (n + 16) := by
    have hm' := Nat.mul_le_mul_right (2 ^ n) (Nat.succ_le_of_lt hm)
    rw [pow_add, Nat.mul_comm (2 ^ n)]
    rw [Nat.succ_mul] at hm'
    omega
  apply BitVec.eq_of_getLsbD_eq
  intro i hi
  rw [word, BitVec.getLsbD_ofNat, Nat.add_assoc, Nat.mul_comm _ (2 ^ (n + 16)), Nat.testBit_two_pow_mul_add _ hmid, Nat.mul_comm imm.toNat, Nat.testBit_two_pow_mul_add _ hl]
  simp only [BitVec.getLsbD_or, BitVec.getLsbD_and, BitVec.getLsbD_not, BitVec.getLsbD_shiftLeft, BitVec.getLsbD_setWidth, Nat.testBit_mod_two_pow, Nat.testBit_div_two_pow, hi, decide_true, Bool.true_and]
  have hF : Nat.testBit 65535 (i - n) = decide (i - n < 16) := Nat.testBit_two_pow_sub_one 16 (i - n)
  by_cases h1 : i < n
  · simp [h1, show i < n + 16 by omega, BitVec.getLsbD]
  · by_cases h2 : i < n + 16
    · simp [h1, h2, BitVec.getLsbD, hF, show i - n < 16 by omega, show i - n < 64 by omega]
    · have hz : imm.toNat.testBit (i - n) = false :=
        Nat.testBit_lt_two_pow (hm.trans_le (Nat.pow_le_pow_right (by decide) (by omega)))
      simp [h1, h2, BitVec.getLsbD, hF, hz, show ¬ i - n < 16 by omega, show i - (n + 16) + (n + 16) = i by omega]

theorem cond_eq (c : Cond) (a b : Word) : cond c a b = condHolds c a b := by
  rw [Bool.eq_iff_iff]
  cases c <;>
    simp only [cond, condHolds, decide_eq_true_eq, beq_iff_eq, bne_iff_ne, Bool.not_eq_true', Bool.eq_false_iff, ne_eq,
      BitVec.slt_iff_toInt_lt, BitVec.sle_iff_toInt_le, BitVec.ult_iff_toNat_lt, BitVec.ule_iff_toNat_le, not_lt, not_le]
/-- A form that writes one register, of the value that exact arithmetic gives. -/
theorem int_next {s : State} (p : s.noPrefix) {d : Reg} {h : Nat} {v : Word} (w : State → Word) (e : w s = v) :
    plain s (fun s => (s.setR d (w s)).doneHold h) = .next ((s.setR d v).doneHold h) := by
  rw [plain_next p, e]

theorem quotient_eq (us : Bool) (a b : Word) : quotient us a b =
    if b.toNat = 0 then word (2 ^ 64 - 1) else if us then word (a.toNat / b.toNat) else wordInt (a.toInt.tdiv b.toInt) :=
  if_congr (BitVec.toNat_eq (x := b) (y := 0#64)) rfl rfl

theorem remainder_eq (us : Bool) (a b : Word) : remainder us a b =
    if b.toNat = 0 then a else if us then word (a.toNat % b.toNat) else wordInt (a.toInt.tmod b.toInt) :=
  if_congr (BitVec.toNat_eq (x := b) (y := 0#64)) rfl rfl

theorem bitField_eq (sx : Bool) (a : Word) (p : Nat) {w : Nat} (hw : 1 ≤ w) :
    bitField sx a p w = if sx then wordInt (signedOf w (a.toNat / 2 ^ p)) else word (a.toNat / 2 ^ p % 2 ^ w) := by
  rw [bitField, Nat.shiftRight_eq_div_pow, toSigned_mod, toSigned_eq hw]

theorem sel_eq (c a b : Word) : (if c ≠ 0#64 then a else b) = if c.toNat = 0 then b else a := by
  rw [ite_not]
  exact if_congr (BitVec.toNat_eq (x := c) (y := 0#64)) rfl rfl

theorem leaBase_add (s : State) (a : Reg) (i : Int) :
    s.leaBase a + wordInt i = wordInt ((if a = 0#5 then (lineAddr s.cpu.pc).toInt else (s.rd a).toInt) + i) := by
  rw [add_wordInt, State.leaBase, apply_ite BitVec.toInt]

/-- The same with latency 1 (R141). -/
theorem intDone_next {s : State} (p : s.noPrefix) {d : Reg} {v : Word} (w : State → Word) (e : w s = v) :
    plain s (fun s => s.intDone d (w s)) = .next ((s.setR d v).doneHold 0) := int_next p w e

theorem some_triple {α β γ : Type} {a a' : α} {b b' : β} {c c' : γ} (h : some (a, b, c) = some (a', b', c')) :
    a = a' ∧ b = b' ∧ c = c' := by
  rwa [Option.some_inj, Prod.mk.injEq, Prod.mk.injEq] at h

/-- A form of rows 1 to 3 writes its register and completes. -/
theorem exec_int {s : State} {i : Instr} {d : Reg} {v : Word} {h : Nat} (p : s.noPrefix) (hr : intResult s i = some (d, v, h)) :
    exec i s = .next ((s.setR d v).doneHold h) := by
  cases i
  case add => cases hr; show execAdd _ _ _ s = _; exact intDone_next p _ (add_eq _ _)
  case sub => cases hr; show execSub _ _ _ s = _; exact intDone_next p _ (sub_eq _ _)
  case addi => cases hr; show execAddi _ _ _ s = _; exact intDone_next p _ (add_wordInt _ _)
  case addiT4 => cases hr; show execAddiT4 _ _ _ s = _; exact intDone_next p _ (add_wordInt _ _)
  case mul => cases hr; show execMul _ _ _ s = _; exact intDone_next p _ (mul_eq _ _)
  case mulh us _ _ _ => cases us <;> cases hr <;> (show execMulh _ _ _ _ s = _; exact intDone_next p _ rfl)
  case div => cases hr; show execDiv _ _ _ _ s = _; exact int_next p _ (quotient_eq _ _ _)
  case rem => cases hr; show execRem _ _ _ _ s = _; exact int_next p _ (remainder_eq _ _ _)
  case min us _ _ _ =>
    cases us
    case false => cases hr; show execMin _ _ _ _ s = _; exact intDone_next p _ (min_signed _ _)
    case true => cases hr; show execMin _ _ _ _ s = _; exact intDone_next p _ (min_unsigned _ _)
  case max us _ _ _ =>
    cases us
    case false => cases hr; show execMax _ _ _ _ s = _; exact intDone_next p _ (max_signed _ _)
    case true => cases hr; show execMax _ _ _ _ s = _; exact intDone_next p _ (max_unsigned _ _)
  case slt us _ _ _ =>
    cases us
    case false => cases hr; show execSlt _ _ _ _ s = _; exact intDone_next p _ (boolWord_eq (less_signed _ _))
    case true => cases hr; show execSlt _ _ _ _ s = _; exact intDone_next p _ (boolWord_eq (less_unsigned _ _))
  case slti us _ _ i =>
    cases us
    case false => cases hr; show execSlti _ _ _ _ s = _; exact intDone_next p _ (boolWord_eq (by rw [less_signed, sx16_eq, wordInt_immInt_toInt (by decide)]))
    case true => cases hr; show execSlti _ _ _ _ s = _; exact intDone_next p _ (boolWord_eq (less_unsigned _ _))
  case sltiT4 us _ _ i =>
    cases us
    case false => cases hr; show execSltiT4 _ _ _ _ s = _; exact intDone_next p _ (boolWord_eq (by rw [less_signed, sx48_eq, wordInt_immInt_toInt (by decide)]))
    case true => cases hr; show execSltiT4 _ _ _ _ s = _; exact intDone_next p _ (boolWord_eq (less_unsigned _ _))
  case madd => cases hr; show execMadd _ _ _ s = _; exact intDone_next p _ (madd_eq _ _ _)
  case and => cases hr; show execAnd _ _ _ s = _; exact intDone_next p _ rfl
  case or => cases hr; show execOr _ _ _ s = _; exact intDone_next p _ rfl
  case xor => cases hr; show execXor _ _ _ s = _; exact intDone_next p _ rfl
  case andn => cases hr; show execAndn _ _ _ s = _; exact intDone_next p _ rfl
  case logi op _ _ _ => cases hr; show execLogi _ _ _ _ s = _; exact intDone_next p _ (by cases op <;> rfl)
  case logiT4 op _ _ _ => cases hr; show execLogiT4 _ _ _ _ s = _; exact intDone_next p _ (by cases op <;> rfl)
  case shl => cases hr; show execShl _ _ _ s = _; exact intDone_next p _ (shl_eq _ _)
  case shlImm => cases hr; show execShlImm _ _ _ s = _; exact intDone_next p _ (shl_eq _ _)
  case shr => cases hr; show execShr _ _ _ s = _; exact intDone_next p _ (shr_eq _ _)
  case shrImm => cases hr; show execShrImm _ _ _ s = _; exact intDone_next p _ (shr_eq _ _)
  case sar => cases hr; show execSar _ _ _ s = _; exact intDone_next p _ (sar_eq _ _)
  case sarImm => cases hr; show execSarImm _ _ _ s = _; exact intDone_next p _ (sar_eq _ _)
  case rot => cases hr; show execRot _ _ _ s = _; exact intDone_next p _ (rot_eq _ (Nat.mod_lt _ (by decide)))
  case rotImm n => cases hr; show execRotImm _ _ _ s = _; exact intDone_next p _ (rot_eq _ n.isLt)
  case clz => cases hr; show execClz _ _ s = _; exact intDone_next p _ (congrArg word (clz_eq _))
  case popc => cases hr; show execPopc _ _ s = _; exact intDone_next p _ (congrArg word (popcount_filter _ _))
  case bfx sx _ _ f w =>
    change ite _ _ none = _ at hr
    split at hr
    next hw =>
      cases hr
      show execBfx sx _ _ f w s = _
      rw [execBfx, plain_next p, if_pos (by simpa using hw), bitField_eq _ _ _ hw.1]; rfl
    next => cases hr
  case mov => cases hr; show execMov _ _ s = _; exact intDone_next p _ rfl
  case movi => cases hr; show execMovi _ _ s = _; exact intDone_next p _ (sx16_eq _)
  case moviT4 => cases hr; show execMoviT4 _ _ s = _; exact intDone_next p _ (sx48_eq _)
  case movhi => cases hr; show execMovhi _ _ _ s = _; exact intDone_next p _ (movhi_eq _ _ _)
  case sel => cases hr; show execSel _ _ _ s = _; exact intDone_next p _ (sel_eq _ _ _)
  case lea => cases hr; show execLea _ _ _ s = _; exact intDone_next p _ (leaBase_add _ _ _)
  case leaT4 => cases hr; show execLeaT4 _ _ _ s = _; exact intDone_next p _ (leaBase_add _ _ _)
  case ids q _ => cases q <;> cases hr <;> (show execIds _ _ s = _; exact intDone_next p _ rfl)
  case clk => obtain ⟨rfl, rfl, rfl⟩ := some_triple hr; show execClk _ s = _; exact intDone_next p _ rfl
  case rng => obtain ⟨rfl, rfl, rfl⟩ := some_triple hr; show execRng _ _ _ s = _; exact int_next p _ rfl
  case cmp c _ _ _ => cases hr; show execCmp _ _ _ _ s = _; exact intDone_next p _ (congrArg boolWord (cond_eq c _ _))
  case cmpImm c _ _ _ => cases hr; show execCmpImm _ _ _ _ s = _; exact intDone_next p _ (congrArg boolWord (cond_eq c _ _))
  case ext sz _ _ =>
    change ite _ none _ = _ at hr
    split at hr
    next => cases hr
    next hz =>
      cases hr
      show execExt sz _ _ s = _
      rw [execExt, plain_next p, if_neg hz, extend_eq, State.intDone, State.done]
  all_goals exact none_ne_some hr

/-- Settles O1, by the form's value as exact arithmetic gives it (`exec_int`). -/
theorem integerInstructions : Obligations.IntegerInstructions := by
  refine ⟨fun s i d v h p fl hr => ⟨_, exec_int p hr, setR_doneHold fl d v h⟩, fun s d a p => ⟨fun sx f w hw => ?bfx, ?ext⟩⟩
  case bfx =>
    show execBfx sx d a f w s = _
    rw [execBfx, plain_next p, if_neg (by simp; omega)]
    rfl
  case ext =>
    show execExt .d d a s = _
    rw [execExt, plain_next p, if_pos rfl]
    rfl

end Sys2Proof.Machine
end

section

namespace Sys2Proof.Machine

set_option Elab.async false

/-! ### The special registers (R128 to R131, R138, R151) -/

theorem supOnly_iff (sp : BitVec 6) : supOnly sp = true ↔ needsSup sp.toNat := by
  simp [supOnly, needsSup]

theorem supOnly_and_not_sup {s : State} {sp : BitVec 6} (h : needsSup sp.toNat → s.cpu.sup = true) :
    (supOnly sp && !s.cpu.sup) = false := by
  rw [Bool.and_eq_false_iff, Bool.not_eq_false']
  by_cases n : supOnly sp = true
  · exact .inr (h ((supOnly_iff sp).1 n))
  · exact .inl (by simpa using n)

/-- What R128's list gives for a register's number is what `MOVS` reads there. -/
theorem special_of_mem {s : State} {sp : BitVec 6} {v : Word} (h : (sp.toNat, v) ∈ specialReads s) :
    spDefined sp = true ∧ s.special sp = v := by
  rw [specialReads, List.mem_append] at h
  obtain h | h := h
  · simp only [List.mem_cons, Prod.mk.injEq, List.not_mem_nil, or_false] at h
    obtain ⟨n, rfl⟩ | ⟨n, rfl⟩ | ⟨n, rfl⟩ | ⟨n, rfl⟩ | ⟨n, rfl⟩ | ⟨n, rfl⟩ | ⟨n, rfl⟩ | ⟨n, rfl⟩ | ⟨n, rfl⟩ | ⟨n, rfl⟩ | ⟨n, rfl⟩ | ⟨n, rfl⟩ | ⟨n, rfl⟩ := h <;>
      exact ⟨by simp [spDefined, n], by simp [State.special, n]⟩
  · obtain ⟨⟨w, k⟩, hm, e⟩ := List.mem_map.1 h
    obtain ⟨n, rfl⟩ := Prod.mk.inj e
    obtain ⟨hk, hw⟩ := List.mem_zipIdx' hm
    have hk : k < 8 := by simpa using hk
    have n : sp.toNat = 16 + k := n.symm
    refine ⟨by simp [spDefined, n]; omega, ?_⟩
    rw [State.special, n, Nat.add_comm]
    show (if h : k + 16 - 16 < 8 then _ else _) = w
    rw [dif_pos (by omega), hw]
    rfl

theorem setField_low_byte (w v : Word) : setField w 7 0 (field v 7 0) = w &&& ~~~0xFF#64 ||| v &&& 0xFF#64 := by
  apply BitVec.eq_of_getLsbD_eq
  intro i hi
  rw [← bitOf, bitOf_setField w (by decide) _ hi, testBit_field]
  have mask : (0xFF#64).getLsbD i = decide (i < 8) := by
    rw [BitVec.getLsbD_ofNat, decide_eq_true hi, Bool.true_and]
    exact Nat.testBit_two_pow_sub_one 8 i
  simp only [BitVec.getLsbD_or, BitVec.getLsbD_and, BitVec.getLsbD_not, mask, hi, decide_true, Bool.true_and, bitOf]
  by_cases h : i ≤ 7
  · simp [h, show i < 8 by omega]
  · simp [h, show ¬ i < 8 by omega]

theorem setField_jmem_reserved (v : Word) : setField v 55 48 0 = v &&& 0xFF00FFFFFFFFFFFF#64 := by
  apply BitVec.eq_of_getLsbD_eq
  intro i hi
  rw [← bitOf, bitOf_setField v (by decide) _ hi]
  have mask : (0xFF00FFFFFFFFFFFF#64).getLsbD i = !decide (48 ≤ i ∧ i ≤ 55) := by
    have all : ∀ i < 64, (0xFF00FFFFFFFFFFFF#64).getLsbD i = !decide (48 ≤ i ∧ i ≤ 55) := by decide
    exact all i hi
  by_cases h : 48 ≤ i ∧ i ≤ 55
  · simp [h, mask]
  · simp [h, mask, bitOf]

theorem setSpecial_lspa (s : State) {sp : BitVec 6} (v : Word) (h : 16 ≤ sp.toNat) (h' : sp.toNat < 24) :
    s.setSpecial sp v = specialWritten s sp.toNat v := by
  obtain ⟨k, n⟩ : ∃ k, sp.toNat = k + 16 := ⟨sp.toNat - 16, by omega⟩
  have hk : k + 16 - 16 < 8 := by omega
  have new : s.setSpecial sp v = s.modCore s.cpu.core (fun c => { c with lspa := c.lspa.set (k + 16 - 16) v hk }) := by
    rw [State.setSpecial, n]
    show (if h : k + 16 - 16 < 8 then if 16 ≤ k + 16 then _ else _ else _) = _
    rw [dif_pos hk, if_pos (by omega)]
  rw [new, specialWritten, n]
  have miss (j : Nat) (hj : j < 16) : ¬ k + 16 = j := by omega
  rw [if_neg (miss 1 (by decide)), if_neg (miss 2 (by decide)), if_neg (miss 3 (by decide)), if_neg (miss 7 (by decide)),
    if_neg (miss 8 (by decide)), if_neg (miss 9 (by decide)), if_neg (miss 14 (by decide)), if_pos (by omega)]
  have same (l : Vector Word 8) : l.set (k + 16 - 16) v hk = l.setIfInBounds (k + 16 - 16) v := by
    ext j hj
    rw [Vector.getElem_set, Vector.getElem_setIfInBounds]
  rw [State.modCore, same]

theorem setSpecial_none (s : State) {sp : BitVec 6} (v : Word) (h : sp.toNat ∈ [4, 5, 6, 10, 11, 12, 13, 15]) :
    s.setSpecial sp v = specialWritten s sp.toNat v := by
  simp only [List.mem_cons, List.not_mem_nil, or_false] at h
  obtain n | n | n | n | n | n | n | n := h <;> simp [State.setSpecial, specialWritten, n]

/-- What `MOVT` writes is R128's table, at every number that it reaches. -/
theorem setSpecial_eq (s : State) {sp : BitVec 6} (v : Word) (h0 : sp.toNat ≠ 0) (h : sp.toNat < 24) :
    s.setSpecial sp v = specialWritten s sp.toNat v := by
  obtain n | n | n | n | n | n | n | n | n : sp.toNat = 2 ∨ sp.toNat = 8 ∨ 16 ≤ sp.toNat ∨ sp.toNat ∈ [4, 5, 6, 10, 11, 12, 13, 15] ∨
    sp.toNat = 1 ∨ sp.toNat = 3 ∨ sp.toNat = 7 ∨ sp.toNat = 9 ∨ sp.toNat = 14 := by simp; omega
  · simp [State.setSpecial, specialWritten, n, setField_low_byte, State.modCpu]
  · simp [State.setSpecial, specialWritten, n, setField_jmem_reserved, State.modCpu]
  · exact setSpecial_lspa s v n h
  · exact setSpecial_none s v n
  all_goals simp [State.setSpecial, specialWritten, n, State.modCpu, State.modCore]

theorem specialWritten_pc (s : State) (n : Nat) (v : Word) : (specialWritten s n v).seqPc = s.seqPc := by
  rw [specialWritten]
  split_ifs <;> rfl

theorem specialWritten_flows {s : State} (fl : s.flows) (n : Nat) (v : Word) : (specialWritten s n v).flows :=
  (congrArg (field · 63 57) (specialWritten_pc s n v)).trans fl

theorem donePrefix_rd (s : State) (w : Word) (d : Reg) : (s.donePrefix w).rd d = (s.doneHold 0).rd d := rfl

/-- A register written by `MOVS`: what completes, and the register. -/
theorem setR_donePrefix {s : State} (fl : s.flows) (d : Reg) (v : Word) :
    Leaves s ((s.setR d v).donePrefix s.cpu.sts) 0 s.seqPc [d.toNat] 0#64 [] s.pending ∧
      ((s.setR d v).donePrefix s.cpu.sts).rd d = if d = 0#5 then 0#64 else v :=
  ⟨leaves_donePrefix (f := fun t => t.produce 1 d.toNat v.toNat) fl ((Effect.refl s.cpu).produce 1 d.toNat v.toNat) s.cpu.sts,
    (donePrefix_rd _ _ d).trans (setR_doneHold fl d v 0).2⟩

/-- `MOVT` completes from the state in which its register is written. -/
theorem donePrefix_leaves {s : State} (fl : s.flows) (w : Word) : Leaves s (s.donePrefix w) 0 s.seqPc [] 0#64 [] (w &&& 0x1F4#64) :=
  leaves_donePrefix (f := id) fl (Effect.refl s.cpu) w

/-- R205's rule for the value of an LSPA. -/
theorem lspaOk_iff (v : Word) : lspaOk v = true ↔ field v 45 27 = 0 ∧ field v 15 10 = 0 ∧ field v 26 16 ≤ 1024 := by
  simp [lspaOk, and_assoc]

/-- Settles O3, by R128's table (`special_of_mem`, `setSpecial_eq`) after the checks of R93, R128 and R205. -/
theorem specialRegisters : Obligations.SpecialRegisters := by
  refine ⟨fun s d sp fl _ _ => ⟨fun v hv sup => ?read, fun need nosup => ?readDenied, fun hn => ?readNone⟩,
    fun s a sp fl h0 h4 h5 => ⟨fun h24 h15 h6 sup lspa => ?write, fun deny => ?writeDenied, fun bad => ?writeIllegal⟩⟩
  case read =>
    obtain ⟨hd, rfl⟩ := special_of_mem hv
    refine ⟨_, ?_, setR_donePrefix fl d (s.special sp)⟩
    show execMovs d sp s = _
    rw [execMovs, if_neg (by simp [hd]), if_neg (by simp [supOnly_and_not_sup sup])]
  case readDenied =>
    show execMovs d sp s = _
    have hd : spDefined sp = true := by rw [needsSup] at need; simp [spDefined]; omega
    rw [execMovs, if_neg (by simp [hd]), if_pos (by simp [(supOnly_iff sp).2 need, nosup])]
    rfl
  case readNone =>
    show execMovs d sp s = _
    rw [execMovs, if_pos (by simp [spDefined]; omega)]
    rfl
  case write =>
    refine ⟨(specialWritten s sp.toNat (s.rd a)).donePrefix s.cpu.sts, ?_, ?_⟩
    · show execMovt sp a s = _
      have hl : (decide (16 ≤ sp.toNat) && !lspaOk (s.rd a)) = false := by
        rw [Bool.and_eq_false_iff, Bool.not_eq_false', lspaOk_iff, decide_eq_false_iff_not]
        exact not_or_of_imp lspa
      rw [execMovt, if_neg (by simp [spDefined]; omega), if_neg (by simp [supOnly_and_not_sup sup, h6]), if_neg (by simp [hl]),
        setSpecial_eq s _ h0 h24]
    · have h := donePrefix_leaves (specialWritten_flows fl sp.toNat (s.rd a)) s.cpu.sts
      rwa [specialWritten_pc] at h
  case writeDenied =>
    show execMovt sp a s = _
    have hd : spDefined sp = true := by simp only [needsSup] at deny; simp [spDefined]; omega
    rw [execMovt, if_neg (by simp [hd]), if_pos (by rw [← supOnly_iff] at deny; simpa using deny)]
    rfl
  case writeIllegal =>
    show execMovt sp a s = _
    rw [execMovt]
    by_cases hd : spDefined sp = true
    · have bad : 16 ≤ sp.toNat ∧ s.cpu.sup = true ∧ lspaOk (s.rd a) = false := by
        have : ¬ (sp.toNat = 15 ∨ 24 ≤ sp.toNat) := by simp [spDefined] at hd; omega
        rw [Bool.eq_false_iff, ne_eq, lspaOk_iff]
        exact (bad.resolve_left fun h => this (.inl h)).resolve_left fun h => this (.inr h)
      obtain ⟨h16, sup, hl⟩ := bad
      rw [if_neg (by simp [hd]), if_neg (by simp [sup]; omega), if_pos (by simp [h16, hl])]
      rfl
    · rw [if_pos (by simp [hd])]
      rfl

/-! ### WPTR and SSP (R138) -/

theorem wptr_eq (t : Thread) : t.wptr = word (t.depth * 2 ^ 16 + t.zsz * 2 ^ 8 + (t.older.length + 1)) := by
  rw [Thread.wptr, Nat.shiftLeft_eq, Nat.shiftLeft_eq]
  rfl

/-- Settles O5, by the state that the spill leaves: reading completes from it, and writing from it with its register written. -/
theorem stackSpecial : Obligations.StackSpecial := by
  intro s s1 r hs fl
  refine ⟨?readWptr, ?readSsp, fun ok => ?writeSsp, fun bad => ?badSsp, fun h1 h2 h3 h4 => ?writeWptr, fun bad => ?badWptr⟩
  case readWptr =>
    have h := setR_donePrefix fl r s1.cpu.wptr
    refine ⟨_, ?_, h.1, h.2.trans (by rw [wptr_eq])⟩
    show execMovsWptr r s = _
    rw [execMovsWptr, movsSpilled, hs]
  case readSsp =>
    refine ⟨_, ?_, setR_donePrefix fl r s1.cpu.ssp⟩
    show execMovsSsp r s = _
    rw [execMovsSsp, movsSpilled, hs]
  case writeSsp =>
    refine ⟨_, ?_, donePrefix_leaves (s := { s1 with cpu := { s1.cpu with ssp := s.rd r } }) fl s1.cpu.sts⟩
    show execMovtSsp r s = _
    simp only [execMovtSsp, hs]
    rw [if_neg (by simpa using ok)]
    rfl
  case badSsp =>
    show execMovtSsp r s = _
    simp only [execMovtSsp, hs]
    rw [if_pos bad]
  case writeWptr =>
    refine ⟨_, ?_, donePrefix_leaves (s := { s1 with cpu := { s1.cpu with
      depth := field (s.rd r) 31 16, zsz := if s1.cpu.sup then field (s.rd r) 11 8 else s1.cpu.zsz } }) fl s1.cpu.sts⟩
    show execMovtWptr r s = _
    simp only [execMovtWptr, hs]
    rw [if_neg (by simpa [h1, h2, h3] using h4)]
    rfl
  case badWptr =>
    show execMovtWptr r s = _
    simp only [execMovtWptr, hs]
    rw [if_pos (by simpa [or_assoc] using bad)]
    rfl

end Sys2Proof.Machine
end

section

namespace Sys2Proof.Machine

set_option Elab.async false

/-! ### Transfers (R48, R53, R142, R143) -/

theorem toInt_eq_toSigned {w : Nat} (x : BitVec w) : x.toInt = toSigned w x.toNat := by
  rw [BitVec.toInt_eq_toNat_cond, toSigned, Nat.mod_eq_of_lt x.isLt]
  cases w with
  | zero => simp [BitVec.toNat_of_zero_length]
  | succ v =>
    rw [Nat.add_sub_cancel, pow_succ]
    refine if_congr (by omega) rfl ?_
    push_cast
    rfl

/-- Where a branch immediate leads (R53). -/
theorem branchTarget_eq (pc : Word) (imm : BrImm) : branchTarget pc imm = branchGoal pc imm := by
  have line : (imm.extractLsb' 5 11).toInt = signedOf 11 (imm.toNat / 32) := by
    rw [toInt_eq_toSigned, BitVec.extractLsb'_toNat, Nat.shiftRight_eq_div_pow, toSigned_mod, toSigned_eq (by decide)]
  have far : ((imm.extractLsb' 5 11).signExtend 64) <<< 6 = wordInt (64 * signedOf 11 (imm.toNat / 32)) := by
    rw [BitVec.shiftLeft_eq_mul_twoPow, ← line, mul_comm, wordInt, BitVec.ofInt_mul]
    rfl
  have low : (imm.extractLsb' 0 5).setWidth 64 = wordInt (imm.toNat % 32 : Nat) := by
    apply BitVec.eq_of_toNat_eq
    rw [wordInt, BitVec.ofInt_natCast, BitVec.toNat_setWidth, BitVec.extractLsb'_toNat, BitVec.toNat_ofNat, Nat.shiftRight_zero]
  rw [branchTarget, branchGoal, far, low, wordInt_add, wordInt_add, wordInt_toInt]
  rfl

theorem cacheComp_cpu (s : State) (d part asid va : Nat) (c : Comp) (ipas : List Nat) :
    (s.cacheComp d part asid va c ipas).cpu = s.cpu := by
  rw [State.cacheComp]
  split <;> rfl

theorem cacheFound_cpu (s : State) (f : Found) : (s.cacheFound f).cpu = s.cpu := by
  rw [State.cacheFound.eq_def]
  split
  next => exact cacheComp_cpu ..
  next => exact cacheComp_cpu ..
  next => rfl

/-- Holding a line changes nothing of the context but the copies that it holds. -/
theorem holdLine_cpu (s : State) (la : Word) (src : Option Found) (is : List Slotted) :
    (s.holdLine la src is).cpu = { s.cpu with lines := (s.holdLine la src is).cpu.lines } := by
  rw [State.holdLine]
  split
  next => rfl
  next => rw [State.modCpu_cpu, cacheFound_cpu]

theorem holdLine_seqPc (s : State) (la : Word) (src : Option Found) (is : List Slotted) :
    (s.holdLine la src is).seqPc = s.seqPc := by
  rw [State.seqPc, holdLine_cpu]
  rfl

theorem checkTarget_ok {s : State} {t : Word} {src : Option Found} {is : List Slotted} (h : s.Target t src is) :
    s.checkTarget t = .ok src is := by
  obtain ⟨high, line, first, last⟩ := h
  rw [State.checkTarget, if_neg (by omega), line]
  exact if_neg (by omega)

theorem safeFinish_keeps {s : State} (k : s.keepsSlot) (fin : State → State) : s.safeFinish fin = fin s := by
  rw [State.safeFinish]
  split
  next => rfl
  next hc =>
    have sup : s.isSup = false := by rw [State.isSup, hc]
    obtain ⟨e, p⟩ := k.resolve_left (by simp [sup])
    rw [e, p]
    rfl

theorem jumpTo_keeps {s : State} (k : s.keepsSlot) (src : Option Found) (is : List Slotted) (f : State → State) (t : Word) :
    s.jumpTo src is f t = (f (s.holdLine (lineAddr t) src is)).doneTo 0 t := by
  rw [State.jumpTo]
  split
  next => exact safeFinish_keeps k _
  next => rfl

/-- A transfer with an effect: the check of its target, and the jump. -/
def State.transferTo (s : State) (f : State → State) (target : Word) : State :=
  match s.checkTarget target with
  | .stopped s => s
  | .ok src is => s.jumpTo src is f target

/-- The write of an optional register. -/
def State.setWritten (s : State) : Option (Reg × Word) → State
  | none => s
  | some (d, v) => s.setR d v

/-- A taken transfer is a jump to its target, with the write of its register as its effect. -/
theorem exec_taken {s : State} {i : Instr} {target : Word} {w : Option (Reg × Word)} (p : s.noPrefix)
    (ht : takenTransfer s i = some (target, w)) :
    ∃ f, exec i s = .next (s.transferTo f target) ∧ ∀ u : State, u.seqPc = s.seqPc → f u = u.setWritten w := by
  cases i
  case br =>
    cases ht
    refine ⟨id, ?_, fun u _ => rfl⟩
    show execBr _ s = _
    rw [execBr, plain_next p, branchTarget_eq]; rfl
  case brc =>
    change ite _ _ none = _ at ht
    split at ht
    next h =>
      cases ht
      refine ⟨id, ?_, fun u _ => rfl⟩
      show execBrc _ _ _ _ s = _
      rw [execBrc, plain_next p, cond_eq, if_pos h, branchTarget_eq]; rfl
    next => cases ht
  case jmp =>
    cases ht
    refine ⟨id, ?_, fun u _ => rfl⟩
    show execJmp _ s = _
    rw [execJmp, plain_next p]; rfl
  case call =>
    cases ht
    refine ⟨fun s => s.setR 15#5 s.seqPc, ?_, fun u hu => congrArg (u.setR 15#5) hu⟩
    show execCall _ s = _
    rw [execCall, plain_next p, branchTarget_eq]; rfl
  case callr =>
    cases ht
    refine ⟨fun s => s.setR 15#5 s.seqPc, ?_, fun u hu => congrArg (u.setR 15#5) hu⟩
    show execCallr _ s = _
    rw [execCallr, plain_next p]; rfl
  case loop d _ =>
    change ite _ none _ = _ at ht
    split at ht
    next => cases ht
    next h =>
      cases ht
      refine ⟨fun u => u.setR d (s.rd d - 1#64), ?_, fun u _ => rfl⟩
      have h : s.rd d - 1#64 ≠ 0#64 := fun e => h (congrArg BitVec.toNat (sub_eq_zero.1 e))
      show execLoop _ _ s = _
      rw [execLoop, plain_next p]
      show Host.Outcome.next (if s.rd d - 1#64 ≠ 0#64 then _ else _) = _
      rw [if_pos h, branchTarget_eq]; rfl
  all_goals exact none_ne_some ht

/-- A transfer not taken writes its register and completes in sequence. -/
theorem exec_untaken {s : State} {i : Instr} {w : Option (Reg × Word)} (p : s.noPrefix) (hu : untakenTransfer s i = some w) :
    exec i s = .next ((s.setWritten w).doneHold 0) := by
  cases i
  case brc =>
    change ite _ none _ = _ at hu
    split at hu
    next => cases hu
    next h =>
      cases hu
      show execBrc _ _ _ _ s = _
      rw [execBrc, plain_next p, cond_eq, if_neg h]; rfl
  case loop d _ =>
    change ite _ _ none = _ at hu
    split at hu
    next h =>
      cases hu
      have h : s.rd d - 1#64 = 0#64 := sub_eq_zero.2 (BitVec.eq_of_toNat_eq h)
      show execLoop _ _ s = _
      rw [execLoop, plain_next p]
      show Host.Outcome.next (if s.rd d - 1#64 ≠ 0#64 then _ else _) = _
      rw [if_neg (not_not.2 h)]; rfl
    next => cases hu
  all_goals exact none_ne_some hu

theorem setR_doneTo_rd {s : State} (d : Reg) (v : Word) (h : Nat) (pc : Word) :
    ((s.setR d v).doneTo h pc).rd d = if d = 0#5 then 0#64 else v := by
  have p := s.cpu.produce_one d.toNat v.toNat
  show Thread.rd (State.doneTo _ h pc).cpu d = _
  rw [Thread.rd_eq_reg, doneTo_reg _ _ _ _ p.2]
  show BitVec.ofNat 64 ((s.cpu.produce 1 d.toNat v.toNat).reg d.toNat) = _
  rw [p.1, placeVal]
  by_cases z : d = 0#5
  · subst z; rfl
  · have z' : d.toNat ≠ 0 := fun x => z (BitVec.eq_of_toNat_eq x)
    rw [if_neg z', if_pos d.isLt, if_neg z, Nat.mod_eq_of_lt v.isLt, BitVec.ofNat_toNat, BitVec.setWidth_eq]

/-- Completing at a PC after an optional write. -/
theorem setWritten_doneTo (s : State) (w : Option (Reg × Word)) (pc : Word) :
    Completes s ((s.setWritten w).doneTo 0 pc) 0 pc (written w) 0#64 [] ∧ holdsWrite ((s.setWritten w).doneTo 0 pc) w := by
  match w with
  | none => exact ⟨completes_doneTo (f := id) (Effect.refl s.cpu) 0 pc, fun _ _ h => by cases h⟩
  | some (d, v) =>
    refine ⟨completes_doneTo (f := fun t => t.produce 1 d.toNat v.toNat) ((Effect.refl s.cpu).produce 1 d.toNat v.toNat) 0 pc, ?_⟩
    rintro _ _ ⟨⟩
    exact setR_doneTo_rd d v 0 pc

theorem setWritten_flow (s : State) (w : Option (Reg × Word)) :
    (s.setWritten w).cpu.pc = s.cpu.pc ∧ (s.setWritten w).cpu.lineN = s.cpu.lineN := by
  match w with
  | none => exact ⟨rfl, rfl⟩
  | some (d, v) =>
    have e := (Effect.refl s.cpu).produce 1 d.toNat v.toNat
    exact ⟨e.pc, e.lineN⟩

/-! ### A target that fails the check of R48 -/

theorem checkTarget_high {s : State} {t : Word} (h : field t 63 57 ≠ 0) : s.checkTarget t = .stopped (s.trap 0x05 t) := by
  rw [State.checkTarget, if_pos h]

theorem checkTarget_illegal {s : State} {t : Word} (h : field t 63 57 = 0) (hl : s.lineOf (lineAddr t) = .illegal) :
    s.checkTarget t = .stopped (s.trap 0x02 t) := by
  rw [State.checkTarget, if_neg (not_not.2 h), hl]

theorem checkTarget_trap {s : State} {t : Word} {c : Nat} {v : Word} (h : field t 63 57 = 0)
    (hl : s.lineOf (lineAddr t) = .trap c v) : s.checkTarget t = .stopped (s.trap c v) := by
  rw [State.checkTarget, if_neg (not_not.2 h), hl]

theorem checkTarget_fail {s : State} {t : Word} {f : WalkFail} (h : field t 63 57 = 0) (hl : s.lineOf (lineAddr t) = .fail f) :
    s.checkTarget t = .stopped (s.faultWait (lineAddr t) .exec f) := by
  rw [State.checkTarget, if_neg (not_not.2 h), hl]

theorem checkTarget_conflict {s : State} {t : Word} (h : field t 63 57 = 0) (hl : s.lineOf (lineAddr t) = .conflict) :
    s.checkTarget t = .stopped (s.conflictTrap (lineAddr t)) := by
  rw [State.checkTarget, if_neg (not_not.2 h), hl]

theorem checkTarget_noInstruction {s : State} {t : Word} {src : Option Found} {is : List Slotted} (h : field t 63 57 = 0)
    (hl : s.lineOf (lineAddr t) = .ok src is) (hn : field t 5 0 = 0 ∨ is.length < field t 5 0) :
    s.checkTarget t = .stopped (s.trap 0x05 t) := by
  rw [State.checkTarget, if_neg (not_not.2 h), hl]
  exact if_pos hn

theorem transferTo_stopped {s u : State} {f : State → State} {t : Word} (h : s.checkTarget t = .stopped u) :
    s.transferTo f t = u := by
  rw [State.transferTo, h]

/-- Settles O7, by the jump that a taken transfer is (`exec_taken`) and the check of its target. -/
theorem transfers : Obligations.Transfers := by
  refine ⟨fun s i target w src is p k ht tgt => ?taken, fun s i w p fl hu => ?untaken, fun s i target w p ht => ?stopped⟩
  case taken =>
    obtain ⟨f, hexec, hf⟩ := exec_taken p ht
    refine ⟨_, hexec, ?_⟩
    rw [State.transferTo, checkTarget_ok tgt]
    show Completes _ (s.jumpTo src is f target) _ _ _ _ _ ∧ holdsWrite (s.jumpTo src is f target) w
    rw [jumpTo_keeps k, hf _ (holdLine_seqPc s _ src is)]
    exact setWritten_doneTo _ w target
  case untaken =>
    refine ⟨_, exec_untaken p hu, ?_⟩
    obtain ⟨pc, n⟩ := setWritten_flow s w
    rw [doneHold_eq fl pc n]
    exact setWritten_doneTo s w s.seqPc
  case stopped =>
    obtain ⟨f, hexec, -⟩ := exec_taken p ht
    rw [hexec]
    exact ⟨fun h => by rw [transferTo_stopped (checkTarget_high h)],
      fun h hl => by rw [transferTo_stopped (checkTarget_illegal h hl)],
      fun c v h hl => by rw [transferTo_stopped (checkTarget_trap h hl)],
      fun f h hl => by rw [transferTo_stopped (checkTarget_fail h hl)],
      fun h hl => by rw [transferTo_stopped (checkTarget_conflict h hl)],
      fun src is h hl hn => by rw [transferTo_stopped (checkTarget_noInstruction h hl hn)]⟩

end Sys2Proof.Machine
end

section

namespace Sys2Proof.Machine

set_option Elab.async false

/-! ### The registers of a new window and of a closed one (R56, R127, R144, R145) -/

theorem fileOf_get {g o l i : List Word} (hg : g.length = 8) (ho : o.length = 8) (hl : l.length = 8) {k : Nat} (h : k < 32) :
    (fileOf g o l i)[k] = if k < 8 then g.getD k 0#64 else if k < 16 then o.getD (k - 8) 0#64 else
      if k < 24 then l.getD (k - 16) 0#64 else i.getD (k - 24) 0#64 := by
  rw [fileOf, Vector.getElem_ofFn]
  simp only [List.getD_eq_getElem?_getD, List.getElem?_append, List.length_append, hg, ho, hl]
  split_ifs <;> first | rfl | omega

theorem zero8_getD (k : Nat) : zero8.getD k 0#64 = 0#64 := by
  rw [zero8, List.getD_eq_getElem?_getD, List.getElem?_replicate]
  split <;> rfl

theorem toList_getD (v : Vector Word 8) {k : Nat} (h : k < 8) : v.toList.getD k 0#64 = v[k] := by
  simp [List.getD_eq_getElem?_getD, h]

/-- The l and i registers of a register file. -/
def windowOf (r : Vector Word 32) : Window :=
  ⟨Vector.ofFn (fun k : Fin 8 => r.get ⟨16 + k, by omega⟩), Vector.ofFn (fun k : Fin 8 => r.get ⟨24 + k, by omega⟩)⟩

theorem windowOf_l (r : Vector Word 32) {k : Nat} (h : k < 8) : (windowOf r).l[k] = r[16 + k] := by
  rw [windowOf, Vector.getElem_ofFn]
  rfl

theorem windowOf_i (r : Vector Word 32) {k : Nat} (h : k < 8) : (windowOf r).i[k] = r[24 + k] := by
  rw [windowOf, Vector.getElem_ofFn]
  rfl

theorem Window.ext_get {v w : Window} (hl : ∀ k (h : k < 8), v.l[k] = w.l[k]) (hi : ∀ k (h : k < 8), v.i[k] = w.i[k]) : v = w := by
  cases v; cases w
  rw [Window.mk.injEq]
  exact ⟨Vector.ext hl, Vector.ext hi⟩

/-- A window with one of its registers, 16 to 31, written. -/
def Window.put (w : Window) (n : Nat) (v : Word) : Window :=
  if n < 16 then w else if h : n - 16 < 8 then { w with l := w.l.set (n - 16) v h }
  else if h : n - 24 < 8 then { w with i := w.i.set (n - 24) v h } else w

theorem Window.put_none (w : Window) {n : Nat} (v : Word) (h : n < 16 ∨ 32 ≤ n) : w.put n v = w := by
  rw [Window.put]
  split
  · rfl
  · rw [dif_neg (by omega), dif_neg (by omega)]

theorem Window.put_l (w : Window) {n k : Nat} (v : Word) (h : k < 8) : (w.put n v).l[k] = if n = 16 + k then v else w.l[k] := by
  rw [Window.put]
  by_cases h1 : n < 16
  · rw [if_pos h1, if_neg (by omega)]
  · rw [if_neg h1]
    by_cases h2 : n - 16 < 8
    · rw [dif_pos h2]
      exact (Vector.getElem_set h2 h).trans (if_congr (by omega) rfl rfl)
    · rw [dif_neg h2, if_neg (by omega)]
      split <;> rfl

theorem Window.put_i (w : Window) {n k : Nat} (v : Word) (h : k < 8) : (w.put n v).i[k] = if n = 24 + k then v else w.i[k] := by
  rw [Window.put]
  by_cases h1 : n < 16
  · rw [if_pos h1, if_neg (by omega)]
  · rw [if_neg h1]
    by_cases h2 : n - 16 < 8
    · rw [dif_pos h2, if_neg (by omega)]
    · rw [dif_neg h2]
      by_cases h3 : n - 24 < 8
      · rw [dif_pos h3]
        exact (Vector.getElem_set h3 h).trans (if_congr (by omega) rfl rfl)
      · rw [dif_neg h3, if_neg (by omega)]

theorem windowOf_set (r : Vector Word 32) {n : Nat} (v : Word) (h : n < 32) : windowOf (r.set n v h) = (windowOf r).put n v :=
  Window.ext_get
    (fun k hk => by rw [windowOf_l _ hk, Window.put_l _ _ hk, windowOf_l _ hk, Vector.getElem_set])
    (fun k hk => by rw [windowOf_i _ hk, Window.put_i _ _ hk, windowOf_i _ hk, Vector.getElem_set])

/-- The register file of a new window: its i registers are the old o registers, its o and l registers zero. -/
def openedRegs (r : Vector Word 32) : Vector Word 32 := fileOf (r.toList.take 8) zero8 zero8 ((r.toList.drop 8).take 8)

/-- The register file of a window that comes back: its o registers are the i registers of the one closed. -/
def closedRegs (r : Vector Word 32) (w : Window) : Vector Word 32 := fileOf (r.toList.take 8) (windowOf r).i.toList w.l.toList w.i.toList

theorem take_getD (r : Vector Word 32) {k : Nat} (h : k < 8) : (r.toList.take 8).getD k 0#64 = r[k] := by
  simp [List.getD_eq_getElem?_getD, h]

theorem drop_take_getD (r : Vector Word 32) {k : Nat} (h : k < 8) : ((r.toList.drop 8).take 8).getD k 0#64 = r[8 + k] := by
  simp [List.getD_eq_getElem?_getD, h]

theorem openedRegs_get (r : Vector Word 32) {k : Nat} (h : k < 32) :
    (openedRegs r)[k] = if k < 8 then r[k] else if k < 24 then 0#64 else r[k - 16] := by
  rw [openedRegs, fileOf_get (by simp) rfl rfl h, zero8_getD, zero8_getD]
  by_cases h8 : k < 8
  · rw [if_pos h8, if_pos h8, take_getD r h8]
  · rw [if_neg h8, if_neg h8]
    by_cases h24 : k < 24
    · rw [if_pos h24, if_pos h24, ite_self]
    · rw [if_neg h24, if_neg h24, if_neg (by omega), drop_take_getD r (by omega)]
      congr 1
      omega

theorem closedRegs_get (r : Vector Word 32) (w : Window) {k : Nat} (h : k < 32) :
    (closedRegs r w)[k] = if k < 8 then r[k] else if k < 16 then (windowOf r).i.toList.getD (k - 8) 0#64
      else if k < 24 then w.l.toList.getD (k - 16) 0#64 else w.i.toList.getD (k - 24) 0#64 := by
  rw [closedRegs, fileOf_get (by simp) (by simp) (by simp) h]
  by_cases h8 : k < 8
  · rw [if_pos h8, if_pos h8, take_getD r h8]
  · rw [if_neg h8, if_neg h8]

theorem openedRegs_set_global (r : Vector Word 32) {n : Nat} (v : Word) (h : n < 8) :
    openedRegs (r.set n v) = (openedRegs r).set n v := by
  refine Vector.ext fun k hk => ?_
  rw [openedRegs_get _ hk, Vector.getElem_set, Vector.getElem_set, Vector.getElem_set, openedRegs_get _ hk]
  split_ifs <;> first | rfl | omega

theorem openedRegs_set_out (r : Vector Word 32) {n : Nat} (v : Word) (h8 : 8 ≤ n) (h16 : n < 16) :
    openedRegs (r.set n v) = (openedRegs r).set (n + 16) v := by
  refine Vector.ext fun k hk => ?_
  rw [openedRegs_get _ hk, Vector.getElem_set, Vector.getElem_set, Vector.getElem_set, openedRegs_get _ hk]
  split_ifs <;> first | rfl | omega

theorem openedRegs_set_saved (r : Vector Word 32) {n : Nat} (v : Word) (h16 : 16 ≤ n) (h : n < 32) :
    openedRegs (r.set n v) = openedRegs r := by
  refine Vector.ext fun k hk => ?_
  rw [openedRegs_get _ hk, Vector.getElem_set, Vector.getElem_set, openedRegs_get _ hk]
  split_ifs <;> first | rfl | omega

theorem closedRegs_set_global (r : Vector Word 32) (w : Window) {n : Nat} (v : Word) (h : n < 8) :
    closedRegs (r.set n v) w = (closedRegs r w).set n v := by
  refine Vector.ext fun k hk => ?_
  rw [closedRegs_get _ _ hk, Vector.getElem_set, Vector.getElem_set, closedRegs_get _ _ hk, windowOf_set _ _ (by omega),
    Window.put_none _ _ (by omega)]
  split_ifs <;> first | rfl | omega

theorem closedRegs_set_in (r : Vector Word 32) (w : Window) {n : Nat} (v : Word) (h24 : 24 ≤ n) (h : n < 32) :
    closedRegs (r.set n v) w = (closedRegs r w).set (n - 16) v := by
  refine Vector.ext fun k hk => ?_
  rw [closedRegs_get _ _ hk, Vector.getElem_set, Vector.getElem_set, closedRegs_get _ _ hk, windowOf_set _ _ h]
  by_cases h8 : k < 8
  · rw [if_pos h8, if_neg (by omega), if_neg (by omega), if_pos h8]
  by_cases h16 : k < 16
  · rw [if_neg h8, if_pos h16, if_neg h8, if_pos h16, toList_getD _ (by omega), toList_getD _ (by omega), Window.put_i _ _ (by omega)]
    exact if_congr (by omega) rfl rfl
  · rw [if_neg h8, if_neg h16, if_neg (show ¬ n - 16 = k by omega), if_neg h8, if_neg h16]

theorem closedRegs_set_lost (r : Vector Word 32) (w : Window) {n : Nat} (v : Word) (h8 : 8 ≤ n) (h24 : n < 24) :
    closedRegs (r.set n v) w = closedRegs r w := by
  refine Vector.ext fun k hk => ?_
  rw [closedRegs_get _ _ hk, Vector.getElem_set, closedRegs_get _ _ hk, windowOf_set _ _ (by omega)]
  by_cases h8 : k < 8
  · rw [if_pos h8, if_neg (by omega), if_pos h8]
  by_cases h16 : k < 16
  · rw [if_neg h8, if_pos h16, if_neg h8, if_pos h16, toList_getD _ (by omega), toList_getD _ (by omega), Window.put_i _ _ (by omega),
      if_neg (by omega)]
  · rw [if_neg h8, if_neg h16, if_neg h8, if_neg h16]

/-- A write of a saved register of the window that comes back. -/
theorem closedRegs_put (r : Vector Word 32) (w : Window) {n : Nat} (v : Word) (h16 : 16 ≤ n) (h : n < 32) :
    closedRegs r (w.put n v) = (closedRegs r w).set n v := by
  refine Vector.ext fun k hk => ?_
  rw [closedRegs_get _ _ hk, Vector.getElem_set, closedRegs_get _ _ hk]
  by_cases h16 : k < 16
  · by_cases h8 : k < 8
    · rw [if_pos h8, if_neg (by omega), if_pos h8]
    · rw [if_neg h8, if_pos h16, if_neg (by omega), if_neg h8, if_pos h16]
  · have h8 : ¬ k < 8 := by omega
    by_cases h24 : k < 24
    · rw [if_neg h8, if_neg h16, if_pos h24, if_neg h8, if_neg h16, if_pos h24, toList_getD _ (by omega),
        toList_getD _ (by omega), Window.put_l _ _ (by omega)]
      exact if_congr (by omega) rfl rfl
    · rw [if_neg h8, if_neg h16, if_neg h24, if_neg h8, if_neg h16, if_neg h24, toList_getD _ (by omega),
        toList_getD _ (by omega), Window.put_i _ _ (by omega)]
      exact if_congr (by omega) rfl rfl

/-! ### Results in flight over a window change (R56, R127) -/

/-- `NewWindow` but for the results in flight. -/
def Thread.opened (t : Thread) : Thread := { t with older := windowOf t.regs :: t.older, regs := openedRegs t.regs }

theorem newWindow_eq (t : Thread) : t.newWindow = { t.opened with fly := t.fly.map Fly.saved } := by
  rw [Thread.newWindow, Thread.opened]
  rfl

theorem putOlder_eq (t : Thread) (up n v : Nat) :
    t.putOlder up n v = { t with older := t.older.modify (up - 1) (·.put n (word v)) } := rfl

theorem putOlder_none (t : Thread) (up v : Nat) {n : Nat} (h : n < 16 ∨ 32 ≤ n) : t.putOlder up n v = t := by
  have same : (fun w : Window => w.put n (word v)) = id := funext fun w => w.put_none _ h
  rw [putOlder_eq, same, List.modify_id]

theorem Fly.saved_same {f : Fly} (h : f.reg < 8 ∨ 32 ≤ f.reg) : f.saved = f := by
  rw [Fly.saved, if_pos (by simpa using h.symm)]

theorem Fly.saved_out {f : Fly} (hu : f.up = 0) (h8 : 8 ≤ f.reg) (h16 : f.reg < 16) : f.saved = { f with reg := f.reg + 16 } := by
  rw [Fly.saved, if_neg (by simp; omega), if_pos (by simp [hu, h16])]

theorem Fly.saved_up {f : Fly} (h8 : 8 ≤ f.reg) (h : f.reg < 32) (hu : f.up = 0 → 16 ≤ f.reg) : f.saved = { f with up := f.up + 1 } := by
  rw [Fly.saved, if_neg (by simp; omega), if_neg (by simpa using hu)]

theorem opened_put_scalar (t : Thread) {n : Nat} (v : Nat) (h0 : n ≠ 0) (h : n < 32) : (t.put n v).opened =
    { t with older := (windowOf t.regs).put n (word v) :: t.older, regs := openedRegs (t.regs.set n (word v)) } := by
  rw [Thread.put_scalar _ _ h0 h, Thread.opened, ← windowOf_set]

/-- A result put in place before a window opens is put in place after it in the place that it has then. -/
theorem opened_putFly (t : Thread) (f : Fly) : (t.putFly f).opened = t.opened.putFly f.saved := by
  rw [Thread.putFly]
  by_cases hu : f.up = 0
  · rw [if_pos hu]
    rcases Thread.put_kinds f.reg with h | ⟨h, h'⟩ | ⟨h, h'⟩ | ⟨h, h', h''⟩ | ⟨h, h', h''⟩
    · rw [Fly.saved_same (by omega), Thread.putFly, if_pos hu, h, Thread.put_zero, Thread.put_zero]
    · rw [opened_put_scalar _ _ h h']
      by_cases h8 : f.reg < 8
      · rw [Fly.saved_same (.inl h8), Thread.putFly, if_pos hu, Thread.put_scalar _ _ h h', openedRegs_set_global _ _ h8,
          Window.put_none _ _ (by omega), Thread.opened]
      by_cases h16 : f.reg < 16
      · rw [Fly.saved_out hu (by omega) h16, Thread.putFly, if_pos hu, Thread.put_scalar (n := f.reg + 16) _ _ (by omega) (by omega),
          openedRegs_set_out _ _ (by omega) h16, Window.put_none _ _ (by omega), Thread.opened]
      · rw [Fly.saved_up (by omega) h' (by omega), Thread.putFly, if_neg (by simp), putOlder_eq, hu,
          openedRegs_set_saved _ _ (by omega) h', Thread.opened]
        rfl
    · rw [Fly.saved_same (by omega), Thread.putFly, if_pos hu, Thread.put_vector _ _ h h', Thread.put_vector _ _ h h', Thread.opened,
        Thread.opened]
    · rw [Fly.saved_same (by omega), Thread.putFly, if_pos hu, Thread.put_mask _ _ h h' h'', Thread.put_mask _ _ h h' h'',
        Thread.opened, Thread.opened]
    · rw [Fly.saved_same (by omega), Thread.putFly, if_pos hu, Thread.put_none _ _ h h' h'', Thread.put_none _ _ h h' h'']
  · rw [if_neg hu]
    by_cases h : f.reg < 16 ∨ 32 ≤ f.reg
    · have hs : f.saved.up ≠ 0 ∧ f.saved.reg = f.reg := by
        by_cases h8 : f.reg < 8 ∨ 32 ≤ f.reg
        · rw [Fly.saved_same h8]
          exact ⟨hu, rfl⟩
        · rw [Fly.saved_up (by omega) (by omega) (fun e => absurd e hu)]
          exact ⟨Nat.succ_ne_zero _, rfl⟩
      rw [putOlder_none _ _ _ h, Thread.putFly, if_neg hs.1, hs.2, putOlder_none _ _ _ h]
    · obtain ⟨k, hk⟩ := Nat.exists_eq_succ_of_ne_zero hu
      rw [Fly.saved_up (by omega) (by omega) (fun e => absurd e hu), Thread.putFly, if_neg (Nat.succ_ne_zero _), putOlder_eq, putOlder_eq,
        hk, Thread.opened, Thread.opened]
      rfl

theorem opened_foldl (fl : List Fly) (t : Thread) : (fl.foldl Thread.putFly t).opened = (fl.map Fly.saved).foldl Thread.putFly t.opened := by
  induction fl generalizing t with
  | nil => rfl
  | cons f rest ih => rw [List.foldl_cons, ih, opened_putFly, List.map_cons, List.foldl_cons]

/-- Once every result is in place, a window opened before they landed is as one opened after. -/
theorem newWindow_commit (t : Thread) : t.newWindow.commit = { t.commit.opened with fly := [] } := by
  rw [Thread.commit_eq, Thread.commit_eq, newWindow_eq]
  show { List.foldl Thread.putFly { t.opened with fly := _ } (t.fly.map Fly.saved) with fly := [] } = _
  rw [foldl_fly, ← opened_foldl, Thread.opened, Thread.opened]

/-- `DropCurrentWindow` but for the results in flight. -/
def Thread.closed (t : Thread) : Thread :=
  match t.older with
  | [] => t
  | w :: rest => { t with older := rest, spillOff := t.spillOff && !rest.isEmpty, regs := closedRegs t.regs w }

theorem closed_cons {t : Thread} {w : Window} {rest : List Window} (h : t.older = w :: rest) :
    t.closed = { t with older := rest, spillOff := t.spillOff && !rest.isEmpty, regs := closedRegs t.regs w } := by
  rw [Thread.closed, h]

theorem dropWindow_eq {t : Thread} {w : Window} {rest : List Window} (h : t.older = w :: rest) :
    t.dropWindow = { t.closed with fly := t.fly.filterMap Fly.restored } := by
  rw [Thread.dropWindow, h, closed_cons h]
  rfl

theorem Fly.restored_same {f : Fly} (h : f.reg < 8 ∨ 32 ≤ f.reg) : f.restored = some f := by
  rw [Fly.restored, if_pos (by simpa using h.symm)]

theorem Fly.restored_in {f : Fly} (hu : f.up = 0) (h24 : 24 ≤ f.reg) (h : f.reg < 32) :
    f.restored = some { f with reg := f.reg - 16 } := by
  rw [Fly.restored, if_neg (by simp; omega), if_pos hu, if_pos h24]

theorem Fly.restored_lost {f : Fly} (h8 : 8 ≤ f.reg) (h : if f.up = 0 then f.reg < 24 else f.reg < 16) : f.restored = none := by
  have h32 : f.reg < 32 := by split at h <;> omega
  rw [Fly.restored, if_neg (by simp; omega)]
  by_cases hu : f.up = 0
  · rw [if_pos hu] at h
    rw [if_pos hu, if_neg (by omega)]
  · rw [if_neg hu] at h
    rw [if_neg hu, if_pos h]

theorem Fly.restored_down {f : Fly} (hu : f.up ≠ 0) (h16 : 16 ≤ f.reg) (h : f.reg < 32) :
    f.restored = some { f with up := f.up - 1 } := by
  rw [Fly.restored, if_neg (by simp; omega), if_neg hu, if_neg (by omega)]

/-- A result in place, or none. -/
def Thread.putFly? (t : Thread) (f : Option Fly) : Thread := f.elim t t.putFly

theorem putFly_older_length (t : Thread) (f : Fly) : (t.putFly f).older.length = t.older.length := by
  rw [Thread.putFly]
  split
  · rw [Thread.put_older]
  · rw [putOlder_eq]
    exact List.length_modify ..

theorem foldl_older_length (fl : List Fly) (t : Thread) : (fl.foldl Thread.putFly t).older.length = t.older.length := by
  induction fl generalizing t with
  | nil => rfl
  | cons f rest ih => rw [List.foldl_cons, ih, putFly_older_length]

theorem closed_put_scalar {t : Thread} {w : Window} {rest : List Window} (ht : t.older = w :: rest) {n : Nat} (v : Nat) (h0 : n ≠ 0)
    (h : n < 32) : (t.put n v).closed =
      { t with older := rest, spillOff := t.spillOff && !rest.isEmpty, regs := closedRegs (t.regs.set n (word v)) w } := by
  rw [Thread.put_scalar _ _ h0 h]
  exact closed_cons (t := { t with regs := t.regs.set n (word v) }) ht

theorem closed_put_vector {t : Thread} {w : Window} {rest : List Window} (ht : t.older = w :: rest) {n : Nat} (v : Nat) (h1 : ¬ n < 32) :
    (t.put n v).closed = t.closed.put n v := by
  rcases Thread.put_kinds n with h | ⟨h, h'⟩ | ⟨h, h'⟩ | ⟨h, h', h''⟩ | ⟨h, h', h''⟩
  · omega
  · omega
  · rw [Thread.put_vector t v h h', closed_cons (t := { t with vregs := t.vregs.set (n - 32) (BitVec.ofNat 512 v) }) ht,
      closed_cons ht, Thread.put_vector _ _ h h']
  · rw [Thread.put_mask t v h h' h'', closed_cons (t := { t with kregs := t.kregs.set (n - 40) (BitVec.ofNat 16 v) }) ht,
      closed_cons ht, Thread.put_mask _ _ h h' h'']
  · rw [Thread.put_none _ _ h h' h'', Thread.put_none _ _ h h' h'']

/-- A result put in place before a window closes is put in place after it in the place that it has then, if any. -/
theorem closed_putFly {t : Thread} {w : Window} {rest : List Window} (ht : t.older = w :: rest) (f : Fly) :
    (t.putFly f).closed = t.closed.putFly? f.restored := by
  rw [Thread.putFly]
  by_cases hu : f.up = 0
  · rw [if_pos hu]
    by_cases h : f.reg < 32
    · by_cases h0 : f.reg = 0
      · rw [Fly.restored_same (by omega), h0, Thread.put_zero]
        show t.closed = t.closed.putFly f
        rw [Thread.putFly, if_pos hu, h0, Thread.put_zero]
      rw [closed_put_scalar ht _ h0 h, closed_cons ht]
      by_cases h8 : f.reg < 8
      · rw [Fly.restored_same (.inl h8)]
        show _ = Thread.putFly _ f
        rw [Thread.putFly, if_pos hu, Thread.put_scalar _ _ h0 h, closedRegs_set_global _ _ _ h8]
      by_cases h24 : f.reg < 24
      · rw [Fly.restored_lost (by omega) (by rwa [if_pos hu]), closedRegs_set_lost _ _ _ (by omega) h24]
        rfl
      · rw [Fly.restored_in hu (by omega) h]
        show _ = Thread.putFly _ { f with reg := f.reg - 16 }
        rw [Thread.putFly, if_pos hu, Thread.put_scalar (n := f.reg - 16) _ _ (by omega) (by omega),
          closedRegs_set_in _ _ _ (by omega) h]
    · rw [Fly.restored_same (by omega), closed_put_vector ht _ h]
      show _ = Thread.putFly _ f
      rw [Thread.putFly, if_pos hu]
  · rw [if_neg hu]
    by_cases h8 : f.reg < 8 ∨ 32 ≤ f.reg
    · rw [putOlder_none _ _ _ (by omega), Fly.restored_same h8]
      show _ = Thread.putFly _ f
      rw [Thread.putFly, if_neg hu, putOlder_none _ _ _ (by omega)]
    by_cases h16 : f.reg < 16
    · rw [putOlder_none _ _ _ (.inl h16), Fly.restored_lost (by omega) (by rwa [if_neg hu])]
      rfl
    · rw [Fly.restored_down hu (by omega) (by omega), putOlder_eq, ht]
      show _ = Thread.putFly _ { f with up := f.up - 1 }
      obtain ⟨k, hk⟩ := Nat.exists_eq_succ_of_ne_zero hu
      rw [hk]
      cases k with
      | zero =>
        rw [Thread.putFly, if_pos rfl, Thread.put_scalar (n := f.reg) _ _ (by omega) (by omega), closed_cons ht,
          ← closedRegs_put _ _ _ (by omega) (by omega)]
        exact closed_cons (t := { t with older := w.put f.reg (word f.val) :: rest }) rfl
      | succ k =>
        rw [Thread.putFly, if_neg (show ¬ (k + 1).succ - 1 = 0 by omega), putOlder_eq, closed_cons ht]
        refine (closed_cons (t := { t with older := w :: rest.modify k (·.put f.reg (word f.val)) }) rfl).trans ?_
        have : (rest.modify k (·.put f.reg (word f.val))).isEmpty = rest.isEmpty := by
          rw [Bool.eq_iff_iff, List.isEmpty_iff_length_eq_zero, List.isEmpty_iff_length_eq_zero, List.length_modify]
        rw [this]
        rfl

theorem closed_foldl (fl : List Fly) {t : Thread} (ht : t.older ≠ []) :
    (fl.foldl Thread.putFly t).closed = (fl.filterMap Fly.restored).foldl Thread.putFly t.closed := by
  induction fl generalizing t with
  | nil => rfl
  | cons f rest ih =>
    obtain ⟨w, l, hw⟩ := List.exists_cons_of_ne_nil ht
    have hf : (t.putFly f).older ≠ [] := by
      rw [← List.length_pos_iff_ne_nil, putFly_older_length]
      exact List.length_pos_iff_ne_nil.2 ht
    rw [List.foldl_cons, ih hf, closed_putFly hw, List.filterMap_cons]
    cases f.restored <;> rfl

/-- Once every result is in place, a window closed before they landed is as one closed after. -/
theorem dropWindow_commit {t : Thread} (ht : t.older ≠ []) : t.dropWindow.commit = { t.commit.closed with fly := [] } := by
  obtain ⟨w, l, hw⟩ := List.exists_cons_of_ne_nil ht
  obtain ⟨w', l', hw'⟩ : ∃ w' l', (t.fly.foldl Thread.putFly t).older = w' :: l' := by
    refine List.exists_cons_of_ne_nil ?_
    rw [← List.length_pos_iff_ne_nil, foldl_older_length]
    exact List.length_pos_iff_ne_nil.2 ht
  rw [Thread.commit_eq, Thread.commit_eq, dropWindow_eq hw]
  show { List.foldl Thread.putFly { t.closed with fly := _ } (t.fly.filterMap Fly.restored) with fly := [] } = _
  rw [foldl_fly, ← closed_foldl _ ht, closed_cons hw', closed_cons (t := { t.fly.foldl Thread.putFly t with fly := [] }) hw']

/-! ### Registers read after a window change -/

theorem reg_scalar (t : Thread) {n : Nat} (h0 : n ≠ 0) (h : n < 32) : t.reg n = (t.regs[n]).toNat := by
  rw [Thread.reg, if_neg h0, dif_pos h]
  rfl

theorem reg_zero (t : Thread) : t.reg 0 = 0 := by rw [Thread.reg, if_pos rfl]

/-- The registers of a new window (R144). -/
theorem opened_reg (t : Thread) {k : Nat} (h : k < 8) : t.opened.reg k = t.reg k ∧ t.opened.reg (24 + k) = t.reg (8 + k) ∧
    t.opened.reg (8 + k) = 0 ∧ t.opened.reg (16 + k) = 0 := by
  have get (n : Nat) (h0 : n ≠ 0) (h : n < 32) : t.opened.reg n = ((openedRegs t.regs)[n]).toNat := by
    rw [Thread.opened]
    exact reg_scalar _ h0 h
  refine ⟨?_, ?_, ?_, ?_⟩
  · by_cases h0 : k = 0
    · rw [h0, reg_zero, reg_zero]
    · rw [get k h0 (by omega), reg_scalar t h0 (by omega), openedRegs_get _ (by omega), if_pos h]
  · rw [get _ (by omega) (by omega), reg_scalar t (by omega) (by omega), openedRegs_get _ (by omega), if_neg (by omega), if_neg (by omega)]
    congr 2
    omega
  · rw [get _ (by omega) (by omega), openedRegs_get _ (by omega), if_neg (by omega), if_pos (by omega)]
    rfl
  · rw [get _ (by omega) (by omega), openedRegs_get _ (by omega), if_neg (by omega), if_pos (by omega)]
    rfl

theorem opened_reg_above (t : Thread) {n : Nat} (h : 32 ≤ n) : t.opened.reg n = t.reg n := by
  rw [Thread.opened, Thread.reg, Thread.reg, dif_neg (show ¬ n < 32 by omega), dif_neg (show ¬ n < 32 by omega)]

/-- The l and i registers that a window keeps. -/
theorem windowOf_reg (t : Thread) {k : Nat} (h : k < 8) : ((windowOf t.regs).l.toList.getD k 0#64).toNat = t.reg (16 + k) ∧
    ((windowOf t.regs).i.toList.getD k 0#64).toNat = t.reg (24 + k) := by
  constructor
  · rw [toList_getD _ h, windowOf_l _ h, reg_scalar t (by omega) (by omega)]
  · rw [toList_getD _ h, windowOf_i _ h, reg_scalar t (by omega) (by omega)]

/-- The registers of a window that comes back (R145). -/
theorem closed_reg {t : Thread} {w : Window} {rest : List Window} (ht : t.older = w :: rest) {k : Nat} (h : k < 8) :
    t.closed.reg k = t.reg k ∧ t.closed.reg (8 + k) = t.reg (24 + k) ∧
      t.closed.reg (16 + k) = (w.l.toList.getD k 0#64).toNat ∧ t.closed.reg (24 + k) = (w.i.toList.getD k 0#64).toNat := by
  have get (n : Nat) (h0 : n ≠ 0) (h : n < 32) : t.closed.reg n = ((closedRegs t.regs w)[n]).toNat := by
    rw [closed_cons ht]
    exact reg_scalar _ h0 h
  refine ⟨?_, ?_, ?_, ?_⟩
  · by_cases h0 : k = 0
    · rw [h0, reg_zero, reg_zero]
    · rw [get k h0 (by omega), reg_scalar t h0 (by omega), closedRegs_get _ _ (by omega), if_pos h]
  · rw [get _ (by omega) (by omega), closedRegs_get _ _ (by omega), if_neg (by omega), if_pos (by omega), Nat.add_sub_cancel_left,
      (windowOf_reg t h).2]
  · rw [get _ (by omega) (by omega), closedRegs_get _ _ (by omega), if_neg (by omega), if_neg (by omega), if_pos (by omega),
      Nat.add_sub_cancel_left]
  · rw [get _ (by omega) (by omega), closedRegs_get _ _ (by omega), if_neg (by omega), if_neg (by omega), if_neg (by omega),
      Nat.add_sub_cancel_left]

theorem closed_reg_above {t : Thread} {w : Window} {rest : List Window} (ht : t.older = w :: rest) {n : Nat} (h : 32 ≤ n) :
    t.closed.reg n = t.reg n := by
  rw [closed_cons ht, Thread.reg, Thread.reg, dif_neg (show ¬ n < 32 by omega), dif_neg (show ¬ n < 32 by omega)]

/-! ### SAVE, RESTORE and RET (R144, R145) -/

/-- Completing after a change of the context that leaves its core. -/
theorem modCpu_doneTo_module {s : State} {f : Thread → Thread} (hf : (f s.cpu).core = s.cpu.core) (h : Nat) (pc : Word) :
    (s.modCpu f).doneTo h pc = { s.countRetired with cpu := ((s.modCpu f).doneTo h pc).cpu } := by
  rw [State.doneTo_module]
  simp only [State.countRetired, State.modCore, State.setCore, State.core, State.modCpu, hf]

theorem doneTo_commit_older (s : State) (h : Nat) (pc : Word) : (s.doneTo h pc).cpu.commit.older = s.cpu.commit.older := by
  rw [State.doneTo_commit]
  rfl

theorem doneTo_pc (s : State) (h : Nat) (pc : Word) : (s.doneTo h pc).cpu.pc = pc := rfl

theorem doneTo_depth (s : State) (h : Nat) (pc : Word) : (s.doneTo h pc).cpu.depth = s.cpu.depth :=
  congrArg (·.depth) (s.doneTo_rest h pc)

theorem doneTo_ssp (s : State) (h : Nat) (pc : Word) : (s.doneTo h pc).cpu.ssp = s.cpu.ssp :=
  congrArg (·.ssp) (s.doneTo_rest h pc)

theorem doneTo_sts (s : State) (h : Nat) (pc : Word) : (s.doneTo h pc).cpu.sts = s.cpu.clearPrefix.sts :=
  congrArg (·.sts) (s.doneTo_rest h pc)

/-- `SAVE`'s effect on its context. -/
def Thread.saveWindow (t : Thread) (depth : Nat) : Thread := { t.newWindow with depth := depth }

theorem saveWindow_eq (t : Thread) (d : Nat) : t.saveWindow d = t.newWindow.over { t.newWindow with depth := d } := by
  rw [Thread.saveWindow, Thread.over]

theorem saveWindow_settled (t : Thread) (d n : Nat) : (t.saveWindow d).settled n = t.commit.opened.reg n := by
  rw [saveWindow_eq, Thread.over_settled, Thread.settled, newWindow_commit, Thread.reg, Thread.reg]

theorem saveWindow_older (t : Thread) (d : Nat) : (t.saveWindow d).commit.older = windowOf t.commit.regs :: t.commit.older := by
  rw [saveWindow_eq, Thread.over_windows, newWindow_commit, Thread.opened]

theorem closeWindow_settled {t : Thread} (ht : t.older ≠ []) (n : Nat) : t.closeWindow.settled n = t.commit.closed.reg n :=
  (t.dropWindow.over_settled { t.dropWindow with depth := t.depth - 1 } n).trans (by rw [Thread.settled, dropWindow_commit ht]; rfl)

theorem closeWindow_older {t : Thread} (ht : t.older ≠ []) : t.closeWindow.commit.older = t.commit.closed.older :=
  (t.dropWindow.over_windows { t.dropWindow with depth := t.depth - 1 }).trans (by rw [dropWindow_commit ht])

theorem commit_older_length (t : Thread) : t.commit.older.length = t.older.length := by
  rw [Thread.commit_eq]
  exact foldl_older_length _ _

theorem saveWindow_keeps (t : Thread) (d : Nat) : (t.saveWindow d).core = t.core ∧ (t.saveWindow d).pc = t.pc ∧
    (t.saveWindow d).lineN = t.lineN ∧ (t.saveWindow d).sts = t.sts ∧ (t.saveWindow d).ssp = t.ssp ∧ (t.saveWindow d).depth = d := by
  rw [Thread.saveWindow, Thread.newWindow]
  exact ⟨rfl, rfl, rfl, rfl, rfl, rfl⟩

theorem closeWindow_keeps (t : Thread) : t.closeWindow.core = t.core ∧ t.closeWindow.pc = t.pc ∧ t.closeWindow.lineN = t.lineN ∧
    t.closeWindow.sts = t.sts ∧ t.closeWindow.ssp = t.ssp ∧ t.closeWindow.depth = t.depth - 1 := by
  rw [Thread.closeWindow, Thread.dropWindow.eq_def]
  split <;> exact ⟨rfl, rfl, rfl, rfl, rfl, rfl⟩

theorem exec_save_full {s : State} (p : s.noPrefix) (full : 1024 <<< s.cpu.zsz < 128 * (s.cpu.depth + 1 + 1) + 192) :
    exec .save s = .next (s.trap 0x13 (s.cpu.stackTop - word (128 * (s.cpu.depth + 1 + 1) + 192))) := by
  show execSave s = _
  rw [execSave, plain_next p]
  exact congrArg _ (if_pos full)

theorem exec_save_ok {s s1 : State} (p : s.noPrefix) (room : ¬ 1024 <<< s.cpu.zsz < 128 * (s.cpu.depth + 1 + 1) + 192)
    (h : (if s.cpu.res = 4 then s.spillOldest else .ok s) = .ok s1) :
    exec .save s = .next ((s1.modCpu (·.saveWindow (s.cpu.depth + 1))).doneHold 0) := by
  show execSave s = _
  rw [execSave, plain_next p]
  simp only [if_neg room, h]
  rfl

theorem exec_save_stopped {s s1 : State} (p : s.noPrefix) (room : ¬ 1024 <<< s.cpu.zsz < 128 * (s.cpu.depth + 1 + 1) + 192)
    (h : (if s.cpu.res = 4 then s.spillOldest else .ok s) = .stopped s1) : exec .save s = .next s1 := by
  show execSave s = _
  rw [execSave, plain_next p]
  simp only [if_neg room, h]

theorem exec_restore_ok {s s1 : State} (p : s.noPrefix) (h : s.readyOlder = .ok s1) :
    exec .restore s = .next ((s1.modCpu Thread.closeWindow).doneHold 0) := by
  show execRestore s = _
  rw [execRestore, plain_next p, h]
  rfl

theorem exec_restore_stopped {s s1 : State} (p : s.noPrefix) (h : s.readyOlder = .stopped s1) : exec .restore s = .next s1 := by
  show execRestore s = _
  rw [execRestore, plain_next p, h]

theorem exec_ret_ok {s s1 : State} {src : Option Found} {is : List Slotted} (p : s.noPrefix) (ht : s.Target (s.rd 31#5) src is)
    (h : s.readyOlder = .ok s1) :
    exec .ret s = .next (s1.jumpTo src is (fun s => s.modCpu Thread.closeWindow) (s.rd 31#5)) := by
  show execRet s = _
  rw [execRet, plain_next p]
  simp only [checkTarget_ok ht, h]

theorem exec_ret_stopped {s s1 : State} {src : Option Found} {is : List Slotted} (p : s.noPrefix) (ht : s.Target (s.rd 31#5) src is)
    (h : s.readyOlder = .stopped s1) : exec .ret s = .next s1 := by
  show execRet s = _
  rw [execRet, plain_next p]
  simp only [checkTarget_ok ht, h]

theorem exec_ret_badTarget {s s1 : State} (p : s.noPrefix) (h : s.checkTarget (s.rd 31#5) = .stopped s1) : exec .ret s = .next s1 := by
  show execRet s = _
  rw [execRet, plain_next p]
  simp only [h]

theorem readyOlder_outermost {s : State} (h : s.cpu.depth = 0) :
    s.readyOlder = .stopped (s.trap 0x13 (word (s.cpu.wptr.toNat % 2 ^ 32))) := by
  have : (s.cpu.wptr.setWidth 32).setWidth 64 = word (s.cpu.wptr.toNat % 2 ^ 32) := by
    apply BitVec.eq_of_toNat_eq
    rw [BitVec.toNat_setWidth, BitVec.toNat_setWidth, word, BitVec.toNat_ofNat]
  rw [State.readyOlder, if_pos h, this]

theorem readyOlder_fillStops {s : State} {va : Word} {f : Found} (hd : s.cpu.depth ≠ 0) (ho : s.cpu.older = [])
    (hf : s.firstStop .read [s.cpu.ssp] = some (va, f)) : s.readyOlder = .stopped (s.spillStop va .read f) := by
  rw [State.readyOlder, if_neg hd, if_pos (by rw [Thread.res, ho]; rfl), State.fillOlder, hf]

/-- What a window that closes leaves, where the instruction completes from `s` at `pc` (R145). -/
structure ClosedWindow (s t : State) (w : Window) (rest : List Window) (pc : Word) : Prop where
  module : t = { s.countRetired with cpu := t.cpu }
  depth : t.cpu.depth = s.cpu.depth - 1
  ssp : t.cpu.ssp = s.cpu.ssp
  older : t.cpu.commit.older = rest
  sts : t.cpu.sts = s.cpu.clearPrefix.sts
  window : ∀ k < 8, t.cpu.settled k = s.cpu.settled k ∧ t.cpu.settled (8 + k) = s.cpu.settled (24 + k) ∧
    t.cpu.settled (16 + k) = (w.l.toList.getD k 0#64).toNat ∧ t.cpu.settled (24 + k) = (w.i.toList.getD k 0#64).toNat
  above : ∀ n, 32 ≤ n → t.cpu.settled n = s.cpu.settled n
  pc : t.cpu.pc = pc

theorem closedWindow {s : State} {w : Window} {rest : List Window} (h : s.cpu.commit.older = w :: rest) (pc : Word) :
    ClosedWindow s ((s.modCpu Thread.closeWindow).doneTo 0 pc) w rest pc := by
  have ne : s.cpu.older ≠ [] := by
    rw [← List.length_pos_iff_ne_nil, ← commit_older_length, h]
    exact Nat.succ_pos _
  obtain ⟨core, -, -, sts, ssp, depth⟩ := closeWindow_keeps s.cpu
  have settled (n : Nat) : ((s.modCpu Thread.closeWindow).doneTo 0 pc).cpu.settled n = s.cpu.commit.closed.reg n := by
    rw [doneTo_settled]
    exact closeWindow_settled ne n
  refine ⟨modCpu_doneTo_module core 0 pc, ?_, ?_, ?_, ?_, fun k hk => ?_, fun n hn => ?_, doneTo_pc _ 0 pc⟩
  · rw [doneTo_depth]; exact depth
  · rw [doneTo_ssp]; exact ssp
  · rw [doneTo_commit_older]
    exact (closeWindow_older ne).trans (by rw [closed_cons h])
  · rw [doneTo_sts, State.modCpu_cpu, Thread.clearPrefix, sts, Thread.clearPrefix]
  · rw [settled, settled, settled, settled]
    exact closed_reg h hk
  · rw [settled]
    exact closed_reg_above h hn

/-- What a window that opens leaves (R144). -/
theorem savedWindow (s1 : State) (d : Nat) (pc : Word) :
    let t := (s1.modCpu (·.saveWindow d)).doneTo 0 pc
    t = { s1.countRetired with cpu := t.cpu } ∧ t.cpu.pc = pc ∧ t.cpu.sts = s1.cpu.clearPrefix.sts ∧
      t.cpu.depth = d ∧ t.cpu.ssp = s1.cpu.ssp ∧
      (∃ w : Window, t.cpu.commit.older = w :: s1.cpu.commit.older ∧
        ∀ k < 8, (w.l.toList.getD k 0#64).toNat = s1.cpu.settled (16 + k) ∧ (w.i.toList.getD k 0#64).toNat = s1.cpu.settled (24 + k)) ∧
      (∀ k < 8, t.cpu.settled k = s1.cpu.settled k ∧ t.cpu.settled (24 + k) = s1.cpu.settled (8 + k) ∧
        t.cpu.settled (8 + k) = 0 ∧ t.cpu.settled (16 + k) = 0) ∧
      ∀ n, 32 ≤ n → t.cpu.settled n = s1.cpu.settled n := by
  intro t
  obtain ⟨core, -, -, sts, ssp, depth⟩ := saveWindow_keeps s1.cpu d
  have settled (n : Nat) : t.cpu.settled n = s1.cpu.commit.opened.reg n := by
    rw [doneTo_settled]
    exact saveWindow_settled s1.cpu d n
  refine ⟨modCpu_doneTo_module (f := (·.saveWindow d)) core 0 pc, doneTo_pc (s1.modCpu (·.saveWindow d)) 0 pc, ?_, ?_, ?_, ⟨windowOf s1.cpu.commit.regs, ?_, fun k hk => ?_⟩, fun k hk => ?_, fun n hn => ?_⟩
  · rw [doneTo_sts, State.modCpu_cpu, Thread.clearPrefix, sts, Thread.clearPrefix]
  · rw [doneTo_depth]; exact depth
  · rw [doneTo_ssp]; exact ssp
  · rw [doneTo_commit_older]
    exact saveWindow_older s1.cpu d
  · exact windowOf_reg _ hk
  · rw [settled, settled, settled, settled]
    exact opened_reg _ hk
  · rw [settled]
    exact opened_reg_above _ hn

theorem holdLine_commit_older (s : State) (la : Word) (src : Option Found) (is : List Slotted) :
    (s.holdLine la src is).cpu.commit.older = s.cpu.commit.older := by
  rw [holdLine_cpu]
  exact s.cpu.over_windows { s.cpu with lines := (s.holdLine la src is).cpu.lines }

/-- Settles O8, by what a window change does to the registers that are in place in the end (`opened_reg`, `closed_reg`). -/
theorem windows : Obligations.Windows := by
  refine ⟨fun s p => ?save, fun s p => ?restore⟩
  case save =>
    have hres (r : Spilled) : (if s.cpu.res = 4 then s.spillOldest else .ok s) = r ↔
        (if s.cpu.older.length = 3 then s.spillOldest else .ok s) = r := by
      rw [if_congr (show s.cpu.res = 4 ↔ s.cpu.older.length = 3 by rw [Thread.res]; omega) rfl rfl]
    have hroom : 1024 <<< s.cpu.zsz < 128 * (s.cpu.depth + 1 + 1) + 192 ↔ 1024 * 2 ^ s.cpu.zsz < 128 * (s.cpu.depth + 2) + 192 := by
      rw [Nat.shiftLeft_eq]
    refine ⟨fun full => ?full, fun s1 room hsp fl => ?ok, fun s1 room h3 hsp => ?stopped⟩
    case full => rw [exec_save_full p (hroom.2 full), Thread.stackTop, Thread.res, Nat.add_sub_add_right]
    case ok =>
      refine ⟨_, exec_save_ok p (by rw [hroom]; omega) ((hres _).2 hsp), ?_⟩
      obtain ⟨-, pc, n, -⟩ := saveWindow_keeps s1.cpu (s.cpu.depth + 1)
      rw [doneHold_eq (u := s1.modCpu (·.saveWindow (s.cpu.depth + 1))) fl pc n]
      exact savedWindow s1 (s.cpu.depth + 1) s1.seqPc
    case stopped => exact exec_save_stopped p (by rw [hroom]; omega) ((hres _).2 ((if_pos h3).trans hsp))
  case restore =>
    refine ⟨fun hd => exec_restore_stopped p (readyOlder_outermost hd),
      fun va f hd ho hf => exec_restore_stopped p (readyOlder_fillStops hd ho hf), fun s1 w rest hr ho fl => ?restored,
      fun s1 w rest src is tgt hr ho k => ?returned, fun src is tgt hd => exec_ret_stopped p tgt (readyOlder_outermost hd),
      fun h => exec_ret_badTarget p (checkTarget_high h), fun h hl => exec_ret_badTarget p (checkTarget_illegal h hl),
      fun c v h hl => exec_ret_badTarget p (checkTarget_trap h hl), fun f h hl => exec_ret_badTarget p (checkTarget_fail h hl),
      fun h hl => exec_ret_badTarget p (checkTarget_conflict h hl),
      fun src is h hl hn => exec_ret_badTarget p (checkTarget_noInstruction h hl hn),
      fun src is va f tgt hd ho hf => exec_ret_stopped p tgt (readyOlder_fillStops hd ho hf)⟩
    case restored =>
      refine ⟨_, exec_restore_ok p hr, ?_⟩
      obtain ⟨-, pc, n, -⟩ := closeWindow_keeps s1.cpu
      rw [doneHold_eq (u := s1.modCpu Thread.closeWindow) fl pc n]
      have c := closedWindow ho s1.seqPc
      exact ⟨⟨c.module, c.depth, c.ssp, c.older, c.sts, c.window, c.above⟩, c.pc⟩
    case returned =>
      refine ⟨_, exec_ret_ok p tgt hr, ?_⟩
      rw [jumpTo_keeps k]
      have c := closedWindow ((holdLine_commit_older s1 (lineAddr (s.rd 31#5)) src is).trans ho) (s.rd 31#5)
      exact ⟨⟨c.module, c.depth, c.ssp, c.older, c.sts, c.window, c.above⟩, c.pc⟩

end Sys2Proof.Machine
end

section

namespace Sys2Proof.Machine

set_option Elab.async false

/-! ### Results of rows 4 to 7 (R155 to R157, R165) -/

/-- An effect on the issuing context that gives register `n` (R59) the value `v` and sets the bits `sets` of STS, and no more. -/
structure State.Results (s u : State) (n : Nat) (sets : Word) (v : Nat) : Prop where
  effect : ∃ f : Thread → Thread, u = s.modCpu f ∧ Effect s.cpu (f s.cpu) [n] sets [] ∧ (f s.cpu).settled n = placeVal n v

theorem produce_settled (t : Thread) (lat n v : Nat) : (t.produce lat n v).settled n = placeVal n v := by
  rw [Thread.settled, Thread.commit_produce, Thread.reg_put_same]

theorem live_settled (t : Thread) (n : Nat) : t.live.settled n = t.settled n := t.over_settled t.live n

theorem results_complete {s u : State} {n v : Nat} {sets : Word} (fl : s.flows) (r : s.Results u n sets v) (h : Nat) :
    Completes s (u.doneHold h) h s.seqPc [n] sets [] ∧ (u.doneHold h).cpu.settled n = placeVal n v := by
  obtain ⟨f, rfl, e, hv⟩ := r
  exact ⟨completes_doneHold fl e h, (doneHold_settled f fl e h n).trans hv⟩

theorem setRLat_results (s : State) (lat : Nat) (d : Reg) (v : Nat) : s.Results (s.setRLat lat d v) d.toNat 0#64 v :=
  ⟨⟨fun t => t.produce lat d.toNat v, rfl, (Effect.refl s.cpu).produce lat d.toNat v, produce_settled _ lat d.toNat v⟩⟩

theorem fpResult_results (s : State) (d : Reg) (r : Nat × FFlags) :
    s.Results (s.fpResult d r) d.toNat (r.2.setWidth 64 <<< 16) r.1 := by
  have e := ((Effect.refl s.cpu).raise r.2).produce 4 d.toNat r.1
  rw [BitVec.zero_or] at e
  exact ⟨fun t => (t.raise r.2).produce 4 d.toNat r.1, rfl, e, produce_settled _ 4 d.toNat r.1⟩

theorem setV_results (s : State) (lat : Nat) (d : VReg) (v : VecReg) : s.Results (s.setV lat d v) (vNum d) 2#64 v.toNat :=
  ⟨fun t => (t.produce lat (vNum d) v.toNat).live, rfl, ((Effect.refl s.cpu).produce lat (vNum d) v.toNat).live,
    (live_settled _ _).trans (produce_settled _ lat (vNum d) v.toNat)⟩

theorem raise_setV_results (s : State) (f : FFlags) (lat : Nat) (d : VReg) (v : VecReg) :
    s.Results ((s.modCpu (fun t => t.raise f)).setV lat d v) (vNum d) ((f.setWidth 64 <<< 16) ||| 2#64) v.toNat := by
  have e := (((Effect.refl s.cpu).raise f).produce lat (vNum d) v.toNat).live
  rw [BitVec.zero_or] at e
  exact ⟨fun t => ((t.raise f).produce lat (vNum d) v.toNat).live, rfl, e,
    (live_settled _ _).trans (produce_settled _ lat (vNum d) v.toNat)⟩

theorem setK_results (s : State) (lat : Nat) (d : KReg) (v : Nat) : s.Results (s.setK lat d v) (kNum d) 2#64 (v % 2 ^ 16) :=
  ⟨fun t => (t.produce lat (kNum d) (v % 2 ^ 16)).live, rfl, ((Effect.refl s.cpu).produce lat (kNum d) (v % 2 ^ 16)).live,
    (live_settled _ _).trans (produce_settled _ lat (kNum d) (v % 2 ^ 16))⟩

theorem raise_setK_results (s : State) (f : FFlags) (lat : Nat) (d : KReg) (v : Nat) :
    s.Results ((s.modCpu (fun t => t.raise f)).setK lat d v) (kNum d) ((f.setWidth 64 <<< 16) ||| 2#64) (v % 2 ^ 16) := by
  have e := (((Effect.refl s.cpu).raise f).produce lat (kNum d) (v % 2 ^ 16)).live
  rw [BitVec.zero_or] at e
  exact ⟨fun t => ((t.raise f).produce lat (kNum d) (v % 2 ^ 16)).live, rfl, e,
    (live_settled _ _).trans (produce_settled _ lat (kNum d) (v % 2 ^ 16))⟩

theorem placeVal_scalar (d : Reg) (v : Nat) : placeVal d.toNat v = if d = 0#5 then 0 else v % 2 ^ 64 := by
  rw [placeVal, if_pos d.isLt]
  exact if_congr (BitVec.toNat_eq (x := d) (y := 0#5)).symm rfl rfl

theorem placeVal_vector (d : VReg) (v : Nat) : placeVal (vNum d) v = v % 2 ^ 512 := by
  have : vNum d < 40 := by have := d.isLt; rw [vNum]; omega
  rw [placeVal, if_neg (by rw [vNum]; omega), if_neg (by rw [vNum]; omega), if_pos this]

theorem placeVal_mask (d : KReg) (v : Nat) : placeVal (kNum d) v = v % 2 ^ 16 := by
  have : kNum d < 44 := by have := d.isLt; rw [kNum]; omega
  rw [placeVal, if_neg (by rw [kNum]; omega), if_neg (by rw [kNum]; omega), if_neg (by rw [kNum]; omega), if_pos this]

/-! ### Row 4 (R168 to R170) -/

theorem float_next {s : State} (p : s.noPrefix) {d : Reg} {h : Nat} {r : Nat × FFlags} (w : State → Nat × FFlags) (e : w s = r) :
    plain s (fun s => (s.fpResult d (w s)).doneHold h) = .next ((s.fpResult d r).doneHold h) := by
  rw [plain_next p, e]

theorem floatDone_next {s : State} (p : s.noPrefix) {d : Reg} {r : Nat × FFlags} (w : State → Nat × FFlags) (e : w s = r) :
    plain s (fun s => (s.fpResult d (w s)).done) = .next ((s.fpResult d r).doneHold 0) := float_next p w e

/-- The sign bit of a format over a magnitude (R170). -/
theorem zero_add_mag (f : FFmt) (b : Bool) (m : Nat) : f.zero b + m % 2 ^ (f.ebits + f.mbits) =
    if b then m % 2 ^ (f.bits - 1) + 2 ^ (f.bits - 1) else m % 2 ^ (f.bits - 1) := by
  have : f.bits - 1 = f.ebits + f.mbits := by rw [FFmt.bits]; omega
  rw [this, FFmt.zero, Nat.shiftLeft_eq]
  cases b
  · rw [boolNat, if_neg Bool.false_ne_true, if_neg Bool.false_ne_true, Nat.zero_mul, Nat.zero_add]
  · rw [boolNat, if_pos rfl, if_pos rfl, Nat.one_mul, Nat.add_comm]

theorem exec_float {s : State} {i : Instr} {d : Reg} {r : Nat × FFlags} {h : Nat} (p : s.noPrefix)
    (hr : floatResult s i = some (d, r, h)) : exec i s = .next ((s.fpResult d r).doneHold h) := by
  cases i
  case fadd => cases hr; show execFadd _ _ _ _ _ s = _; exact floatDone_next p _ rfl
  case fsub => cases hr; show execFsub _ _ _ _ _ s = _; exact floatDone_next p _ rfl
  case fmul => cases hr; show execFmul _ _ _ _ _ s = _; exact floatDone_next p _ rfl
  case ffma => cases hr; show execFfma _ _ _ _ _ s = _; exact floatDone_next p _ rfl
  case fdiv q _ _ _ => cases q <;> cases hr <;> (show execFdiv _ _ _ _ _ s = _; exact float_next p _ rfl)
  case fsqrt q _ _ => cases q <;> cases hr <;> (show execFsqrt _ _ _ _ s = _; exact float_next p _ rfl)
  case fmin => cases hr; show execFmin _ _ _ _ s = _; exact floatDone_next p _ rfl
  case fmax => cases hr; show execFmax _ _ _ _ s = _; exact floatDone_next p _ rfl
  case fcmp => cases hr; show execFcmp _ _ _ _ _ s = _; exact floatDone_next p _ rfl
  case fcvt => cases hr; show execFcvt _ _ _ s = _; exact floatDone_next p _ rfl
  case fsgn op _ _ a b =>
    cases op
    case cpy => cases hr; show execFsgn _ _ _ _ _ s = _; exact floatDone_next p _ (congrArg (·, 0#5) (zero_add_mag _ _ _))
    case ncpy =>
      cases hr
      show execFsgn _ _ _ _ _ s = _
      refine floatDone_next p _ (congrArg (·, 0#5) ((zero_add_mag _ _ _).trans ?_))
      cases (precFmt _).sign (s.fpRd _ b) <;> rfl
    case xsg =>
      cases hr
      show execFsgn _ _ _ _ _ s = _
      refine floatDone_next p _ (congrArg (·, 0#5) ((zero_add_mag _ _ _).trans ?_))
      cases (precFmt _).sign (s.fpRd _ a) <;> cases (precFmt _).sign (s.fpRd _ b) <;> rfl
  case fcls => cases hr; show execFcls _ _ _ s = _; exact floatDone_next p _ rfl
  all_goals exact none_ne_some hr

/-- Settles O9, by the result that each form of row 4 gives (`exec_float`). -/
theorem floatResults : Obligations.FloatResults := by
  intro s i d r h p fl hr
  have c := results_complete fl (fpResult_results s d r) h
  exact ⟨_, exec_float p hr, c.1, c.2.trans (placeVal_scalar d r.1)⟩

/-! ### The forms that write a scalar register (R161, R171, R174) -/

theorem lane_eq (s : State) (w : Nat) (v : VReg) (i : Nat) : lane w (s.vrd v) i = s.lane w v i := by
  rw [lane, State.lane, Nat.shiftRight_eq_div_pow]

theorem lanes_eq (s : State) (w n : Nat) (v : VReg) : lanes w n (s.vrd v) = (List.range n).map (s.lane w v) :=
  List.map_congr_left fun i _ => lane_eq s w v i

theorem srcLanes_eq (s : State) (w : Bool) (v : VReg) : s.srcLanes w v = (List.range (laneCount w)).map (s.lane (laneBits w) v) :=
  lanes_eq s _ _ v

theorem setRLat_lane_results (s : State) (d : Reg) {v v' : Nat} (e : v = v') :
    s.Results (s.setRLat 2 d v) d.toNat ((0#5).setWidth 64 <<< 16) v' := e ▸ setRLat_results s 2 d v

theorem exec_vectorScalar {s : State} {i : Instr} {d : Reg} {r : Nat × FFlags} {h : Nat} (p : s.noPrefix)
    (b : isUtell s.cpu.core = false) (hr : vectorScalar s i = some (d, r, h)) :
    ∃ u, exec i s = .next (u.doneHold h) ∧ s.Results u d.toNat (r.2.setWidth 64 <<< 16) r.1 := by
  cases i
  case vextr w _ a j =>
    cases hr
    refine ⟨_, ?_, setRLat_lane_results s _ (lane_eq s (laneBits w) a ((s.rd j).toNat % laneCount w))⟩
    show execVextr _ _ _ _ s = _
    rw [execVextr, onBarrel_next p b, State.done]
  case vextrImm w _ a j =>
    change ite _ _ none = _ at hr
    split at hr
    next hj =>
      cases hr
      refine ⟨_, ?_, setRLat_lane_results s _ (lane_eq s (laneBits w) a j.toNat)⟩
      show execVextrImm _ _ _ _ s = _
      rw [execVextrImm, onBarrel_next p b, if_pos hj, State.done]
    next => cases hr
  case vfred =>
    cases hr
    refine ⟨_, ?_, fpResult_results s _ _⟩
    show execVfred _ _ _ _ s = _
    rw [execVfred, onBarrel_next p b, srcLanes_eq]
  case kmovTx a =>
    cases hr
    refine ⟨_, ?_, setRLat_lane_results s _ (rfl : (s.krd a).toNat = _)⟩
    show execKmovTx _ _ s = _
    rw [execKmovTx, onBarrel_next p b, State.done]
  all_goals exact none_ne_some hr

/-- Settles O13, by the result that each form gives (`exec_vectorScalar`). -/
theorem vectorScalars : Obligations.VectorScalars := by
  intro s i d r h p b fl hr
  obtain ⟨u, hexec, hu⟩ := exec_vectorScalar p b hr
  have c := results_complete fl hu h
  exact ⟨_, hexec, c.1, c.2.trans (placeVal_scalar d r.1)⟩

/-! ### The forms that write a mask register (R160, R161, R167) -/

theorem testBit_packNat_one (l : List Nat) (i : Nat) : (packNat 1 l).testBit i = decide (l.getD i 0 % 2 = 1) := by
  induction l generalizing i with
  | nil => simp [packNat]
  | cons x xs ih =>
    rw [packNat, Nat.shiftLeft_eq, pow_one, Nat.mul_comm, Nat.add_comm]
    cases i with
    | zero => 
      rw [Nat.testBit_zero, Nat.mul_add_mod, Nat.mod_mod, List.getD_cons_zero]
    | succ i =>
      rw [Nat.testBit_succ, List.getD_cons_succ, ← ih]
      congr 1
      omega

theorem zipWith_range {α β γ : Type} (op : α → β → γ) (f : Nat → α) (g : Nat → β) (n : Nat) :
    List.zipWith op ((List.range n).map f) ((List.range n).map g) = (List.range n).map (fun i => op (f i) (g i)) := by
  rw [List.zipWith_map, List.zipWith_self]

theorem getD_map_range {α : Type} (f : Nat → α) (z : α) (n i : Nat) : ((List.range n).map f).getD i z = if i < n then f i else z := by
  rw [List.getD_eq_getElem?_getD, List.getElem?_map]
  split
  next h => rw [List.getElem?_range h]; rfl
  next h => rw [List.getElem?_eq_none (by simpa using h)]; rfl

/-- A mask register's value has the bits `f` from bit 0 on. -/
def MaskBits (v : Nat) (f : Nat → Bool) : Prop := ∀ b < 16, (v % 2 ^ 16).testBit b = f b

theorem maskBits_toNat (k : Mask) : MaskBits k.toNat k.getLsbD := fun b hb => by
  rw [Nat.testBit_mod_two_pow, decide_eq_true hb, Bool.true_and, BitVec.getLsbD]

theorem testBit_packNat_bools (f : Nat → Bool) (n i : Nat) :
    (packNat 1 ((List.range n).map (fun j => boolNat (f j)))).testBit i = (decide (i < n) && f i) := by
  rw [testBit_packNat_one, getD_map_range]
  by_cases h : i < n
  · rw [if_pos h, decide_eq_true h, Bool.true_and]
    cases f i <;> rfl
  · rw [if_neg h, decide_eq_false h, Bool.false_and]
    rfl

/-- The operation of `KAND` on two masks (R160). -/
def kandMask (op : LogOp) (x y : Mask) : Mask :=
  match op with
  | .and => x &&& y
  | .or => x ||| y
  | .xor => x ^^^ y
  | .andn => x &&& ~~~y

theorem exec_kand {s : State} (p : s.noPrefix) (b : isUtell s.cpu.core = false) (op : LogOp) (d x y : KReg) :
    exec (.kand op d x y) s = .next ((s.setK 2 d (kandMask op (s.krd x) (s.krd y)).toNat).doneHold 0) := by
  show execKand op d x y s = _
  rw [execKand, onBarrel_next p b]
  cases op <;> rfl

theorem kand_bits {s : State} {op : LogOp} {d d' x y : KReg} {f : Nat → Bool} {fl : FFlags}
    (hr : maskResult s (.kand op d x y) = some (d', f, fl)) :
    d' = d ∧ fl = 0#5 ∧ MaskBits (kandMask op (s.krd x) (s.krd y)).toNat f := by
  cases op
  case and =>
    cases hr
    exact ⟨rfl, rfl, fun k hk => (maskBits_toNat _ k hk).trans BitVec.getLsbD_and⟩
  case or =>
    cases hr
    exact ⟨rfl, rfl, fun k hk => (maskBits_toNat _ k hk).trans BitVec.getLsbD_or⟩
  case xor =>
    cases hr
    exact ⟨rfl, rfl, fun k hk => (maskBits_toNat _ k hk).trans BitVec.getLsbD_xor⟩
  case andn =>
    cases hr
    refine ⟨rfl, rfl, fun k hk => (maskBits_toNat _ k hk).trans ?_⟩
    rw [kandMask, BitVec.getLsbD_and, BitVec.getLsbD_not, decide_eq_true hk, Bool.true_and]

theorem exec_mask {s : State} {i : Instr} {d : KReg} {f : Nat → Bool} {fl : FFlags} (p : s.noPrefix)
    (b : isUtell s.cpu.core = false) (hr : maskResult s i = some (d, f, fl)) :
    ∃ u v, exec i s = .next (u.doneHold 0) ∧ s.Results u (kNum d) ((fl.setWidth 64 <<< 16) ||| 2#64) (v % 2 ^ 16) ∧ MaskBits v f := by
  have noFlags (d : KReg) (v : Nat) : s.Results (s.setK 2 d v) (kNum d) (((0#5).setWidth 64 <<< 16) ||| 2#64) (v % 2 ^ 16) :=
    setK_results s 2 d v
  cases i
  case vfcmp c w _ x y =>
    cases hr
    refine ⟨_, packNat 1 ((List.range (laneCount w)).map (fun i => boolNat
      ((laneFmt w).cmp c.toCode.toNat (s.lane (laneBits w) x i) (s.lane (laneBits w) y i)).1)), ?_, raise_setK_results s _ 4 _ _, ?_⟩
    · show execVfcmp _ _ _ _ _ s = _
      rw [execVfcmp, onBarrel_next p b, srcLanes_eq, srcLanes_eq, zipWith_range]
      simp only [List.map_map, flagsOf, List.foldl_map]
      rfl
    · intro k hk
      rw [Nat.testBit_mod_two_pow, decide_eq_true hk, Bool.true_and]
      exact testBit_packNat_bools _ _ _
  case kand op _ x y =>
    obtain ⟨rfl, rfl, hb⟩ := kand_bits hr
    exact ⟨_, _, exec_kand p b op d x y, noFlags d _, hb⟩
  case kmov a =>
    cases hr
    refine ⟨_, _, ?_, noFlags _ _, maskBits_toNat (s.krd a)⟩
    show execKmov _ _ s = _
    rw [execKmov, onBarrel_next p b, State.done]
  case kmovFx a =>
    cases hr
    refine ⟨_, _, ?_, noFlags _ ((s.rd a).toNat % 2 ^ 16), fun k hk => ?_⟩
    · show execKmovFx _ _ s = _
      rw [execKmovFx, onBarrel_next p b, State.done]
    · rw [Nat.mod_mod, Nat.testBit_mod_two_pow, decide_eq_true hk, Bool.true_and]
      rfl
  all_goals exact none_ne_some hr

/-- Settles O14, by the result that each form gives (`exec_mask`). -/
theorem maskResults : Obligations.MaskResults := by
  intro s i d f fl p b flows hr
  obtain ⟨u, v, hexec, hu, hv⟩ := exec_mask p b hr
  have c := results_complete flows hu 0
  refine ⟨_, hexec, c.1, fun k hk => ?_⟩
  rw [c.2, placeVal_mask, Nat.mod_mod]
  exact hv k hk

end Sys2Proof.Machine
end

section

namespace Sys2Proof.Machine

set_option Elab.async false

/-! ### Vector registers lane by lane (R154 to R156) -/

theorem packNat_cons (w x : Nat) (xs : List Nat) : packNat w (x :: xs) = 2 ^ w * packNat w xs + x % 2 ^ w := by
  rw [packNat, Nat.shiftLeft_eq, Nat.mul_comm, Nat.add_comm]

theorem packNat_lt (w : Nat) (l : List Nat) : packNat w l < 2 ^ (w * l.length) := by
  induction l with
  | nil => exact Nat.one_pos
  | cons x xs ih =>
    have hx : x % 2 ^ w < 2 ^ w := Nat.mod_lt _ (by positivity)
    rw [packNat_cons, List.length_cons, Nat.mul_succ, Nat.add_comm (w * _), pow_add]
    calc 2 ^ w * packNat w xs + x % 2 ^ w < 2 ^ w * packNat w xs + 2 ^ w := by omega
      _ = 2 ^ w * (packNat w xs + 1) := (Nat.mul_succ ..).symm
      _ ≤ 2 ^ w * 2 ^ (w * xs.length) := Nat.mul_le_mul_left _ ih

theorem packNat_lane (w : Nat) (l : List Nat) (i : Nat) : packNat w l / 2 ^ (w * i) % 2 ^ w = l.getD i 0 % 2 ^ w := by
  induction l generalizing i with
  | nil => simp [packNat]
  | cons x xs ih =>
    have hx : x % 2 ^ w < 2 ^ w := Nat.mod_lt _ (by positivity)
    rw [packNat_cons]
    cases i with
    | zero => rw [Nat.mul_zero, pow_zero, Nat.div_one, Nat.mul_add_mod, Nat.mod_mod, List.getD_cons_zero]
    | succ i =>
      rw [Nat.mul_succ, Nat.add_comm (w * i), pow_add, ← Nat.div_div_eq_div_mul, Nat.mul_add_div (by positivity),
        Nat.div_eq_of_lt hx, Nat.add_zero, ih, List.getD_cons_succ]

theorem laneBits_laneCount (wide : Bool) : laneBits wide * laneCount wide = 512 := by cases wide <;> rfl

theorem laneBits_pos (wide : Bool) : 1 ≤ laneBits wide := by cases wide <;> decide

theorem lane_lt (s : State) (w : Nat) (v : VReg) (i : Nat) : s.lane w v i < 2 ^ w := Nat.mod_lt _ (by positivity)

/-- Lane `j` of a register packed from the lanes that `g` gives. -/
theorem packLanes_lane (wide : Bool) (g : Nat → Nat) {j : Nat} (h : j < laneCount wide) :
    (packLanes (laneBits wide) ((List.range (laneCount wide)).map g)).toNat % 2 ^ 512 / 2 ^ (laneBits wide * j) % 2 ^ laneBits wide =
      g j % 2 ^ laneBits wide := by
  have hlt := packNat_lt (laneBits wide) ((List.range (laneCount wide)).map g)
  rw [List.length_map, List.length_range, laneBits_laneCount] at hlt
  rw [packLanes, BitVec.toNat_ofNat, Nat.mod_mod, Nat.mod_eq_of_lt hlt, packNat_lane, getD_map_range, if_pos h]

theorem active_iff (s : State) (m : VecM) (i : Nat) : s.active m i = true ↔ s.writes m i := by
  rw [State.active, State.writes]
  cases m.mask <;> simp

/-- What the lanes of a merged result are, in the terms of the specification (R156). -/
def LanesGive (s : State) (m : VecM) (d : VReg) (f : Nat → Nat) (v : Nat) : Prop :=
  ∀ j < laneCount m.wide, (s.writes m j → v / 2 ^ (laneBits m.wide * j) % 2 ^ laneBits m.wide = f j % 2 ^ laneBits m.wide) ∧
    (¬ s.writes m j → v / 2 ^ (laneBits m.wide * j) % 2 ^ laneBits m.wide = s.lane (laneBits m.wide) d j)

theorem merge_lanes {s : State} {m : VecM} {d : VReg} {f g : Nat → Nat} (h : ∀ j, g j % 2 ^ laneBits m.wide = f j % 2 ^ laneBits m.wide) :
    LanesGive s m d f ((s.merge m d ((List.range (laneCount m.wide)).map g)).toNat % 2 ^ 512) := by
  intro j hj
  rw [State.merge, packLanes_lane _ _ hj, getD_map_range, if_pos hj, ← active_iff]
  refine ⟨fun a => by rw [if_pos a, h], fun a => ?_⟩
  rw [if_neg a, lane_eq, Nat.mod_eq_of_lt (lane_lt s _ d j)]

theorem allLanes {s : State} {wide : Bool} {d : VReg} {f g : Nat → Nat}
    (h : ∀ j < laneCount wide, g j % 2 ^ laneBits wide = f j % 2 ^ laneBits wide) :
    LanesGive s ⟨wide, none⟩ d f ((packLanes (laneBits wide) ((List.range (laneCount wide)).map g)).toNat % 2 ^ 512) := by
  intro j hj
  exact ⟨fun _ => (packLanes_lane wide g hj).trans (h j hj), fun a => absurd (fun _ e => by cases e) a⟩

/-! ### Row 5 (R171) -/

theorem vecBinary_eq (op : Nat → Nat → Nat → Nat) (m : VecM) (d a b : VReg) (s : State) : vecBinary op m d a b s =
    (s.setV 2 d (s.merge m d ((List.range (laneCount m.wide)).map (fun i => op (laneBits m.wide) (s.lane (laneBits m.wide) a i)
      (s.lane (laneBits m.wide) b i))))).doneHold 0 := by
  rw [vecBinary, srcLanes_eq, srcLanes_eq, zipWith_range]
  rfl

/-- A lane-wise form of row 5 with two vector sources. -/
theorem vecBinary_next {s : State} (p : s.noPrefix) (b : isUtell s.cpu.core = false) {op : Nat → Nat → Nat → Nat} {m : VecM}
    {d x y : VReg} {f : Nat → Nat}
    (h : ∀ i, op (laneBits m.wide) (s.lane (laneBits m.wide) x i) (s.lane (laneBits m.wide) y i) % 2 ^ laneBits m.wide =
      f i % 2 ^ laneBits m.wide) :
    ∃ v, onBarrel s (vecBinary op m d x y) = .next ((s.setV 2 d v).doneHold 0) ∧ LanesGive s m d f (v.toNat % 2 ^ 512) := by
  refine ⟨_, ?_, merge_lanes h⟩
  rw [onBarrel_next p b, vecBinary_eq]

theorem rot_lane {w x n : Nat} (hx : x < 2 ^ w) (hn : n < w) : x <<< n ||| x >>> (w - n) = x * 2 ^ n + x / 2 ^ (w - n) := by
  have hlo : x / 2 ^ (w - n) < 2 ^ n := by
    rw [Nat.div_lt_iff_lt_mul (by positivity), ← pow_add, Nat.add_sub_cancel' hn.le]
    exact hx
  rw [Nat.shiftLeft_eq, Nat.shiftRight_eq_div_pow, Nat.mul_comm, ← Nat.two_pow_add_eq_or_of_lt hlo]

theorem sar_lane {w : Nat} (hw : 1 ≤ w) (x n : Nat) :
    ofSigned w (toSigned w x / (2 ^ n : Nat)) = (signedOf w x / 2 ^ n % 2 ^ w).toNat := by
  rw [ofSigned, toSigned_eq hw]
  push_cast
  rfl

theorem laneMinmax_min (w x y : Nat) : laneMinmax false true w x y = min x y := by
  simp only [laneMinmax, if_true, Bool.bne_false, decide_eq_true_eq]
  split <;> omega

theorem laneMinmax_max (w x y : Nat) : laneMinmax true true w x y = max x y := by
  simp only [laneMinmax, if_true, Bool.bne_true, Bool.not_eq_true', decide_eq_false_iff_not]
  split <;> omega

theorem laneMinmax_min_signed {w : Nat} (hw : 1 ≤ w) (x y : Nat) :
    laneMinmax false false w x y = if signedOf w x < signedOf w y then x else y := by
  simp only [laneMinmax, Bool.false_eq_true, if_false, Bool.bne_false, decide_eq_true_eq, toSigned_eq hw]

theorem laneMinmax_max_signed {w : Nat} (hw : 1 ≤ w) (x y : Nat) :
    laneMinmax true false w x y = if signedOf w x < signedOf w y then y else x := by
  simp only [laneMinmax, Bool.false_eq_true, if_false, Bool.bne_true, Bool.not_eq_true', decide_eq_false_iff_not, toSigned_eq hw,
    ite_not]

theorem exec_vectorLane {s : State} {i : Instr} {m : VecM} {d : VReg} {f : Nat → Nat} (p : s.noPrefix)
    (b : isUtell s.cpu.core = false) (hr : vectorLane s i = some (m, d, f)) :
    ∃ v, exec i s = .next ((s.setV 2 d v).doneHold 0) ∧ LanesGive s m d f (v.toNat % 2 ^ 512) := by
  cases i
  case vadd => cases hr; exact vecBinary_next (op := fun _ x y => x + y) p b fun _ => rfl
  case vsub => cases hr; exact vecBinary_next (op := fun w x y => x + 2 ^ w - y) p b fun _ => by rw [Nat.add_comm]
  case vmul => cases hr; exact vecBinary_next (op := fun _ x y => x * y) p b fun _ => rfl
  case vand => cases hr; exact vecBinary_next (op := fun _ x y => x &&& y) p b fun _ => rfl
  case vor => cases hr; exact vecBinary_next (op := fun _ x y => x ||| y) p b fun _ => rfl
  case vxor => cases hr; exact vecBinary_next (op := fun _ x y => x ^^^ y) p b fun _ => rfl
  case vshift op w _ x y =>
    cases op
    case shl =>
      cases hr
      exact vecBinary_next (op := laneShift .shl) p b fun _ => by rw [laneShift, Nat.shiftLeft_eq]
    case shr =>
      cases hr
      exact vecBinary_next (op := laneShift .shr) p b fun _ => by rw [laneShift, Nat.shiftRight_eq_div_pow]
    case sar =>
      cases hr
      exact vecBinary_next (op := laneShift .sar) p b fun _ => by rw [laneShift, sar_lane (laneBits_pos w)]
    case rot =>
      cases hr
      exact vecBinary_next (op := laneShift .rot) p b fun _ => by
        rw [laneShift, rot_lane (lane_lt s _ _ _) (Nat.mod_lt _ (laneBits_pos w))]
  case vminmax isMax us w _ x y =>
    cases isMax <;> cases us
    case false.false => cases hr; exact vecBinary_next (op := laneMinmax false false) p b fun _ => by rw [laneMinmax_min_signed (laneBits_pos w)]
    case false.true => cases hr; exact vecBinary_next (op := laneMinmax false true) p b fun _ => by rw [laneMinmax_min]
    case true.false => cases hr; exact vecBinary_next (op := laneMinmax true false) p b fun _ => by rw [laneMinmax_max_signed (laneBits_pos w)]
    case true.true => cases hr; exact vecBinary_next (op := laneMinmax true true) p b fun _ => by rw [laneMinmax_max]
  case vsel w k _ x y =>
    cases hr
    refine ⟨_, ?_, allLanes fun j _ => (rfl : (if (s.krd k).getLsbD j then s.lane (laneBits w) x j else s.lane (laneBits w) y j) % _ = _)⟩
    show execVsel _ _ _ _ _ s = _
    rw [execVsel, onBarrel_next p b]
    simp only [lane_eq, State.done]
  case vbcast w _ x =>
    cases hr
    refine ⟨_, ?_, allLanes fun j _ => (rfl : (s.rd x).toNat % _ = _)⟩
    show execVbcast _ _ _ s = _
    rw [execVbcast, onBarrel_next p b, List.map_const', List.length_range, State.done]
  case vperm w _ x y =>
    cases hr
    refine ⟨_, ?_, allLanes fun j _ => (rfl : s.lane (laneBits w) x (s.lane (laneBits w) y j % laneCount w) % _ = _)⟩
    show execVperm _ _ _ _ s = _
    rw [execVperm, onBarrel_next p b]
    simp only [srcLanes_eq, List.map_map, lane_eq, State.done]
    rfl
  all_goals exact none_ne_some hr

/-- Settles O10, by the lanes that each form of row 5 gives (`exec_vectorLane`). -/
theorem vectorIntegerLanes : Obligations.VectorIntegerLanes := by
  intro s i m d f p b fl hr
  obtain ⟨v, hexec, hv⟩ := exec_vectorLane p b hr
  have c := results_complete fl (setV_results s 2 d v) 0
  refine ⟨_, hexec, c.1, ?_⟩
  rw [c.2, placeVal_vector]
  exact hv

/-! ### The lane-wise forms of rows 6 and 7 (R165, R172, R173, R200) -/

/-- The OR of the flags of the lanes that an operation writes. -/
def State.activeFlags (s : State) (m : VecM) (r : Nat → Nat × FFlags) : FFlags :=
  (((List.range (laneCount m.wide)).map r).zipIdx.filter (fun x => s.active m x.2)).foldl (fun acc x => acc ||| x.1.2) 0#5

theorem getLsbD_foldl_or {α : Type} (g : α → FFlags) (l : List α) (z : FFlags) (b : Nat) :
    (l.foldl (fun acc x => acc ||| g x) z).getLsbD b = true ↔ z.getLsbD b = true ∨ ∃ x ∈ l, (g x).getLsbD b = true := by
  induction l generalizing z with
  | nil => simp
  | cons x xs ih => 
    rw [List.foldl_cons, ih, BitVec.getLsbD_or, Bool.or_eq_true]
    simp only [List.mem_cons, exists_eq_or_imp, or_assoc]

theorem activeFlags_iff (s : State) (m : VecM) (r : Nat → Nat × FFlags) (b : Nat) : (s.activeFlags m r).getLsbD b = true ↔
    ∃ j < laneCount m.wide, s.writes m j ∧ (r j).2.getLsbD b = true := by
  rw [State.activeFlags, getLsbD_foldl_or (fun x : (Nat × FFlags) × Nat => x.1.2), BitVec.getLsbD_zero]
  constructor
  · rintro (h | ⟨⟨x, j⟩, hx, hb⟩)
    · cases h
    · obtain ⟨hm, ha⟩ := List.mem_filter.1 hx
      obtain ⟨hj, hx⟩ := List.mem_zipIdx' hm
      rw [List.getElem_map, List.getElem_range] at hx
      refine ⟨j, by simpa using hj, (active_iff s m j).1 ha, ?_⟩
      rw [← hx]
      exact hb
  · rintro ⟨j, hj, hw, hb⟩
    refine .inr ⟨(r j, j), List.mem_filter.2 ⟨?_, (active_iff s m j).2 hw⟩, hb⟩
    rw [List.mk_mem_zipIdx_iff_getElem?, List.getElem?_map, List.getElem?_range hj]
    rfl

theorem vecFloat_eq (m : VecM) (d : VReg) (r : Nat → Nat × FFlags) (h : Nat) (s : State) :
    vecFloat m d ((List.range (laneCount m.wide)).map r) h s = ((s.modCpu (fun t => t.raise (s.activeFlags m r))).setV 4 d
      (s.merge m d ((List.range (laneCount m.wide)).map (fun i => (r i).1)))).doneHold h := by
  rw [vecFloat, List.map_map]
  rfl

/-- A lane-wise form of rows 6 and 7 with the results `r` of its lanes. -/
theorem vecFloat_next {s : State} (p : s.noPrefix) (b : isUtell s.cpu.core = false) {m : VecM} {d : VReg} {h : Nat}
    (rs : State → List (Nat × FFlags)) {r : Nat → Nat × FFlags} (hr : rs s = (List.range (laneCount m.wide)).map r) :
    onBarrel s (fun s => vecFloat m d (rs s) h s) = .next (((s.modCpu (fun t => t.raise (s.activeFlags m r))).setV 4 d
      (s.merge m d ((List.range (laneCount m.wide)).map (fun i => (r i).1)))).doneHold h) := by
  rw [onBarrel_next p b, hr, vecFloat_eq]

theorem srcLanes_map (s : State) (w : Bool) (a : VReg) (op : Nat → Nat × FFlags) :
    (s.srcLanes w a).map op = (List.range (laneCount w)).map (fun i => op (s.lane (laneBits w) a i)) := by
  rw [srcLanes_eq, List.map_map]
  rfl

theorem srcLanes_zipWith (s : State) (w : Bool) (a b : VReg) (op : Nat → Nat → Nat × FFlags) :
    List.zipWith op (s.srcLanes w a) (s.srcLanes w b) =
      (List.range (laneCount w)).map (fun i => op (s.lane (laneBits w) a i) (s.lane (laneBits w) b i)) := by
  rw [srcLanes_eq, srcLanes_eq, zipWith_range]

theorem srcLanes_zipWith_zip (s : State) (w : Bool) (a b c : VReg) (op : Nat → Nat × Nat → Nat × FFlags) :
    List.zipWith op (s.srcLanes w a) (List.zip (s.srcLanes w b) (s.srcLanes w c)) = (List.range (laneCount w)).map
      (fun i => op (s.lane (laneBits w) a i) (s.lane (laneBits w) b i, s.lane (laneBits w) c i)) := by
  rw [srcLanes_eq, srcLanes_eq, srcLanes_eq, List.zip, zipWith_range, zipWith_range]

theorem exec_vectorFloatLane {s : State} {i : Instr} {m : VecM} {d : VReg} {f : Nat → Nat × FFlags} {h : Nat} (p : s.noPrefix)
    (b : isUtell s.cpu.core = false) (hr : vectorFloatLane s i = some (m, d, f, h)) :
    exec i s = .next (((s.modCpu (fun t => t.raise (s.activeFlags m f))).setV 4 d
      (s.merge m d ((List.range (laneCount m.wide)).map (fun i => (f i).1)))).doneHold h) := by
  cases i
  case vfadd => cases hr; show execVfadd _ _ _ _ s = _; exact vecFloat_next p b _ (srcLanes_zipWith ..)
  case vfsub => cases hr; show execVfsub _ _ _ _ s = _; exact vecFloat_next p b _ (srcLanes_zipWith ..)
  case vfmul => cases hr; show execVfmul _ _ _ _ s = _; exact vecFloat_next p b _ (srcLanes_zipWith ..)
  case vffma => cases hr; show execVffma _ _ _ _ s = _; exact vecFloat_next p b _ (srcLanes_zipWith_zip ..)
  case vfmin => cases hr; show execVfmin _ _ _ _ s = _; exact vecFloat_next p b _ (srcLanes_zipWith ..)
  case vfmax => cases hr; show execVfmax _ _ _ _ s = _; exact vecFloat_next p b _ (srcLanes_zipWith ..)
  case vfrcp => cases hr; show execVfrcp _ _ _ s = _; exact vecFloat_next p b _ (srcLanes_map ..)
  case vfrsq => cases hr; show execVfrsq _ _ _ s = _; exact vecFloat_next p b _ (srcLanes_map ..)
  case vfexp => cases hr; show execVfexp _ _ _ s = _; exact vecFloat_next p b _ (srcLanes_map ..)
  case vscale m _ _ _ =>
    cases hr
    show execVscale _ _ _ _ s = _
    refine vecFloat_next p b _ ((srcLanes_zipWith ..).trans ?_)
    simp only [toSigned_eq (laneBits_pos m.wide)]
  case vclamp => cases hr; show execVclamp _ _ _ _ s = _; exact vecFloat_next p b _ (srcLanes_zipWith ..)
  all_goals exact none_ne_some hr

/-- Settles O11, by the lanes and the flags that each form gives (`exec_vectorFloatLane`). -/
theorem vectorFloatLanes : Obligations.VectorFloatLanes := by
  intro s i m d f h p b fl hr
  have c := results_complete fl (raise_setV_results s (s.activeFlags m f) 4 d
    (s.merge m d ((List.range (laneCount m.wide)).map (fun i => (f i).1)))) h
  refine ⟨_, s.activeFlags m f, exec_vectorFloatLane p b hr, c.1, fun k _ => activeFlags_iff s m f k, ?_⟩
  rw [c.2, placeVal_vector]
  exact merge_lanes fun _ => rfl

/-! ### The other forms that write a vector register (R175, R198, R199, R201) -/

theorem flagsOf_eq (l : List (Nat × FFlags)) : orFlags (l.map (·.2)) = flagsOf l := by
  rw [orFlags, flagsOf, List.foldl_map]

theorem flagsOf_none {α : Type} (l : List α) (g : α → Nat) : flagsOf (l.map (fun x => (g x, 0#5))) = 0#5 := by
  rw [flagsOf, List.foldl_map]
  induction l with
  | nil => rfl
  | cons x xs ih =>
    rw [List.foldl_cons, BitVec.or_zero]
    exact ih

theorem quantise32_length (f : Fp8) (q B : Nat) (X0 : Option Nat) (xs : List Nat) : (quantise32 f q B X0 xs).2.1.length = xs.length := by
  unfold quantise32
  dsimp only
  split
  · exact List.length_map _
  · rw [List.length_map, List.length_map]
    split_ifs <;> exact List.length_map _

/-- The sixteen words of `VRNG` (R175). -/
theorem rng_words (a b : Word) :
    ((List.range 4).flatMap (fun q => (List.range 4).map (fun j => (philox a b (word q) >>> (32 * j)) % 2 ^ 32))) =
      (List.range 16).map (fun i => philox a b (word (i / 4)) / 2 ^ (32 * (i % 4)) % 2 ^ 32) := by
  simp only [Nat.shiftRight_eq_div_pow]
  rfl

theorem zip_scale (ys : List Nat) (x : Nat) (f : FFlags) (h : ys.length = 32) :
    ((ys ++ [x]).zip (f :: List.replicate 32 0#5)).map (·.1) = ys ++ [x] ∧
      flagsOf ((ys ++ [x]).zip (f :: List.replicate 32 0#5)) = f := by
  constructor
  · exact List.map_fst_zip (by simp [h])
  · rw [← flagsOf_eq, List.map_snd_zip (by simp [h]), orFlags, List.foldl_cons, BitVec.zero_or]
    simp

theorem map_fst_tag (l : List Nat) (g : Nat → Nat) : (l.map (fun w => (g w, 0#5))).map (·.1) = l.map g := by
  rw [List.map_map]
  rfl

theorem raise_none (s : State) : s.modCpu (fun t => t.raise 0#5) = s := by
  have : s.cpu.raise 0#5 = s.cpu := by
    rw [Thread.raise, show (0#5).setWidth 64 <<< 16 = 0#64 from rfl, BitVec.or_zero]
  rw [State.modCpu, this]

theorem exec_vcvt {s : State} {f : Fmt} {d a : VReg} {d' : VReg} {w : Nat} {l : List (Nat × FFlags)} {h : Nat}
    (b : isUtell s.cpu.core = false) (nr : s.cpu.pfxr = false) (hr : vectorForm s (.vcvt f d a) = some (d', w, l, h)) :
    ∃ lat, exec (.vcvt f d a) s =
      .next (((s.modCpu (fun t => t.raise (flagsOf l))).setV lat d' (packLanes w (l.map (·.1)))).doneHold h) := by
  refine ⟨4, ?_⟩
  show execVcvt f d a s = _
  rw [execVcvt, b, nr]
  change (match s.cpu.srcFmt with
    | none => none
    | some src => (vcvt f src s.rm (s.vrd a)).map (fun (r : Nat × List (Nat × FFlags)) => (d, r.1, r.2, 0))) = _ at hr
  cases hs : s.cpu.srcFmt with
  | none => rw [hs] at hr; cases hr
  | some src =>
    rw [hs] at hr
    change Option.map _ (vcvt f src s.rm (s.vrd a)) = _ at hr
    cases hv : vcvt f src s.rm (s.vrd a) with
    | none => rw [hv] at hr; cases hr
    | some r =>
      rw [hv] at hr
      cases hr
      simp only [Bool.false_eq_true, if_false, hv]
      rfl

/-- The prefixes of a form that takes no pending format. -/
theorem noPrefix_of_form {s : State} {i : Instr} (nr : s.cpu.pfxr = false) (nf : (∃ f d a, i = .vcvt f d a) ∨ s.cpu.pfxf = false)
    (plain : ∀ f d a, i ≠ .vcvt f d a) : s.noPrefix :=
  ⟨nf.resolve_left fun ⟨f, d, a, e⟩ => plain f d a e, nr⟩

theorem exec_vrng {s : State} (p : s.noPrefix) (b : isUtell s.cpu.core = false) (un : Bool) (d : VReg) (x y : Reg) {d' : VReg} {w : Nat}
    {l : List (Nat × FFlags)} {h : Nat} (hr : vectorForm s (.vrng un d x y) = some (d', w, l, h)) :
    exec (.vrng un d x y) s =
      .next (((s.modCpu (fun t => t.raise (flagsOf l))).setV 4 d' (packLanes w (l.map (·.1)))).doneHold h) := by
  cases hr
  show execVrng _ _ _ _ s = _
  rw [execVrng, onBarrel_next p b]
  simp only [rng_words, flagsOf_none]
  rw [raise_none, map_fst_tag]
  cases un
  case false => rw [if_neg Bool.false_ne_true, show (fun w : Nat => if false = true then unif w else w) = id from rfl, List.map_id]
  case true => rfl

theorem exec_vq8 {s : State} (p : s.noPrefix) (b : isUtell s.cpu.core = false) {f : Fp8} {d x y d' : VReg} {w : Nat}
    {l : List (Nat × FFlags)} {h : Nat} (hr : vectorForm s (.vq8 f d x y) = some (d', w, l, h)) :
    exec (.vq8 f d x y) s =
      .next (((s.modCpu (fun t => t.raise (flagsOf l))).setV 4 d' (packLanes w (l.map (·.1)))).doneHold h) := by
  cases hr
  have hz := zip_scale (quantise32 f s.qmode (s.lane 32 d 0) none (lanes 32 16 (s.vrd x) ++ lanes 32 16 (s.vrd y))).2.1
    (quantise32 f s.qmode (s.lane 32 d 0) none (lanes 32 16 (s.vrd x) ++ lanes 32 16 (s.vrd y))).1
    (quantise32 f s.qmode (s.lane 32 d 0) none (lanes 32 16 (s.vrd x) ++ lanes 32 16 (s.vrd y))).2.2
    ((quantise32_length ..).trans (by simp [lanes]))
  rw [hz.1, hz.2]
  show execVq8 _ _ _ _ s = _
  rw [execVq8, onBarrel_next p b, ← lane_eq]

theorem exec_vunpk {s : State} (p : s.noPrefix) (b : isUtell s.cpu.core = false) {f : PackFmt} {d x d' : VReg} {y : Reg} {w : Nat}
    {l : List (Nat × FFlags)} {h : Nat} (hr : vectorForm s (.vunpk f d x y) = some (d', w, l, h)) :
    exec (.vunpk f d x y) s =
      .next (((s.modCpu (fun t => t.raise (flagsOf l))).setV 2 d' (packLanes w (l.map (·.1)))).doneHold h) := by
  cases hr
  show execVunpk _ _ _ _ s = _
  rw [execVunpk, onBarrel_next p b]
  have half : (if 8 * packSize f = 16 then (s.rd y).toNat % 2 else (s.rd y).toNat % 4) = (s.rd y).toNat % (32 / (8 * packSize f)) := by
    cases f <;> rfl
  simp only [flagsOf_eq, lane_eq, half]
  rfl

theorem exec_vectorForm {s : State} {i : Instr} {d : VReg} {w : Nat} {l : List (Nat × FFlags)} {h : Nat}
    (b : isUtell s.cpu.core = false) (nr : s.cpu.pfxr = false) (nf : (∃ f d a, i = .vcvt f d a) ∨ s.cpu.pfxf = false)
    (hr : vectorForm s i = some (d, w, l, h)) :
    ∃ lat, exec i s = .next (((s.modCpu (fun t => t.raise (flagsOf l))).setV lat d (packLanes w (l.map (·.1)))).doneHold h) := by
  have p := noPrefix_of_form nr nf
  cases i
  case vcvt => exact exec_vcvt b nr hr
  case vrng un _ x y => exact ⟨_, exec_vrng (p nofun) b un _ x y hr⟩
  case vq8 => exact ⟨4, exec_vq8 (p nofun) b hr⟩
  case vdq8 f _ x y =>
    cases hr
    refine ⟨4, ?_⟩
    show execVdq8 _ _ _ _ s = _
    rw [execVdq8, onBarrel_next (p nofun) b]
    simp only [lane_eq]
    rfl
  case vpack =>
    cases hr
    refine ⟨2, ?_⟩
    show execVpack _ _ _ _ s = _
    rw [execVpack, onBarrel_next (p nofun) b]
    simp only [flagsOf_eq]
    rfl
  case vunpk => exact ⟨2, exec_vunpk (p nofun) b hr⟩
  all_goals exact none_ne_some hr

/-- Settles O12, by the lanes that each form gives (`exec_vectorForm`). -/
theorem vectorForms : Obligations.VectorForms := by
  intro s i d w l h b nr nf fl hr
  obtain ⟨lat, hexec⟩ := exec_vectorForm b nr nf hr
  have c := results_complete fl (raise_setV_results s (flagsOf l) lat d (packLanes w (l.map (·.1)))) h
  refine ⟨_, hexec, c.1, ?_⟩
  rw [c.2, placeVal_vector, packLanes, BitVec.toNat_ofNat, Nat.mod_mod]

/-! ### VDROP, FMT and RLX (R159, R195, R196, R220) -/

/-- The context without its vector and mask registers. -/
def Thread.noVectors (t : Thread) : Thread := { t with vregs := Vector.replicate 8 0#512, kregs := Vector.replicate 4 0#16 }

theorem noVectors_putFly {f : Fly} (h : f.reg < 32) (t : Thread) : (t.putFly f).noVectors = t.noVectors.putFly f := by
  rw [Thread.putFly, Thread.putFly]
  split
  · by_cases h0 : f.reg = 0
    · rw [h0, Thread.put_zero, Thread.put_zero]
    · rw [Thread.put_scalar _ _ h0 h, Thread.put_scalar _ _ h0 h, Thread.noVectors, Thread.noVectors]
  · rw [putOlder_eq, putOlder_eq, Thread.noVectors, Thread.noVectors]

theorem noVectors_putFly_vector {f : Fly} (h : ¬ f.reg < 32) (t : Thread) : (t.putFly f).noVectors = t.noVectors := by
  rw [Thread.putFly]
  split
  · rcases Thread.put_kinds f.reg with h | ⟨h, h'⟩ | ⟨h, h'⟩ | ⟨h, h', h''⟩ | ⟨h, h', h''⟩
    · omega
    · omega
    · rw [Thread.put_vector _ _ h h', Thread.noVectors, Thread.noVectors]
    · rw [Thread.put_mask _ _ h h' h'', Thread.noVectors, Thread.noVectors]
    · rw [Thread.put_none _ _ h h' h'']
  · rw [putOlder_none _ _ _ (by omega)]

/-- Dropping the vector results in flight and the vector registers leaves every other result as it was. -/
theorem noVectors_foldl (fl : List Fly) (t : Thread) :
    (fl.filter (fun f => f.reg < 32)).foldl Thread.putFly t.noVectors = (fl.foldl Thread.putFly t).noVectors := by
  induction fl generalizing t with
  | nil => rfl
  | cons f rest ih =>
    by_cases h : f.reg < 32
    · rw [List.filter_cons, if_pos (by simpa using h), List.foldl_cons, List.foldl_cons, ← noVectors_putFly h, ih]
    · rw [List.filter_cons, if_neg (by simpa using h), List.foldl_cons, ← ih, noVectors_putFly_vector h]

/-- `VDROP`'s effect on its context but for VLIVE. -/
def Thread.dropVectors (t : Thread) : Thread := { t.noVectors with fly := t.fly.filter (fun f => f.reg < 32) }

theorem dropVectors_commit (t : Thread) : t.dropVectors.commit = t.commit.noVectors := by
  rw [Thread.commit_eq, Thread.commit_eq, Thread.dropVectors]
  show { List.foldl Thread.putFly { t.noVectors with fly := _ } (t.fly.filter (fun f => f.reg < 32)) with fly := [] } = _
  rw [foldl_fly, noVectors_foldl, Thread.noVectors, Thread.noVectors]

theorem noVectors_reg (t : Thread) (n : Nat) : t.noVectors.reg n = if n < 32 then t.reg n else 0 := by
  rw [Thread.noVectors, Thread.reg, Thread.reg]
  by_cases h : n < 32
  · rw [dif_pos h, dif_pos h, if_pos h]
  · rw [dif_neg h, if_neg h, if_neg (by omega)]
    split
    · simp
    · split
      · simp
      · rfl

theorem dropVectors_settled (t : Thread) (n : Nat) : t.dropVectors.settled n = if n < 32 then t.settled n else 0 := by
  rw [Thread.settled, dropVectors_commit, noVectors_reg, Thread.settled]

theorem reg_above (t : Thread) {n : Nat} (h : 44 ≤ n) : t.reg n = 0 := by
  rw [Thread.reg, if_neg (by omega), dif_neg (by omega), dif_neg (by omega), dif_neg (by omega)]

theorem dropVectors_effect (t : Thread) : Effect t t.dropVectors (List.range' 32 12) 0#64 [] where
  rest := by
    rw [Thread.dropVectors, Thread.noVectors, BitVec.or_zero, List.append_nil]
    rfl
  others n hn := by
    rw [dropVectors_settled]
    split
    next => rfl
    next h =>
      rw [List.mem_range'_1, not_and_or] at hn
      rw [Thread.settled, reg_above _ (by omega)]
  windows := by rw [dropVectors_commit, Thread.noVectors]

theorem exec_vdrop {s : State} (p : s.noPrefix) (b : isUtell s.cpu.core = false) :
    exec .vdrop s = .next ((({ s with cpu := { s.cpu with sts := s.cpu.sts &&& ~~~2#64 } } : State).modCpu Thread.dropVectors).doneHold 0) := by
  show execVdrop s = _
  rw [execVdrop, onBarrel_next p b]
  simp only [State.modCpu, Thread.dropVectors, Thread.noVectors, State.done]

/-- The prefix bits that `FMT` leaves (R195, R196). -/
theorem fmt_prefix (sts : Word) (c : Nat) (h : c < 16) :
    setField (sts ||| 4#64) 7 4 c &&& 0x1F4#64 = word (c * 16 + 4) ||| sts &&& 0x100#64 := by
  apply BitVec.eq_of_getLsbD_eq
  intro i hi
  have pfx : (0x1F4#64).getLsbD i = decide (i = 2 ∨ 4 ≤ i ∧ i ≤ 8) :=
    (by decide : ∀ i < 64, (0x1F4#64).getLsbD i = decide (i = 2 ∨ 4 ≤ i ∧ i ≤ 8)) i hi
  have rlx : (0x100#64).getLsbD i = decide (i = 8) := (by decide : ∀ i < 64, (0x100#64).getLsbD i = decide (i = 8)) i hi
  have fmt : (4#64).getLsbD i = decide (i = 2) := (by decide : ∀ i < 64, (4#64).getLsbD i = decide (i = 2)) i hi
  have code : (word (c * 16 + 4)).getLsbD i = if i < 4 then decide (i = 2) else c.testBit (i - 4) := by
    rw [word, BitVec.getLsbD_ofNat, decide_eq_true hi, Bool.true_and, Nat.mul_comm, Nat.testBit_two_pow_mul_add (i := 4) c (by decide)]
    split
    next h => exact (by decide : ∀ i < 4, Nat.testBit 4 i = decide (i = 2)) i h
    next => rfl
  rw [BitVec.getLsbD_and, ← bitOf, bitOf_setField _ (by decide) _ hi, BitVec.getLsbD_or, BitVec.getLsbD_and, code, pfx, rlx, bitOf,
    BitVec.getLsbD_or, fmt]
  by_cases h4 : 4 ≤ i
  · by_cases h7 : i ≤ 7
    · simp [h4, h7, show ¬ i < 4 by omega, show i ≤ 8 by omega, show ¬ i = 8 by omega]
    · have high : c.testBit (i - 4) = false :=
        Nat.testBit_lt_two_pow (h.trans_le (show 2 ^ 4 ≤ 2 ^ (i - 4) from Nat.pow_le_pow_right (by decide) (by omega)))
      simp [h4, h7, high, show ¬ i < 4 by omega, show ¬ i = 2 by omega]
      by_cases h8 : i = 8
      · simp [h8]
      · simp [h8, show ¬ i ≤ 8 by omega]
  · simp [h4, show i < 4 by omega, show ¬ i = 8 by omega]
    by_cases h2 : i = 2 <;> simp [h2]

theorem rlx_prefix (sts : Word) : (sts ||| 0x100#64) &&& 0x1F4#64 = sts &&& 0xF4#64 ||| 0x100#64 := by
  have split : (0x1F4#64 : Word) = 0xF4#64 ||| 0x100#64 := by decide
  apply BitVec.eq_of_getLsbD_eq
  intro i _
  rw [split]
  simp only [BitVec.getLsbD_and, BitVec.getLsbD_or]
  cases sts.getLsbD i <;> cases (0xF4#64).getLsbD i <;> cases (0x100#64).getLsbD i <;> rfl

/-- Settles O15, by the effect of dropping the vector registers (`dropVectors_effect`) and the prefix bits that `FMT` and `RLX` leave. -/
theorem vectorState : Obligations.VectorState := by
  refine ⟨fun s p b fl => ?vdrop, fun s b fl => ⟨fun f => ?fmt, ?rlx⟩⟩
  case vdrop =>
    have e := dropVectors_effect { s.cpu with sts := s.cpu.sts &&& ~~~2#64 }
    refine ⟨_, exec_vdrop p b, completes_doneHold (s := { s with cpu := { s.cpu with sts := s.cpu.sts &&& ~~~2#64 } }) fl e 0,
      fun n hn => ?_⟩
    rw [doneHold_settled (s := { s with cpu := { s.cpu with sts := s.cpu.sts &&& ~~~2#64 } }) Thread.dropVectors fl e,
      dropVectors_settled, if_neg (by omega)]
  case fmt =>
    refine ⟨s.donePrefix (setField (s.cpu.sts ||| 4#64) 7 4 f.toCode.toNat), ?_, ?_⟩
    · show execFmt f s = _
      rw [execFmt, b]
      rfl
    · have l := donePrefix_leaves fl (setField (s.cpu.sts ||| 4#64) 7 4 f.toCode.toNat)
      rwa [fmt_prefix _ _ f.toCode.isLt] at l
  case rlx =>
    refine ⟨s.donePrefix (s.cpu.sts ||| 0x100#64), ?_, ?_⟩
    · show execRlx s = _
      rw [execRlx, b]
      rfl
    · have l := donePrefix_leaves fl (s.cpu.sts ||| 0x100#64)
      rwa [rlx_prefix] at l

end Sys2Proof.Machine
end

section

namespace Sys2Proof.Machine

set_option Elab.async false

/-! ### Every instruction and event goes on (R8, R95, R247) -/

theorem plain_goesOn (s : State) (k : State → State) : ∃ t, plain s k = .next t := by
  rw [plain]
  split
  · exact ⟨_, rfl⟩
  · exact ⟨_, rfl⟩

theorem onBarrel_goesOn (s : State) (k : State → State) : ∃ t, onBarrel s k = .next t := by
  rw [onBarrel]
  split
  · exact ⟨_, rfl⟩
  · exact plain_goesOn s k

theorem needSup_goesOn (s : State) (k : State → State) : ∃ t, needSup s k = .next t := by
  rw [needSup]
  split
  · exact plain_goesOn s k
  · exact ⟨_, rfl⟩

theorem needSupBarrel_goesOn (s : State) (k : State → State) : ∃ t, needSupBarrel s k = .next t := by
  rw [needSupBarrel]
  split
  · exact onBarrel_goesOn s k
  · exact ⟨_, rfl⟩

theorem svc_goesOn (s : State) (n : Nat) : ∃ t, s.svc n = .next t := plain_goesOn s _

theorem exec_goesOn (i : Instr) (s : State) : ∃ t, exec i s = .next t := by
  cases i
  case br | brc | jmp | call | callr | loop | add | sub | addi | addiT4 | mul | mulh | div | rem | min | max | slt | slti | sltiT4
    | madd | and | or | xor | andn | logi | logiT4 | shl | shlImm | shr | shrImm | sar | sarImm | rot | rotImm | clz | popc | bfx
    | mov | movi | moviT4 | movhi | sel | lea | leaT4 | ids | clk | rng | cmp | cmpImm | ext | fadd | fsub | fmul | ffma | fdiv |
    fsqrt | fmin | fmax | fcmp | fcvt | fsgn | fcls | ldfe | ldfeT4 | ldff | ldffT4 | ldfs | ldfsT4 | stef | stefT4 | stff |
    stffT4 | fesetE | fesetET4 | fesetF | fesetFT4 | aadd | aaddT4 | amin | aminT4 | amax | amaxT4 | aand | aandT4 | aor | aorT4 |
    axor | axorT4 | aswp | aswpT4 | acas | acasT4 | afadd | afaddT4 | fence | bhintPf | bhintPfT4 | bhintPin | bhintPinT4 |
    bhintUnpin | bhintUnpinT4 | bhintEv | bhintEvT4 | spawn | spawnLabel | launch | migrate | migrateNear | send | sendLoopback |
    sendEndOverflow | recv | recvArrival | bar | bara | trigarm | sendx | trap | ret | save | restore | kpt | waita | quit | yield
    | waitm =>
    exact ⟨_, rfl⟩
  case vadd | vsub | vmul | vand | vor | vxor | vshift | vminmax | vsel | vbcast | vperm | vextr | vextrImm | vfadd | vfsub |
    vfmul | vffma | vfmin | vfmax | vfrcp | vfrsq | vfexp | vfcmp | vfred | vrng | vq8 | vdq8 | vscale | kand | kmov | kmovFx |
    kmovTx | vpack | vunpk | vclamp | tqpush | tqstat | tkill | tcont | accal | accfr | accld | accst | accz | ssmrun | ssmstat |
    tseq | jinit | jarrive | jcontrib | jwait | jqrySt | jqryWt | jkill | jroster | jreplay | jclose | jbind | copy | copys | deal
    | enck | deck | redc | bcast | mbxst | trigset | trigrd | vdrop | kmaskOff | kmaskOn =>
    delta exec
    exact onBarrel_goesOn s _
  case tlbiG | tlbiH | tlbiAsid | fqpop | fqrepReplay | fqrepGiveup | pgmap | slice | prtnQry | prtnSplit | prtnMerge | tret |
    gstop | gres | tlbiAll | wfe =>
    delta exec
    exact needSup_goesOn s _
  case jrel | lease | unlease =>
    delta exec
    exact needSupBarrel_goesOn s _
  case svc | lend | smove | sreg | sret | pspill | sstep | flog => exact svc_goesOn s _
  case movs | movsWptr | movsSsp | movt | ldv | ldvT4 | ldvs | ldvsT4 | ldvg | ldvgT4 | ldlv | stv | stvT4 | stvs | stvsT4 | stvg
    | stvgT4 | stlv | nop | nopT1 | nopT2 | nopT4 | ill | reservedOpcode | illT1 | illT2 | illT4 | movtSts | movtWptr | movtSsp |
    ld | ldT4 | ldl | ldx | ldxT4 | ldm | ldmT4 | ldnp | ldnpT4 | st | stT4 | stl | stm | stmT4 | stx | stxT4 | stnp | stnpT4 => exact ⟨_, rfl⟩
  case queuePortLaunch | queuePortOtherKind | launchStrandCreate | strandArrival | wordRequestAnswer | postedWriteDrain |
    spillSector | slotPatienceExpiry | wordWaiterRetry | fetchStart | fetchDone | fetchFault | writeBackDone | launchSweep |
    messageArrival | arrivalQueueAdmit | movementDispatch | movementSegmentEnd | movementComplete | movementFault | leasePeriodEnd
    | triggeredEnqueue | taskKblockEnd | taskFault | taskComplete | engineFailure | ssmUnitEnd | ssmUnitFault |
    joinDeferredArrival | joinFoldDone | joinFoldFault | faultPostRetry | sliceExpiry | sliceOverrun | ldxTimeout | rtaArm |
    rtaActRead | rtaArmExpiry | writeBackScan | flashWriteComplete | hostAccess | linkPortFailure | dieReset | dieReturn |
    hbmStackLoss | rowRemapFailure | scrubPass | clockStretch | vfReplan | imageVerify | moduleMemoryInit | crst | msrWrite |
    ahashWrite | pewcfgWrite | stackCounterClear | partitionRecordCommit | partitionDissolve | serviceSpaceWrite | hmapStore |
    pinqStore | controlRegionWrite | movementEngineFailure | remoteAccessArrival | remoteBarrierArrival | storagePortAccess |
    backgroundClearing | virtualFunctionReset | moduleReset | podFormation | queuePortAssignment | fmt | rlx | vcvt =>
    delta exec
    simp only [execQueuePortLaunch, execQueuePortOtherKind, execLaunchStrandCreate, execStrandArrival, execWordRequestAnswer,
      execPostedWriteDrain, execSpillSector, execSlotPatienceExpiry, execWordWaiterRetry, execFetchStart, execFetchDone,
      execFetchFault, execWriteBackDone, execLaunchSweep, execMessageArrival, execArrivalQueueAdmit, execMovementDispatch,
      execMovementSegmentEnd, execMovementComplete, execMovementFault, execLeasePeriodEnd, execTriggeredEnqueue,
      execTaskKblockEnd, execTaskFault, execTaskComplete, execEngineFailure, execSsmUnitEnd, execSsmUnitFault,
      execJoinDeferredArrival, execJoinFoldDone, execJoinFoldFault, execFaultPostRetry, execSliceExpiry, execSliceOverrun,
      execLdxTimeout, execRtaArm, execRtaActRead, execRtaArmExpiry, execWriteBackScan, execFlashWriteComplete,
      execHostAccess, execLinkPortFailure, execDieReset, execDieReturn, execHbmStackLoss, execRowRemapFailure, execScrubPass,
      execClockStretch, execVfReplan, execImageVerify, execModuleMemoryInit, execCrst, execMsrWrite, execAhashWrite,
      execPewcfgWrite, execStackCounterClear, execPartitionRecordCommit, execPartitionDissolve, execServiceSpaceWrite,
      execHmapStore, execPinqStore, execControlRegionWrite, execMovementEngineFailure, execRemoteAccessArrival,
      execRemoteBarrierArrival, execStoragePortAccess, execBackgroundClearing, execVirtualFunctionReset, execModuleReset,
      execPodFormation, execQueuePortAssignment, execFmt, execRlx, execVcvt]
    repeat' split
    all_goals exact ⟨_, rfl⟩

theorem runTurn_goesOn (s : State) (turn : Option Turn) : ∃ t, s.runTurn turn = .next t := by
  rcases turn with _ | (c | core | e)
  · exact ⟨s, rfl⟩
  · rw [State.runTurn]
    cases s.prepare c with
    | inr t => exact ⟨_, rfl⟩
    | inl p => exact exec_goesOn p.1 _
  · rw [State.runTurn]
    exact exec_goesOn _ _
  · rw [State.runTurn]
    exact exec_goesOn _ _

/-- Settles O59: the move of every step goes on, so that the step ends with `serveWords` and `finish`. -/
theorem neverStops : Obligations.NeverStops := by
  intro s
  obtain ⟨t, ht⟩ := runTurn_goesOn s s.nextTurn
  exact ⟨t.serveWords.finish, by rw [step, ht]⟩

end Sys2Proof.Machine
end

section

namespace Sys2Proof.Machine

set_option Elab.async false

/-! ### The checks before an instruction issues (R60) -/

theorem headOp_eq_zero {h : BitVec 16} (e : (headOp h).toNat = 0) : headOp h = 0#8 := BitVec.eq_of_toNat_eq e

/-- The opcodes that name no instruction decode to one whose effect is the illegal-opcode trap. -/
theorem exec_illegal {h : BitVec 16} {t : BitVec 64} {i : Instr} (op : (headOp h).toNat = 0 ∨ 12 ≤ (headOp h).toNat % 16)
    (hd : decodeInstr h t = .ok i) (s : State) : exec i s = .next (s.trapHead 0x01) := by
  rw [decodeInstr, decodeFields] at hd
  split at hd
  case isTrue => cases hd; rfl
  case isFalse hr =>
    have z : (headOp h).toNat = 0 := op.resolve_right (by simpa [opReserved] using hr)
    simp only [decodeBody, z, decodeRow0, Nat.zero_mod, Nat.zero_div] at hd
    split at hd
    case isTrue => cases hd
    case isFalse =>
      cases hd
      repeat' split
      all_goals rfl

theorem opNeedsSup_iff (op : Nat) :
    opNeedsSup op = true ↔ (op / 16 = 15 ∧ op ≠ 0xF0 ∧ op ≠ 0xF2) ∨ op ∈ [0xE7, 0xE8, 0xDB] := by
  simp only [opNeedsSup, List.mem_cons, List.not_mem_nil, or_false]
  grind

theorem opBarrelOnly_iff (op : Nat) : opBarrelOnly op = true ↔ op / 16 ∈ [5, 6, 7, 12, 13, 14] := by
  simp only [opBarrelOnly, List.mem_cons, List.not_mem_nil, or_false, Bool.or_eq_true, Bool.and_eq_true, decide_eq_true_eq]
  omega

theorem badScope_of {core : Nat} {i : Instr} (u : isUtell core = true)
    (hi : ∃ sc x y z, (sc = Scope.quad ∨ sc = .sect) ∧ (i = .bar sc x y ∨ i = .bara sc x y z)) : badScope core i = true := by
  obtain ⟨sc, x, y, z, hsc, rfl | rfl⟩ := hi
  all_goals
    show (isUtell core && (sc == Scope.quad || sc == .sect)) = true
    rcases hsc with rfl | rfl
    · exact congrArg (· && true) u
    · exact congrArg (· && true) u

/-- A pending prefix that R196 and R220 do not give the opcode. -/
theorem prefixFits_false {t : Thread} {op : Nat} (hp : op ∉ [0x70, 0x71, 0x35, 0x36])
    (h : (t.pfxf = true ∧ op ∉ [0x72, 0x81, 0x82, 0x83, 0x85, 0x91, 0x92, 0x93, 0x95]) ∨
      (t.pfxr = true ∧ (op / 16 ∉ [8, 9] ∨ op ∈ [0x86, 0x87, 0x88, 0x96, 0x97, 0x98]))) : t.prefixFits op = false := by
  have takesFormat : opTakesFormat op = true ↔ op ∈ [0x72, 0x81, 0x82, 0x83, 0x85, 0x91, 0x92, 0x93, 0x95] := List.contains_iff_mem
  have takesRelaxed : opTakesRelaxed op = true ↔ op / 16 ∈ [8, 9] ∧ op ∉ [0x86, 0x87, 0x88, 0x96, 0x97, 0x98] := by
    simp [opTakesRelaxed]
  simp only [List.mem_cons, List.not_mem_nil, or_false, not_or] at hp
  obtain ⟨h1, h2, h3, h4⟩ := hp
  rw [Thread.prefixFits]
  rcases h with ⟨pf, ho⟩ | ⟨pr, ho⟩
  · have : opTakesFormat op = false := by rwa [← Bool.not_eq_true, takesFormat]
    simp [h1, h2, h3, h4, pf, this]
  · have : opTakesRelaxed op = false := by
      rw [← Bool.not_eq_true, takesRelaxed]
      rintro ⟨row, col⟩
      exact ho.elim (· row) col
    simp [h1, h2, h3, h4, pr, this]

section
variable {s : State} (legal : ((headOp s.cpu.head).toNat == 0 || opReserved (headOp s.cpu.head)) = false)
include legal

theorem verdict_noSup (hs : opNeedsSup (headOp s.cpu.head).toNat = true) (hn : s.cpu.sup = false) :
    s.verdict = .trap 0x07 (s.cpu.head.setWidth 64) := by
  simp [State.verdict, legal, hs, hn]

variable (sup : (opNeedsSup (headOp s.cpu.head).toNat && !s.cpu.sup) = false)
include sup

theorem verdict_noUnit (hb : opBarrelOnly (headOp s.cpu.head).toNat = true) (u : isUtell s.cpu.core = true) :
    s.verdict = .trap 0x18 (s.cpu.head.setWidth 64) := by
  simp [State.verdict, legal, sup, hb, u]

variable (unit : (opBarrelOnly (headOp s.cpu.head).toNat && isUtell s.cpu.core) = false)
include unit

theorem verdict_format (hd : decodeInstr s.cpu.head s.cpu.tail = .bad .format) : s.verdict = .trap 0x04 (s.cpu.head.setWidth 64) := by
  simp [State.verdict, legal, sup, unit, hd]

theorem verdict_operand (hd : decodeInstr s.cpu.head s.cpu.tail = .bad .operand) : s.verdict = .trap 0x03 s.cpu.operandVal := by
  simp [State.verdict, legal, sup, unit, hd]

variable {i : Instr} (hd : decodeInstr s.cpu.head s.cpu.tail = .ok i)
include hd

theorem verdict_badForm (h : (badScope s.cpu.core i || !s.cpu.prefixFits (headOp s.cpu.head).toNat) = true) :
    s.verdict = .trap 0x03 s.cpu.operandVal := by
  simp [State.verdict, legal, sup, unit, hd, h]

variable (scope : badScope s.cpu.core i = false) (fits : s.cpu.prefixFits (headOp s.cpu.head).toNat = true)
include scope fits

theorem verdict_short {r short : Nat} (c : s.cpu.chk = true) (hu : s.cpu.undersized (s.cpu.sources s.isSup i) = some (r, short)) :
    s.verdict = .trap 0x06 (word (r + short * 2 ^ 8)) := by
  simp [State.verdict, legal, sup, unit, hd, scope, fits, c, hu, Nat.shiftLeft_eq]

theorem verdict_ready (c : s.cpu.chk = false ∨ s.cpu.undersized (s.cpu.sources s.isSup i) = none) :
    s.verdict = if s.cpu.mustWait s.isSup (headOp s.cpu.head).toNat i then .wait else .issue i := by
  rcases c with c | c
  · simp [State.verdict, legal, sup, unit, hd, scope, fits, c]
  · simp [State.verdict, legal, sup, unit, hd, scope, fits, c]

end

theorem verdict_illegal {s : State} {i : Instr} (op : (headOp s.cpu.head).toNat = 0 ∨ 12 ≤ (headOp s.cpu.head).toNat % 16)
    (hd : decodeInstr s.cpu.head s.cpu.tail = .ok i) : s.verdict = .issue i := by
  have illegal : ((headOp s.cpu.head).toNat == 0 || opReserved (headOp s.cpu.head)) = true := by
    rcases op with op | op <;> simp [opReserved, op]
  simp [State.verdict, illegal, hd]

/-- Settles O56: each clause is the place of `State.verdict` in R60's order at which its condition is met. -/
theorem issueChecks : Obligations.IssueChecks := by
  intro s
  refine ⟨fun op i hd => ⟨by rw [State.checked, verdict_illegal op hd], exec_illegal op hd s⟩, fun h0 hr => ?_⟩
  have legal : ((headOp s.cpu.head).toNat == 0 || opReserved (headOp s.cpu.head)) = false := by
    simp [opReserved, h0, hr]
  rw [← opNeedsSup_iff, ← opBarrelOnly_iff]
  have supB : (s.cpu.sup = true ∨ ¬ opNeedsSup (headOp s.cpu.head).toNat = true) →
      (opNeedsSup (headOp s.cpu.head).toNat && !s.cpu.sup) = false := by
    rintro (h | h) <;> simp [h]
  have unitB : (isUtell s.cpu.core = false ∨ ¬ opBarrelOnly (headOp s.cpu.head).toNat = true) →
      (opBarrelOnly (headOp s.cpu.head).toNat && isUtell s.cpu.core) = false := by
    rintro (h | h) <;> simp [h]
  refine ⟨fun hs => ?noSup, fun hs hu => ?noUnit, fun hs hu hd => ?format, fun hs hu hd => ?operand, fun i hs hu hd => ⟨?scope, ?pending, ?ready⟩⟩
  case noSup =>
    obtain ⟨noSup, needs⟩ := not_or.mp hs
    rw [State.checked, verdict_noSup legal (not_not.mp needs) (Bool.eq_false_of_not_eq_true noSup)]
  case noUnit =>
    obtain ⟨utell, barrel⟩ := not_or.mp hu
    rw [State.checked, verdict_noUnit legal (supB hs) (not_not.mp barrel) (Bool.eq_true_of_not_eq_false utell)]
  case format => rw [State.checked, verdict_format legal (supB hs) (unitB hu) hd]
  case operand => rw [State.checked, verdict_operand legal (supB hs) (unitB hu) hd]
  case scope =>
    intro u hi
    rw [State.checked, verdict_badForm legal (supB hs) (unitB hu) hd (by rw [badScope_of u hi]; rfl)]
  case pending =>
    intro hp h
    rw [State.checked, verdict_badForm legal (supB hs) (unitB hu) hd (by rw [prefixFits_false hp h]; simp)]
  case ready =>
    intro sc fits
    refine ⟨fun r short c hr => ?short, fun c => ⟨fun w => ?wait, fun w => ?issue⟩⟩
    case short => rw [State.checked, verdict_short legal (supB hs) (unitB hu) hd sc fits c hr]
    case wait => rw [State.checked, verdict_ready legal (supB hs) (unitB hu) hd sc fits c, if_pos w]
    case issue => rw [State.checked, verdict_ready legal (supB hs) (unitB hu) hd sc fits c, if_neg (by simp [w])]

end Sys2Proof.Machine
end

section

namespace Sys2Proof.Machine

set_option Elab.async false

/-! ### The state after reset (R208, R248) -/

theorem reset_die (d : Nat) : State.reset.die d = {} := rfl

theorem reset_bank (l : Loc) : (State.reset.bankAt l).1 = {} := by
  cases l <;> rfl

theorem reset_byteAt (d : Nat) (l : Loc) : State.reset.byteAt d l = 0#8 := by
  cases l <;> rfl

theorem reset_fullAt (l : Loc) : State.reset.fullAt l = true := by
  cases l <;> rfl

theorem reset_poisonedAt (l : Loc) : State.reset.poisonedAt l = false := by
  cases l <;> rfl

/-- Every supervisor context, the issuing one among them, is as one that was never started. -/
theorem reset_sup {c : Nat} (h : c < 6240) : State.reset.thread? (.sup c) = some (idleSup c) := by
  rcases eq_or_ne c 0 with rfl | h0
  · rfl
  · have other : CtxId.sup c ≠ State.reset.cur := fun e => h0 (CtxId.sup.inj e)
    rw [State.thread?, if_neg other]
    simp only [h, if_true]
    rfl

theorem idleSup_reg (c n : Nat) : (idleSup c).reg n = 0 := by
  simp only [Thread.reg, idleSup]
  split_ifs <;> simp only [Vector.get_eq_getElem, Vector.getElem_replicate, BitVec.toNat_ofNat, Nat.zero_mod]

theorem reset_strand (sid : Nat) : State.reset.thread? (.strand sid) = none := rfl

/-- No supervisor context runs, and no strand is there to. -/
theorem reset_ready (c : CtxId) : State.reset.ready c = false := by
  cases c with
  | strand sid => rfl
  | sup core =>
    by_cases h : core < 6240
    · rw [State.ready, reset_sup h]
      rfl
    · have none : State.reset.thread? (.sup core) = none := by
        have other : CtxId.sup core ≠ State.reset.cur := fun e => h (by rw [CtxId.sup.inj e]; decide)
        rw [State.thread?, if_neg other]
        simp only [h, if_false]
      rw [State.ready, none]

theorem reset_memoryOk : State.reset.memoryOk :=
  ⟨⟨rfl, rfl, fun _ h => absurd h List.not_mem_nil⟩, fun _ h => absurd h List.not_mem_nil⟩

/-- Settles O57. -/
theorem resetState : Obligations.ResetState := by
  refine ⟨fun d l => ⟨reset_byteAt d l, reset_fullAt l, reset_poisonedAt l⟩, fun c h => ?sup, rfl, rfl, fun d _ => ⟨rfl, ?pewter⟩,
    reset_ready, rfl, reset_memoryOk⟩
  case sup => exact ⟨idleSup c, reset_sup h, rfl, idleSup_reg c, rfl, rfl, rfl, rfl, rfl⟩
  case pewter => 
    rw [reset_die]
    decide

end Sys2Proof.Machine
end

section

namespace Sys2Proof.Machine

set_option Elab.async false

/-! ### The line that a context fetches (R44) -/

theorem lineOf_held {s : State} {la : Word} {c : LineCopy} (h : s.cpu.copy? (s.cpu.lineKey la) = some c) (fresh : c.stale = false) :
    s.lineOf la = .ok none c.insts := by
  simp [State.lineOf, h, fresh]

theorem lineOf_fetched {s : State} {la : Word}
    (h : s.cpu.copy? (s.cpu.lineKey la) = none ∨ ∃ c, s.cpu.copy? (s.cpu.lineKey la) = some c ∧ c.stale = true) :
    s.lineOf la = s.fetchLine la := by
  rcases h with h | ⟨c, h, stale⟩
  · simp [State.lineOf, h]
  · simp [State.lineOf, h, stale]

theorem settle_seen (c : LineCopy) (h : ∀ x ∈ c.stores, x.seen = true) : c.settle.2 = [] := by
  rw [LineCopy.settle]
  generalize c.stores = xs at h
  suffices ∀ b, (xs.foldl (fun (p : BitVec 512 × List LineStore) x =>
      if x.seen then ((p.1 &&& ~~~x.mask) ||| (x.val &&& x.mask), p.2.filterMap (·.less x.mask)) else (p.1, p.2 ++ [x])) (b, [])).2 = [] from
    this c.bytes
  induction xs with
  | nil => exact fun _ => rfl
  | cons x xs ih =>
    intro b
    rw [List.foldl_cons, if_pos (h x List.mem_cons_self)]
    exact ih (fun y hy => h y (List.mem_cons_of_mem x hy)) _

theorem settle_unseen (c : LineCopy) (h : ∀ x ∈ c.stores, x.seen = false) : c.settle = (c.bytes, c.stores) := by
  rw [LineCopy.settle]
  generalize c.stores = xs at h
  suffices ∀ older, xs.foldl (fun (p : BitVec 512 × List LineStore) x =>
      if x.seen then ((p.1 &&& ~~~x.mask) ||| (x.val &&& x.mask), p.2.filterMap (·.less x.mask)) else (p.1, p.2 ++ [x])) (c.bytes, older) =
        (c.bytes, older ++ xs) from this []
  induction xs with
  | nil => simp
  | cons x xs ih =>
    intro older
    rw [List.foldl_cons, if_neg (by simp [h x List.mem_cons_self]), ih (fun y hy => h y (List.mem_cons_of_mem x hy))]
    simp

theorem lineSeen_none {s : State} {la : Word} (h : s.cpu.copy? (s.cpu.lineKey la) = none) (l : Loc) :
    s.lineSeen la l = BitVec.ofNat 512 (s.readAt s.here l 64) := by
  simp [State.lineSeen, Thread.copyAt, h]

section
variable {s : State} {la : Word} {l : Loc} {c : LineCopy} (h : s.cpu.copyAt la l = some c)
include h

theorem lineSeen_shown (shown : ∀ x ∈ c.stores, x.seen = true) : s.lineSeen la l = BitVec.ofNat 512 (s.readAt s.here l 64) := by
  simp only [State.lineSeen, h, LineCopy.view, settle_seen c shown, List.foldl_nil]
  rw [show (0 : BitVec 512) = 0#512 from rfl, BitVec.and_zero, BitVec.not_zero, BitVec.and_allOnes, BitVec.zero_or]

theorem lineSeen_hidden (hides : ∀ x ∈ c.stores, x.seen = false) :
    s.lineSeen la l = (c.bytes &&& c.stores.foldl (fun (h : BitVec 512) x => h ||| x.mask) 0) |||
      (BitVec.ofNat 512 (s.readAt s.here l 64) &&& ~~~c.stores.foldl (fun (h : BitVec 512) x => h ||| x.mask) 0) := by
  simp only [State.lineSeen, h, LineCopy.view, settle_unseen c hides]

end

section
variable {s : State} {la : Word} {l : Loc} {is : List Slotted} (clean : s.anyPoison l 64 = false)
  (line : decodeLine (bytesOf (s.lineSeen la l).toNat 64) = some is)
include clean line

theorem fetchLine_local (hl : l = .loc s.cpu.core (field la 17 0)) (ap : bitOf la 56 = true) (ext : field la 55 18 = 0)
    (ok : s.regionOk (field la 17 0) 64 .exec = true) : s.fetchLine la = .ok (some (.at_ l la none)) is := by
  subst hl
  simp only [State.fetchLine, ap, ext, ok, clean, line]
  simp

theorem fetchLine_direct {va : Word} {c : Option (Comp × List Nat)} {pa : Nat} (hl : l = .direct pa) (ap : bitOf la 56 = false)
    (found : s.locateVirt la .exec = .at_ l va c) : s.fetchLine la = .ok (some (.at_ l la c)) is := by
  subst hl
  simp only [State.fetchLine, ap, found, clean, line]
  simp

end

/-! ### A step of a context that is ready and owes nothing -/

theorem onlyFetch_congr {s t : State} (hc : t.cpu.refetch = s.cpu.refetch ∧ t.cpu.core = s.cpu.core ∧ t.cpu.slot = s.cpu.slot ∧ t.cpu.sid = s.cpu.sid)
    (hp : t.parts = s.parts) (hs : t.cur = s.cur) (hk : (t.core s.cpu.core).stepping = (s.core s.cpu.core).stepping) :
    t.onlyFetch = s.onlyFetch := by
  obtain ⟨h1, h2, h3, h4⟩ := hc
  simp only [State.onlyFetch, State.gangStopped, State.owner, State.isSup, h1, h2, h3, h4, hp, hs, hk]

@[simp] theorem cycle_core (s : State) (n : Nat) : (s.cycle n).cpu.core = s.cpu.core := by
  rw [State.cycle]
  dsimp only
  split
  · rfl
  · rfl

theorem cycle_cpu (s : State) (n : Nat) : ∃ h, (s.cycle n).cpu = { s.cpu with hold := h } := by
  rw [State.cycle]
  dsimp only
  split
  · exact ⟨_, rfl⟩
  · exact ⟨s.cpu.hold, rfl⟩

theorem beforeIssue_none {s : State} (fresh : s.cpu.fresh = false) (flushed : s.cpu.flushed = false) (due : s.cpu.trapDue = none) :
    s.beforeIssue = none := by
  rw [State.beforeIssue]
  split
  · simp [fresh, State.takeDue, due]
  · simp [fresh, flushed, Thread.refillDue, State.takeDue, due]

theorem leaveLine_same {s : State} (h : s.cpu.staleCur = false) (la : Word) : s.leaveLine la = s := by
  simp [State.leaveLine, h]

theorem instAt_of {is : List Slotted} {pc : Word} {sl : Slotted} (h0 : field pc 5 0 ≠ 0) (h : is[field pc 5 0 - 1]? = some sl) :
    instAt is pc = some sl := by
  rw [instAt, if_neg h0, h]

/-- The state in which the instruction at the PC stands in the latch. -/
def State.latched (s : State) (src : Option Found) (is : List Slotted) (sl : Slotted) : State :=
  (s.holdLine (lineAddr s.cpu.pc) src is).modCpu (fun t => { t with
    head := sl.head, tail := sl.tail, lineN := is.length, curLine := some (t.lineKey (lineAddr s.cpu.pc)) })

theorem enterLine_ok {s : State} {src : Option Found} {is : List Slotted} {sl : Slotted} (stale : s.cpu.staleCur = false)
    (high : field s.cpu.pc 63 57 = 0) (h0 : field s.cpu.pc 5 0 ≠ 0) (line : s.lineOf (lineAddr s.cpu.pc) = .ok src is)
    (at_ : is[field s.cpu.pc 5 0 - 1]? = some sl) : s.enterLine = .ok (s.latched src is sl) := by
  simp only [State.enterLine, leaveLine_same stale, high, line, instAt_of h0 at_]
  rfl

theorem verdict_issues {s : State} {i : Instr} (hd : decodeInstr s.cpu.head s.cpu.tail = .ok i)
    (h : s.issues ⟨s.cpu.head, s.cpu.tail⟩ i) : s.verdict = .issue i := by
  by_cases op : (headOp s.cpu.head).toNat = 0 ∨ 12 ≤ (headOp s.cpu.head).toNat % 16
  · exact verdict_illegal op hd
  · obtain ⟨h0, hr⟩ := not_or.mp op
    have reserved : opReserved (headOp s.cpu.head) = false := by simpa [opReserved] using hr
    have legal : ((headOp s.cpu.head).toNat == 0 || opReserved (headOp s.cpu.head)) = false := by simp [h0, reserved]
    rcases h with h | h | ⟨sup, unit, scope, fits, met, go⟩
    · exact absurd h h0
    · exact absurd h (by simp [reserved])
    have supB : (opNeedsSup (headOp s.cpu.head).toNat && !s.cpu.sup) = false := by
      cases hs : opNeedsSup (headOp s.cpu.head).toNat with
      | false => rfl
      | true => simp [sup hs]
    have unitB : (opBarrelOnly (headOp s.cpu.head).toNat && isUtell s.cpu.core) = false := by
      cases hb : opBarrelOnly (headOp s.cpu.head).toNat with
      | false => rfl
      | true => simp [unit hb]
    have c : s.cpu.chk = false ∨ s.cpu.undersized (s.cpu.sources s.isSup i) = none := by
      cases hc : s.cpu.chk with
      | false => exact .inl rfl
      | true => exact .inr (met hc)
    rw [verdict_ready legal supB unitB hd scope fits c, go]
    rfl

theorem checked_issue {s : State} {i : Instr} (h : s.verdict = .issue i) : s.checked = .inl i := by
  rw [State.checked, h]

section
variable (t : Thread) (d : Option Nat)

theorem sources_issued (b : Bool) (i : Instr) : Thread.sources { t with issued := d } b i = t.sources b i := rfl

theorem undersized_issued (l : List Nat) : Thread.undersized { t with issued := d } l = t.undersized l := by
  induction l with
  | nil => rfl
  | cons r l ih => rw [Thread.undersized, Thread.undersized, ih]

theorem mustWait_issued (b : Bool) (op : Nat) (i : Instr) : Thread.mustWait { t with issued := d } b op i = t.mustWait b op i := by
  rw [Thread.mustWait, Thread.mustWait, sources_issued]
  rfl

theorem prefixFits_issued (op : Nat) : Thread.prefixFits { t with issued := d } op = t.prefixFits op := rfl

end

/-- Where an instruction issues is no part of whether it does. -/
theorem issues_issued {s : State} {d : Thread → Option Nat} {sl : Slotted} {i : Instr} :
    (s.modCpu (fun t => { t with issued := d t })).issues sl i ↔ s.issues sl i := by
  simp only [State.issues, State.modCpu_cpu, undersized_issued, sources_issued, mustWait_issued, prefixFits_issued]
  exact Iff.rfl

/-- The state of a cycle's first half: it has passed and the rotation stands, while the marks of the last wait are still there. -/
def State.rotated (s : State) : State :=
  let s1 := { s with turn := none }.cycle s.cpu.core
  s1.modCore s.cpu.core (fun (k : Core) => { k with rr := s1.cpu.slot })

section
variable (s : State)

theorem rotated_cpu : ∃ h, s.rotated.cpu = { s.cpu with hold := h } := cycle_cpu { s with turn := none } s.cpu.core

@[simp] theorem rotated_core : s.rotated.cpu.core = s.cpu.core := by
  obtain ⟨h, e⟩ := rotated_cpu s
  rw [e]

theorem rotated_stepping : (s.rotated.core s.cpu.core).stepping = (s.core s.cpu.core).stepping := by
  have cycled : (({ s with turn := none }.cycle s.cpu.core).core s.cpu.core).stepping = (s.core s.cpu.core).stepping := by
    show (({ s with turn := none }.modCore s.cpu.core (fun k => { k with cyc := k.cyc + 1#64 })).core s.cpu.core).stepping = _
    rw [State.core_modCore, if_pos rfl]
    rfl
  rw [State.rotated, State.core_modCore, if_pos rfl]
  exact cycled

@[simp] theorem rotated_onlyFetch : s.rotated.onlyFetch = s.onlyFetch := by
  obtain ⟨h, e⟩ := rotated_cpu s
  refine onlyFetch_congr ?_ rfl rfl ?_
  · rw [e]
    exact ⟨rfl, rfl, rfl, rfl⟩
  · exact rotated_stepping s

theorem entering_eq : s.entering = (s.rotated.modCpu (fun t => { t with wait := .none, again := false, refetch := false })).modCpu
    (fun t => { t with fresh := false }) := rfl

theorem entering_cpu : ∃ h, s.entering.cpu = { s.cpu with hold := h, wait := .none, again := false, refetch := false, fresh := false } := by
  obtain ⟨h, e⟩ := rotated_cpu s
  exact ⟨h, by rw [entering_eq, State.modCpu_cpu, State.modCpu_cpu, e]⟩

@[simp] theorem entering_pc : s.entering.cpu.pc = s.cpu.pc := by
  obtain ⟨h, e⟩ := entering_cpu s
  rw [e]

@[simp] theorem entering_staleCur : s.entering.cpu.staleCur = s.cpu.staleCur := by
  obtain ⟨h, e⟩ := entering_cpu s
  rw [e]

/-- What an issue begins with, the instruction of which then stands in the latch. -/
theorem entered_eq (src : Option Found) (is : List Slotted) (sl : Slotted) : s.entered src is sl =
    (s.entering.latched src is sl).modCpu (fun t => { t with issued := some (dieOf t.core) }) := by
  rw [State.entered, State.latched, entering_pc]
  rfl

end

theorem entered_core (s : State) (src : Option Found) (is : List Slotted) (sl : Slotted) : (s.entered src is sl).cpu.core = s.cpu.core := by
  obtain ⟨h, e⟩ := entering_cpu s
  rw [entered_eq, State.latched]
  simp only [State.modCpu_cpu]
  rw [holdLine_cpu, e]

theorem prepare_issues {s : State} {src : Option Found} {is : List Slotted} {sl : Slotted} {i : Instr} (ready : s.ready s.cur = true)
    (only : s.onlyFetch = false) (nothing : s.cpu.fresh = false ∧ s.cpu.flushed = false ∧ s.cpu.trapDue = none)
    (enter : s.entering.enterLine = .ok (s.entering.latched src is sl)) (check : (s.entering.latched src is sl).checked = .inl i) :
    s.prepare s.cur = .inl (i, s.entered src is sl) := by
  have before : (s.rotated.modCpu (fun t => { t with wait := .none, again := false, refetch := false })).beforeIssue = none := by
    obtain ⟨fresh, flushed, due⟩ := nothing
    obtain ⟨h, e⟩ := rotated_cpu s
    apply beforeIssue_none
    · rw [State.modCpu_cpu, e]
      exact fresh
    · rw [State.modCpu_cpu, e]
      exact flushed
    · rw [State.modCpu_cpu, e]
      exact due
  have focus : ({ s with turn := none }).focus s.cur = { s with turn := none } := by rw [State.focus, if_pos rfl]
  have rot : ({ s with turn := none }.cycle s.cpu.core).modCore s.cpu.core
      (fun k => { k with rr := ({ s with turn := none }.cycle s.cpu.core).cpu.slot }) = s.rotated := rfl
  rw [entered_eq]
  rw [entering_eq] at enter check ⊢
  simp only [State.prepare, ready, focus, cycle_core, rot, before, rotated_onlyFetch, only, enter, check, Bool.not_true, Bool.false_eq_true,
    if_false]

/-- Settles O58: the line is entered and its instruction passes the checks; the facts about the line are those of `lineOf`. -/
theorem stepRunsDecoded : Obligations.StepRunsDecoded := by
  refine ⟨?step, fun s la => ⟨fun c h fresh => lineOf_held h fresh, fun l => ⟨fun h => lineSeen_none h l, fun c h =>
    ⟨lineSeen_shown h, lineSeen_hidden h⟩⟩, fun h l is clean line => ?fetch⟩⟩
  case fetch =>
    rw [lineOf_fetched h]
    exact ⟨fetchLine_local clean line, fun va c ap found ⟨pa, hl⟩ => fetchLine_direct clean line hl ap found⟩
  case step =>
    intro s src is sl i turn ready fresh flushed due only stale high h0 line at_ hd issues
    have enter : s.entering.enterLine = .ok (s.entering.latched src is sl) := by
      apply enterLine_ok
      all_goals simpa
    rw [entered_eq, issues_issued (d := fun t => some (dieOf t.core))] at issues
    have check : (s.entering.latched src is sl).checked = .inl i := checked_issue (verdict_issues hd issues)
    have move : s.nextTurn = some (.issue s.cur) := by rw [State.nextTurn, turn]
    rw [step, move, State.runTurn, prepare_issues ready only ⟨fresh, flushed, due⟩ enter check,
      ← entered_core s src is sl]
    rfl

end Sys2Proof.Machine
end

section
namespace Sys2Proof.Machine

set_option Elab.async false

/-! ### An answered relaxed store (R219) -/

/-- A relaxed store of supervisor context 0 that its die has posted and that is now answered. -/
def relaxedAnswered : State :=
  { State.reset with
    subject := some (.wordRequestAnswer (.sup 0) 0)
    cpu := { State.reset.cpu with outs := [{ regs := [], ordinary := false, relaxed := true, op := 1 }] }
    posted := [{ die := 0, at_ := .direct 0, size := 8, val := 1, ctx := .sup 0, by_ := {}, op := 1 }] }

/-- Refutes O51: a relaxed store that is answered is drained first (`execWordRequestAnswer`, R219), which the table's row of
`wordRequestAnswer` leaves out, so that after it the write is still posted. -/
theorem not_contactEvents : ¬ Obligations.ContactEvents := by
  intro h
  have row := h relaxedAnswered (.wordRequestAnswer (.sup 0) 0) _ rfl (.inl rfl)
  have drained : ∃ t, exec Instr.wordRequestAnswer relaxedAnswered = .next t ∧ t.posted = [] := ⟨_, rfl, by decide⟩
  obtain ⟨t, ht, empty⟩ := drained
  rw [show (Event.wordRequestAnswer (.sup 0) 0).row = Instr.wordRequestAnswer from rfl, ht] at row
  have same := congrArg State.posted (Host.Outcome.next.inj row)
  rw [empty] at same
  exact absurd same (by decide)

end Sys2Proof.Machine
end

section
namespace Sys2Proof.Machine

set_option Elab.async false

/-! ### The first partition record of a module whose memory was never initialised (R218, R425) -/

/-- A module in which no partition was ever made, with a legal record of partition 1 that awaits its last word: all of die 0, one
strand, one task entry. -/
def firstRecord : State :=
  { State.reset with
    subject := some (.partitionRecordCommit 1 0#64)
    prec := [(16, 0x102000001#64), (17, 0x100000000#64), (23, 0x1#64), (25, 0x1#64)] }

/-- The words of that record. -/
def firstRecordWords : List Word := [0x102000001#64, 0x100000000#64] ++ List.replicate 5 0#64 ++ [0x1#64, 0#64, 0x1#64] ++ List.replicate 6 0#64

/-- The module with the last word of the record written. -/
def wholeRecord : State := { firstRecord with prec := insert 31 0#64 firstRecord.prec }

/-- The partition that the record describes, with its trigger counters. -/
def firstPart : Part := { partOf firstRecordWords with trigBase := [(0, 0)] }

theorem firstRecord_shape : recordShape firstRecordWords 1 = true := by decide +kernel

@[simp] theorem startCore_memInited (s : State) (p : Part) (c : Nat) : (s.startCore p c).memInited = s.memInited := by
  rw [State.startCore]
  split
  · rfl
  · rw [State.setThread]
    split
    · rfl
    · rfl

theorem startCores_memInited (p : Part) (l : List Nat) (s : State) : (l.foldl (fun s c => s.startCore p c) s).memInited = s.memInited := by
  induction l generalizing s with
  | nil => rfl
  | cons c l ih => rw [List.foldl_cons, ih, startCore_memInited]

theorem firstRecord_words : firstRecord.recordWords 1 0#64 = firstRecordWords := by decide

/-- With no partition on a die, its trigger counters are free from number 0 on. -/
theorem trigRange_none {s : State} {d n : Nat} (h : s.partsOn d = []) (hn : n ≤ 4096) : s.trigRange d n = some 0 := by
  simp [State.trigRange, h, hn]

theorem firstRecord_ranges :
    wholeRecord.trigRanges (partOf firstRecordWords) (partOf firstRecordWords).dies = some [(0, 0)] := by
  rw [show (partOf firstRecordWords).dies = [0] by decide +kernel, State.trigRanges, State.trigRanges,
    trigRange_none rfl (by decide +kernel)]

theorem firstRecord_free :
    (wholeRecord.part? 1 = none ∧
      wholeRecord.nodesFree (partOf firstRecordWords) = true) ∧
    ∀ d ∈ (partOf firstRecordWords).dies, wholeRecord.sumsAllow (partOf firstRecordWords) d = true := by
  decide +kernel

theorem firstRecord_legal : ¬ (!recordShape firstRecordWords 1 || (wholeRecord.part? 1).isSome
    || !wholeRecord.nodesFree (partOf firstRecordWords)
    || !(partOf firstRecordWords).dies.all (wholeRecord.sumsAllow (partOf firstRecordWords))) = true := by
  decide +kernel

/-- The module initialises its memory with its first partition record. -/
theorem firstRecord_commit : ∃ u, exec .partitionRecordCommit firstRecord = .next u ∧ u.memInited = true := by
  refine ⟨wholeRecord.commitRecord 1 (firstRecord.recordWords 1 0#64), rfl, ?_⟩
  rw [firstRecord_words, State.commitRecord]
  dsimp only
  rw [if_neg firstRecord_legal, firstRecord_ranges]
  dsimp only
  rw [startCores_memInited]
  rfl

/-- The table leaves it as it was. -/
theorem firstRecord_row : ∃ t, controlEvent firstRecord (.partitionRecordCommit 1 0#64) = some t ∧ t.memInited = false := by
  obtain ⟨⟨none, nodes⟩, sums⟩ := firstRecord_free
  have words : (List.range 15).map (fun i => (lookup (16 * 1 + i) firstRecord.prec).getD 0#64) ++ [0#64] = firstRecordWords := firstRecord_words
  have row : controlEvent firstRecord (.partitionRecordCommit 1 0#64) = some
      (firstPart.cores.foldl (fun s c => s.startCore firstPart c)
        { wholeRecord.takeNodes firstPart with
          parts := firstRecord.parts ++ [firstPart] }) := by
    rw [controlEvent, show { firstRecord with prec := insert (16 * 1 + 15) 0#64 firstRecord.prec } = wholeRecord from rfl]
    dsimp only
    rw [words, if_pos ⟨firstRecord_shape, none, nodes, sums⟩, firstRecord_ranges]
    rfl
  refine ⟨_, row, ?_⟩
  rw [startCores_memInited]
  rfl

/-- Refutes O53: the first partition record initialises memory (`commitRecord`), which the table's row of `partitionRecordCommit` leaves
out. -/
theorem not_controlEvents : ¬ Obligations.ControlEvents := by
  rintro ⟨row, -⟩
  obtain ⟨t, ht, cold⟩ := firstRecord_row
  obtain ⟨u, hu, inited⟩ := firstRecord_commit
  have same := row firstRecord (.partitionRecordCommit 1 0#64) t rfl (.inr ht)
  rw [show (Event.partitionRecordCommit 1 0#64).row = .partitionRecordCommit from rfl, hu] at same
  rw [← Host.Outcome.next.inj same, inited] at cold
  cases cold

end Sys2Proof.Machine
end

section

namespace Sys2Proof.Machine

set_option Elab.async false

/-! ### Answers in a register (R58, R94) -/

theorem busy_eq : busy = refused 1 := by decide +kernel

theorem badShape_eq : badShape = refused 2 := by decide +kernel

theorem badHandle_eq : badHandle = refused 3 := by decide +kernel

theorem denied_eq : denied = refused 4 := by decide +kernel

theorem noSpace_eq : noSpace = refused 5 := by decide +kernel

/-- A value in a register of which nothing is in flight reads back there. -/
theorem rd_of_produce (d : Reg) (v : Word) : BitVec.ofNat 64 (placeVal d.toNat v.toNat) = if d = 0#5 then 0#64 else v := by
  rw [placeVal]
  by_cases z : d = 0#5
  · subst z
    rfl
  · have z' : d.toNat ≠ 0 := fun x => z (BitVec.eq_of_toNat_eq x)
    rw [if_neg z', if_pos d.isLt, if_neg z, Nat.mod_eq_of_lt v.isLt, BitVec.ofNat_toNat, BitVec.setWidth_eq]

theorem answers_answerDone {s : State} (fl : s.flows) (d : Reg) (v : Word) : Answers s (s.answerDone d v) d v := by
  have e := (Effect.refl s.cpu).answer [(d.toNat, v.toNat)] false false 0
  refine ⟨completes_doneHold (f := fun t => t.answer [(d.toNat, v.toNat)] false false) fl e 0, ?_⟩
  have p := s.cpu.produce_one d.toNat v.toNat
  show Thread.rd (State.doneHold (s.setPend d v) 0).cpu d = _
  rw [doneHold_eq (s := s) (u := s.setPend d v) fl e.pc e.lineN, Thread.rd_eq_reg, doneTo_reg _ _ _ _ p.2]
  exact (congrArg (BitVec.ofNat 64) p.1).trans (rd_of_produce d v)

theorem gives_answerDone {s s1 : State} {i : Instr} {d : Reg} {v : Word} (h : exec i s = .next (s1.answerDone d v)) : Gives s i s1 d v :=
  fun fl => ⟨_, h, answers_answerDone fl d v⟩

theorem refuses_answerDone {s : State} {i : Instr} {d : Reg} {v : Word} {reason : Nat} (h : exec i s = .next (s.answerDone d v))
    (e : v = refused reason) : Refuses s i d reason := by
  subst e
  exact gives_answerDone h

/-! ### Draining posted writes leaves all of a die but its blocks -/

/-- A state with the same dies, but for the data of their blocks. -/
def SameDies (s t : State) : Prop := ∀ d, ∃ bs, t.die d = { s.die d with blocks := bs }

theorem SameDies.refl (s : State) : SameDies s s := fun _ => ⟨_, rfl⟩

theorem SameDies.of_eq {s t u : State} (h : SameDies s t) (e : u.dies = t.dies := by rfl) : SameDies s u := fun d => by
  obtain ⟨bs, hb⟩ := h d
  refine ⟨bs, Eq.trans ?_ hb⟩
  rw [State.die, e, State.die]

theorem SameDies.setBlock {s t : State} (h : SameDies s t) (d : Nat) (b : Block) : SameDies s (t.setBlock d b) := fun k => by
  obtain ⟨bs, hb⟩ := h k
  rw [State.setBlock, State.die_modDie]
  split
  next e =>
    subst e
    rw [hb]
    exact ⟨_, rfl⟩
  next => exact ⟨bs, hb⟩

theorem SameDies.modBank {s t : State} (h : SameDies s t) (l : Loc) (n : Nat) (f : Bank → Nat → Bank) : SameDies s (t.modBank l n f) := by
  cases l with
  | loc core off => exact .of_eq h
  | direct pa => exact .of_eq h
  | frame d key off => exact .setBlock h d _

theorem SameDies.drainOne {s t : State} (h : SameDies s t) (p : Posted) : SameDies s (t.drainOne p) := by
  have written : SameDies s ((t.noteStore p.by_ p.at_ p.val p.size).writeCopy p.at_ p.val p.size) :=
    .modBank (.of_eq h) _ _ _
  rw [State.drainOne]
  split
  · exact .modBank written _ _ _
  · exact written

/-- What holds once the drained writes are posted no longer, and is kept as each is performed, holds in the end. -/
theorem State.drain_induction {P : State → Prop} (s : State) (f : Posted → Bool) (first : P { s with posted := (splitPosted f s.posted).2 })
    (next : ∀ t p, P t → P (t.drainOne p)) : P (s.drain f) := by
  have all (l : List Posted) (u : State) (hu : P u) : P (l.foldl State.drainOne u) := by
    induction l generalizing u with
    | nil => exact hu
    | cons p l ih => exact ih _ (next u p hu)
  exact all _ _ first

theorem SameDies.drain {s t : State} (h : SameDies s t) (f : Posted → Bool) : SameDies s (t.drain f) :=
  t.drain_induction f (.of_eq h) fun _ p hu => hu.drainOne p

theorem SameDies.release {s t : State} (h : SameDies s t) (sc : Scope) : SameDies s (t.release sc) := by
  rw [State.release]
  split
  · exact h.drain _
  · exact h

theorem State.modBank_cur (s : State) (l : Loc) (n : Nat) (f : Bank → Nat → Bank) : (s.modBank l n f).cur = s.cur := by
  cases l
  all_goals rfl

theorem State.drainOne_cur (s : State) (p : Posted) : (s.drainOne p).cur = s.cur := by
  rw [State.drainOne]
  split
  · exact ((State.modBank_cur _ _ _ _).trans (State.modBank_cur _ _ _ _)).trans rfl
  · exact (State.modBank_cur _ _ _ _).trans rfl

theorem State.drain_cur (s : State) (f : Posted → Bool) : (s.drain f).cur = s.cur :=
  s.drain_induction (P := fun t => t.cur = s.cur) f rfl fun t p h => (t.drainOne_cur p).trans h

theorem State.release_cur (s : State) (sc : Scope) : (s.release sc).cur = s.cur := by
  rw [State.release]
  split
  · exact s.drain_cur _
  · rfl

end Sys2Proof.Machine
end

section

namespace Sys2Proof.Machine

set_option Elab.async false

/-! ### A context after a change -/

/-- A context changed is the changed context. -/
theorem State.thread?_modThread (s : State) (c : CtxId) (f : Thread → Thread) : (s.modThread c f).thread? c = (s.thread? c).map f := by
  rw [State.modThread]
  rcases Option.eq_none_or_eq_some (s.thread? c) with h | ⟨t, h⟩
  · simp only [h, Option.map_none]
  · simp only [h, Option.map_some]
    unfold State.setThread State.thread?
    unfold State.thread? at h
    by_cases e : c = s.cur
    · rw [if_pos e]
      exact if_pos e
    · rw [if_neg e] at h ⊢
      cases c with
      | strand sid =>
        rw [if_neg e]
        exact (lookup_insert ..).trans (if_pos rfl)
      | sup core =>
        rw [if_neg e]
        dsimp only at h ⊢
        split at h
        next low =>
          rw [if_pos low, lookup_insert, if_pos rfl, Option.getD_some]
        next => cases h

/-- What a strand's context keeps while it joins a pool or takes a slot. -/
structure Thread.SameContext (t u : Thread) : Prop where
  pc : u.pc = t.pc
  lid : u.lid = t.lid
  part : u.part = t.part
  asid : u.asid = t.asid
  sts : u.sts = t.sts
  home : u.home = t.home
  regs : u.regs = t.regs
  flushed : u.flushed = t.flushed

theorem Thread.SameContext.trans {t u v : Thread} (h : t.SameContext u) (k : u.SameContext v) : t.SameContext v :=
  ⟨k.pc.trans h.pc, k.lid.trans h.lid, k.part.trans h.part, k.asid.trans h.asid, k.sts.trans h.sts, k.home.trans h.home,
    k.regs.trans h.regs, k.flushed.trans h.flushed⟩

theorem Thread.SameContext.refl (t : Thread) : t.SameContext t := ⟨rfl, rfl, rfl, rfl, rfl, rfl, rfl, rfl⟩

theorem State.modThread_cur (s : State) (c : CtxId) (f : Thread → Thread) : (s.modThread c f).cur = s.cur := by
  rw [State.modThread]
  split
  · rfl
  · unfold State.setThread
    split
    · rfl
    · cases c
      · rfl
      · rfl

/-- A strand that is in a state in the same context as `t`, and not the one in issue unless it was. -/
structure State.Holds (s : State) (sid : Nat) (t : Thread) (cur : CtxId) : Prop where
  thread : ∃ u, s.thread? (.strand sid) = some u ∧ t.SameContext u
  cur : s.cur = cur

theorem State.Holds.modThread {s : State} {sid : Nat} {t : Thread} {cur : CtxId} (h : s.Holds sid t cur) {f : Thread → Thread}
    (hf : ∀ u : Thread, u.SameContext (f u)) : (s.modThread (.strand sid) f).Holds sid t cur := by
  obtain ⟨⟨u, hu, same⟩, hc⟩ := h
  exact ⟨⟨f u, (State.thread?_modThread _ _ _).trans (congrArg _ hu), same.trans (hf u)⟩, (State.modThread_cur _ _ _).trans hc⟩

/-- What a state has of its strands and of the context in issue. -/
theorem State.Holds.of_eq {s s' : State} {sid : Nat} {t : Thread} {cur : CtxId} (h : s.Holds sid t cur)
    (threads : ∀ c, s'.thread? c = s.thread? c := by exact fun _ => rfl) (hcur : s'.cur = s.cur := by rfl) : s'.Holds sid t cur := by
  obtain ⟨⟨u, hu, same⟩, hc⟩ := h
  exact ⟨⟨u, (threads _).trans hu, same⟩, hcur.trans hc⟩

theorem State.modLaunch_cur (s : State) (lid : Word) (f : Launch → Launch) : (s.modLaunch lid f).cur = s.cur := by
  rw [State.modLaunch]
  split
  · rfl
  · rfl

theorem State.crosses_cur (s : State) (t : Thread) (d : Nat) : (s.crosses t d).cur = s.cur := by
  rw [State.crosses]
  split
  · rfl
  · exact s.modLaunch_cur _ _

theorem State.Holds.comes {s : State} {sid : Nat} {t : Thread} {cur : CtxId} (h : s.Holds sid t cur) (v : Thread) (d : Nat)
    (bound : Option Nat) : (s.comes v d sid bound).Holds sid t cur := by
  have crossed : (s.crosses v d).Holds sid t cur := .of_eq h (s.crosses_thread? v d) (s.crosses_cur v d)
  have left := crossed.modThread (f := fun t => { t with visitor := none }) fun _ => ⟨rfl, rfl, rfl, rfl, rfl, rfl, rfl, rfl⟩
  have dropped : ((s.crosses v d).dropVisitor sid).Holds sid t cur := .of_eq left
  exact dropped.modThread fun _ => ⟨rfl, rfl, rfl, rfl, rfl, rfl, rfl, rfl⟩

/-- A strand with its registers in place takes a slot with its context as it was. -/
theorem State.Holds.enterSlot {s : State} {sid : Nat} {t : Thread} {cur : CtxId} (h : s.Holds sid t cur) (full : t.flushed = false)
    (c sl : Nat) : (s.enterSlot sid c sl).Holds sid t cur := by
  have seated : ((s.modCore c (fun k => { k with slots := insert sl sid k.slots })).modThread (.strand sid) (fun t => { t with
      place := .slot, core := c, slot := sl, wait := .none, overflowed := false, fresh := true })).Holds sid t cur :=
    .modThread (.of_eq h) fun _ => ⟨rfl, rfl, rfl, rfl, rfl, rfl, rfl, rfl⟩
  obtain ⟨u, hu, same⟩ := seated.thread
  rw [State.enterSlot]
  simp only [hu, same.flushed.trans full, Bool.false_eq_true, if_false]
  exact seated

theorem State.Holds.seat {s : State} {sid : Nat} {t : Thread} {cur : CtxId} (h : s.Holds sid t cur) (full : t.flushed = false)
    (d : Nat) (e : PoolEntry) : (s.seat d sid e).Holds sid t cur := by
  rw [State.seat]
  split
  · exact h
  · exact .enterSlot (.of_eq h) full _ _

theorem State.Holds.enterPool {s : State} {sid : Nat} {t : Thread} {cur : CtxId} (ht : s.thread? (.strand sid) = some t) (hc : s.cur = cur)
    (full : t.flushed = false) {d : Nat} (alive : t.doomed ≠ some d) (bound : Option Nat) : (s.enterPool d sid bound).Holds sid t cur := by
  rw [enterPool_eq ht, if_neg (by simp [alive])]
  exact .seat (.of_eq (.comes ⟨⟨t, ht, .refl t⟩, hc⟩ t d bound)) full d _

/-! ### The context of a new strand (R106, R107) -/

theorem args_getD (a b c e : Word) {k : Nat} (h : 24 ≤ k) (h' : k < 32) :
    (([a, b, c, e] ++ List.replicate 4 0#64).getD (k - 24) 0#64).toNat =
      if k = 24 then a.toNat else if k = 25 then b.toNat else if k = 26 then c.toNat else if k = 27 then e.toNat else 0 := by
  interval_cases k
  all_goals rfl

theorem newThread_reg (p : Part) (sid asid : Nat) (pc lid sts a b c e : Word) {k : Nat} (h : k < 32) :
    ((newThread p sid asid pc lid sts [a, b, c, e]).regs[k]).toNat =
      if k = 24 then a.toNat else if k = 25 then b.toNat else if k = 26 then c.toNat else if k = 27 then e.toNat else 0 := by
  show ((fileOf zero8 zero8 zero8 ([a, b, c, e] ++ List.replicate 4 0#64))[k]).toNat = _
  rw [fileOf_get rfl rfl rfl h, zero8_getD, zero8_getD, zero8_getD]
  by_cases low : k < 24
  · rw [if_neg (show ¬ k = 24 by omega), if_neg (show ¬ k = 25 by omega), if_neg (show ¬ k = 26 by omega),
      if_neg (show ¬ k = 27 by omega)]
    split_ifs
    all_goals rfl
  · rw [if_neg (by omega), if_neg (by omega), if_neg low]
    exact args_getD a b c e (by omega) h

theorem newThread_settled (p : Part) (sid asid : Nat) (pc lid sts a b c e : Word) (k : Nat) :
    (newThread p sid asid pc lid sts [a, b, c, e]).settled k =
      if k = 24 then a.toNat else if k = 25 then b.toNat else if k = 26 then c.toNat else if k = 27 then e.toNat else 0 := by
  show (newThread p sid asid pc lid sts [a, b, c, e]).reg k = _
  rw [Thread.reg]
  by_cases h0 : k = 0
  · subst h0
    rfl
  by_cases h : k < 32
  · rw [if_neg h0, dif_pos h]
    exact newThread_reg p sid asid pc lid sts a b c e h
  rw [if_neg h0, dif_neg h, if_neg (show ¬ k = 24 by omega), if_neg (show ¬ k = 25 by omega), if_neg (show ¬ k = 26 by omega),
    if_neg (show ¬ k = 27 by omega)]
  split
  · simp [newThread, Vector.get_eq_getElem]
  · split
    · simp [newThread, Vector.get_eq_getElem]
    · rfl

theorem spillTop_eq (p : Part) (d x : Nat) : p.spillTop d x =
    p.spbase + word (((p.dies.takeWhile (· != d)).length * 524288 + x + 1) * (1024 * 2 ^ p.zsz)) := by
  show p.spbase + word (_ * 524288 * (1024 <<< p.zsz) + (x + 1) * (1024 <<< p.zsz)) = _
  rw [Nat.shiftLeft_eq, Nat.add_assoc _ x 1, ← Nat.add_mul]

/-! ### The level of a new strand (R108) -/

theorem childSts_or (sts : Word) (v : Nat) : childSts sts v = (sts &&& 0xD001#64) ||| word (512 * (v % 4)) := by
  apply BitVec.eq_of_getLsbD_eq
  intro i hi
  have mask : (0xD001#64).getLsbD 9 = false ∧ (0xD001#64).getLsbD 10 = false := by decide
  have level : (word (512 * (v % 4))).getLsbD i = (decide (9 ≤ i) && (decide (i - 9 < 2) && v.testBit (i - 9))) := by
    rw [word, BitVec.getLsbD_ofNat, decide_eq_true hi, Bool.true_and, show 512 = 2 ^ 9 from rfl, show 4 = 2 ^ 2 from rfl,
      Nat.testBit_two_pow_mul, Nat.testBit_mod_two_pow]
  rw [childSts, ← bitOf, bitOf_setField _ (by decide) _ hi, BitVec.getLsbD_or, level]
  by_cases inside : 9 ≤ i ∧ i ≤ 10
  · have off : ((sts &&& 0xD001#64).getLsbD i) = false := by
      rw [BitVec.getLsbD_and]
      obtain rfl | rfl : i = 9 ∨ i = 10 := by omega
      · rw [mask.1, Bool.and_false]
      · rw [mask.2, Bool.and_false]
    rw [if_pos inside, off, decide_eq_true inside.1, decide_eq_true (by omega)]
    simp
  · have none : (decide (9 ≤ i) && decide (i - 9 < 2)) = false := by
      rw [Bool.and_eq_false_iff, decide_eq_false_iff_not, decide_eq_false_iff_not]
      omega
    rw [if_neg inside, ← Bool.and_assoc, none, Bool.false_and, Bool.or_false, bitOf]

theorem childSts_eq (s : State) (m : SpawnPri) (p : Part) : childSts s.cpu.sts (ceilPri p (spawnPri m s.cpu)) =
    (s.cpu.sts &&& 0xD001#64) ||| word (512 * (max (askedLevel s m) p.pric % 4)) := by
  have asked : spawnPri m s.cpu = askedLevel s m := by cases m <;> rfl
  rw [childSts_or, asked, ceilPri]
  congr 4
  split
  · omega
  · omega

/-! ### SPAWN (R94, R98, R100, R108) -/

theorem startOk_iff (pc : Word) : startOk pc = true ↔ field pc 63 57 = 0 ∧ 1 ≤ field pc 5 0 ∧ field pc 5 0 ≤ 31 := by
  rw [startOk, Bool.and_eq_true, Bool.and_eq_true, beq_iff_eq, bne_iff_ne, decide_eq_true_eq, and_assoc, Nat.one_le_iff_ne_zero]

theorem exec_spawn {s : State} {m : SpawnPri} {d a : Reg} {start : Word} {i : Instr} (p : s.noPrefix)
    (h : (∃ b, i = .spawn m d a b ∧ start = s.rd b) ∨ ∃ l, i = .spawnLabel m d a l ∧ start = branchGoal s.cpu.pc l) :
    exec i s = .next (s.spawn m d a start) := by
  rcases h with ⟨b, rfl, rfl⟩ | ⟨l, rfl, rfl⟩
  · show execSpawn _ _ _ _ s = _
    rw [execSpawn, plain_next p]
  · show execSpawnLabel _ _ _ _ s = _
    rw [execSpawnLabel, plain_next p, branchTarget_eq]

/-- A created strand's record is the first free one of its die. -/
theorem create_snd (s : State) (p : Part) (d : Nat) (bound : Option Nat) (asid : Nat) (pc lid sts : Word) (args : List Word) :
    (s.create p d bound asid pc lid sts args).2 = d * 2 ^ 19 + (s.die d).freeRecs.headD (s.die d).nextRec := by
  show (s.allocRecord d).2 = _
  rw [State.allocRecord]
  split
  next h => rw [h]; rfl
  next h => rw [h]; rfl

/-- A record is taken of its die, and no context changes. -/
theorem allocRecord_cur (s : State) (d : Nat) : (s.allocRecord d).1.cur = s.cur := by
  rw [State.allocRecord]
  split
  · rfl
  · rfl

/-- The context of a created strand. -/
theorem create_holds {s : State} (p : Part) (d : Nat) (bound : Option Nat) (asid : Nat) (pc lid sts : Word) (args : List Word)
    (other : s.cur ≠ .strand (s.create p d bound asid pc lid sts args).2) :
    (s.create p d bound asid pc lid sts args).1.Holds (s.create p d bound asid pc lid sts args).2
      { newThread p (s.create p d bound asid pc lid sts args).2 asid pc lid sts args with
        core := bound.getD (256 * d), home := bound, born := s.tick } s.cur := by
  have made : ({ (s.allocRecord d).1 with threads := insert (s.allocRecord d).2 { newThread p (s.allocRecord d).2 asid pc lid sts args with
        core := bound.getD (256 * d), home := bound, born := (s.allocRecord d).1.tick } (s.allocRecord d).1.threads } : State).thread?
      (.strand (s.allocRecord d).2) = some { newThread p (s.allocRecord d).2 asid pc lid sts args with
        core := bound.getD (256 * d), home := bound, born := (s.allocRecord d).1.tick } := by
    unfold State.thread?
    rw [if_neg (by exact fun e => other ((allocRecord_cur s d).symm.trans e.symm))]
    exact (lookup_insert ..).trans (if_pos rfl)
  have tick : (s.allocRecord d).1.tick = s.tick := by
    rw [State.allocRecord]
    split
    · rfl
    · rfl
  rw [← tick]
  exact State.Holds.enterPool made (allocRecord_cur s d) rfl nofun bound

/-- A strand of the issuing context's launch starts, and its number is the answer. -/
theorem spawn_made {s : State} {m : SpawnPri} {pl : Placed} {start : Word} {p : Part} (hp : s.part? s.cpu.part = some p)
    (hpl : p.allows pl = true)
    (hb : ¬ (p.squota ≤ s.quotaUsed p.num ∨ s.mayCreate pl.die p = false ∨ s.journalFull pl.die = true)) :
    let c := (s.release .part).create p pl.die pl.bound s.cpu.asid start s.cpu.lid
      ((s.cpu.sts &&& 0xD001#64) ||| word (512 * (max (askedLevel s m) p.pric % 4)))
      [s.cpu.regs.get 8, s.cpu.regs.get 9, s.cpu.regs.get 10, s.cpu.regs.get 11]
    spawned s m pl start = (c.1.journal pl.die 1 c.2, word c.2) := by
  rw [spawned, hp]
  dsimp only
  rw [if_neg (by simp [hpl]), if_neg hb]

theorem oregs_take (t : Thread) : t.oregs.take 4 = [t.regs.get 8, t.regs.get 9, t.regs.get 10, t.regs.get 11] := by
  apply List.ext_getElem
  · simp [Thread.oregs]
  · intro n _ h
    have h : n < 4 := h
    interval_cases n
    all_goals simp [Thread.oregs, Vector.get_eq_getElem]

section
variable {s : State} {m : SpawnPri} {d a : Reg} {start : Word} (ok : startOk start = true)
include ok

theorem spawn_noPlace (hpl : place (s.rd a) s.cpu.core = none) : s.spawn m d a start = s.illegal := by
  rw [State.spawn, if_neg (by simp [ok]), hpl]

variable {pl : Placed} (hpl : place (s.rd a) s.cpu.core = some pl)
include hpl

theorem spawn_noPart (hp : s.part? s.cpu.part = none) : s.spawn m d a start = s.answerDone d denied := by
  rw [State.spawn, if_neg (by simp [ok]), hpl]
  dsimp only
  rw [hp]

variable {p : Part} (hp : s.part? s.cpu.part = some p)
include hp

theorem spawn_outside (out : p.allows pl = false) : s.spawn m d a start = s.answerDone d denied := by
  rw [State.spawn, if_neg (by simp [ok]), hpl]
  dsimp only
  rw [hp]
  dsimp only
  rw [if_pos (by simp [out])]

theorem spawn_busy (all : p.allows pl = true)
    (full : p.squota ≤ s.quotaUsed p.num ∨ s.mayCreate pl.die p = false ∨ s.journalFull pl.die = true) :
    s.spawn m d a start = s.answerDone d busy := by
  rw [State.spawn, if_neg (by simp [ok]), hpl]
  dsimp only
  rw [hp]
  dsimp only
  rw [if_neg (by simp [all]), if_pos (by simpa [or_assoc] using full)]

end

theorem exec_spawned {s : State} {m : SpawnPri} {d a : Reg} {pl : Placed} {start : Word} {p : Part} (ok : startOk start = true)
    (hpl : place (s.rd a) s.cpu.core = some pl) (hp : s.part? s.cpu.part = some p) (all : p.allows pl = true)
    (hb : ¬ (p.squota ≤ s.quotaUsed p.num ∨ s.mayCreate pl.die p = false ∨ s.journalFull pl.die = true)) :
    s.spawn m d a start = (spawned s m pl start).1.answerDone d (spawned s m pl start).2 := by
  rw [spawn_made hp all hb, State.spawn, if_neg (by simp [ok]), hpl]
  dsimp only
  rw [hp]
  dsimp only
  rw [if_neg (by simp [all]), if_neg (by simpa [and_assoc] using hb), childSts_eq, oregs_take]

/-- An instruction that completes leaves every other context as its effect leaves it. -/
theorem Completes.thread? {s t : State} {h : Nat} {pc : Word} {ds : List Nat} {sets : Word} {reqs : List Req}
    (c : Completes s t h pc ds sets reqs) {x : CtxId} (other : s.cur ≠ x) : t.thread? x = s.thread? x := by
  have cur : t.cur = s.cur := by rw [c.module]; rfl
  have threads : t.threads = s.threads := by rw [c.module]; rfl
  have sups : t.sups = s.sups := by rw [c.module]; rfl
  unfold State.thread?
  rw [if_neg (cur ▸ fun e => other e.symm), if_neg (fun e => other e.symm), threads, sups]

theorem Thread.reg_scalar (t : Thread) {n : Nat} (h0 : n ≠ 0) (h : n < 32) : t.reg n = (t.regs[n]).toNat := by
  rw [Thread.reg, if_neg h0, dif_pos h]
  rfl

/-- A new strand's i0 to i3 hold its four arguments. -/
theorem newThread_args (t : Thread) (p : Part) (sid asid : Nat) (pc lid sts : Word) {k : Nat} (h : k < 4) :
    ((newThread p sid asid pc lid sts [t.regs.get 8, t.regs.get 9, t.regs.get 10, t.regs.get 11]).regs[24 + k]).toNat =
      t.reg (8 + k) := by
  rw [newThread_reg _ _ _ _ _ _ _ _ _ _ (by omega), Thread.reg_scalar _ (by omega) (by omega)]
  interval_cases k
  all_goals rfl

theorem spawn_record (s : State) (d : Nat) : d * 2 ^ 19 + ((s.release .part).die d).freeRecs.headD ((s.release .part).die d).nextRec =
    d * 2 ^ 19 + (s.die d).freeRecs.headD (s.die d).nextRec := by
  obtain ⟨bs, hb⟩ := (SameDies.refl s).release .part d
  rw [hb]

/-- The state that a created strand leaves holds its context, with its number. -/
theorem spawned_holds {s : State} {m : SpawnPri} {pl : Placed} {start : Word} {p : Part} (hp : s.part? s.cpu.part = some p)
    (hpl : p.allows pl = true)
    (hb : ¬ (p.squota ≤ s.quotaUsed p.num ∨ s.mayCreate pl.die p = false ∨ s.journalFull pl.die = true)) {sid : Nat}
    (hsid : sid = pl.die * 2 ^ 19 + (s.die pl.die).freeRecs.headD (s.die pl.die).nextRec) :
    (spawned s m pl start).2 = word sid ∧ (s.cur ≠ .strand sid → (spawned s m pl start).1.Holds sid
      { newThread p sid s.cpu.asid start s.cpu.lid ((s.cpu.sts &&& 0xD001#64) ||| word (512 * (max (askedLevel s m) p.pric % 4)))
        [s.cpu.regs.get 8, s.cpu.regs.get 9, s.cpu.regs.get 10, s.cpu.regs.get 11] with
        core := pl.bound.getD (256 * pl.die), home := pl.bound, born := (s.release .part).tick } s.cur) := by
  have number := (create_snd (s.release .part) p pl.die pl.bound s.cpu.asid start s.cpu.lid
    ((s.cpu.sts &&& 0xD001#64) ||| word (512 * (max (askedLevel s m) p.pric % 4)))
    [s.cpu.regs.get 8, s.cpu.regs.get 9, s.cpu.regs.get 10, s.cpu.regs.get 11]).trans ((spawn_record s pl.die).trans hsid.symm)
  rw [spawn_made hp hpl hb]
  refine ⟨congrArg word number, fun other => ?_⟩
  rw [← s.release_cur .part] at other ⊢
  have made := create_holds (s := s.release .part) p pl.die pl.bound s.cpu.asid start s.cpu.lid
    ((s.cpu.sts &&& 0xD001#64) ||| word (512 * (max (askedLevel s m) p.pric % 4)))
    [s.cpu.regs.get 8, s.cpu.regs.get 9, s.cpu.regs.get 10, s.cpu.regs.get 11] (by rwa [number])
  rw [number] at made
  exact .of_eq made

theorem newThread_fields (p : Part) (sid asid : Nat) (pc lid sts : Word) (args : List Word) :
    (newThread p sid asid pc lid sts args).pc = pc ∧ (newThread p sid asid pc lid sts args).lid = lid ∧
      (newThread p sid asid pc lid sts args).part = p.num ∧ (newThread p sid asid pc lid sts args).asid = asid ∧
      (newThread p sid asid pc lid sts args).sts = sts := ⟨rfl, rfl, rfl, rfl, rfl⟩

/-- Where a new strand is bound says nothing of the rest of its context. -/
theorem Thread.SameContext.unbound {t u : Thread} {c : Nat} {home : Option Nat} {born : Nat}
    (h : Thread.SameContext { t with core := c, home := home, born := born } u) :
    u.pc = t.pc ∧ u.lid = t.lid ∧ u.part = t.part ∧ u.asid = t.asid ∧ u.sts = t.sts ∧ u.home = home ∧ u.regs = t.regs :=
  ⟨h.pc, h.lid, h.part, h.asid, h.sts, h.home, h.regs⟩

theorem spawn_starts {s : State} {m : SpawnPri} {d a : Reg} {pl : Placed} {start : Word} {p : Part} {i : Instr}
    (entry : exec i s = .next (s.spawn m d a start)) (ok : startOk start = true) (hpl : place (s.rd a) s.cpu.core = some pl)
    (hp : s.part? s.cpu.part = some p) (all : p.allows pl = true)
    (hb : ¬ (p.squota ≤ s.quotaUsed p.num ∨ s.mayCreate pl.die p = false ∨ s.journalFull pl.die = true)) {sid : Nat}
    (hsid : sid = pl.die * 2 ^ 19 + (s.die pl.die).freeRecs.headD (s.die pl.die).nextRec) (fl : (spawned s m pl start).1.flows) :
    ∃ t, exec i s = .next t ∧ Answers (spawned s m pl start).1 t d (word sid) ∧
      (s.cur ≠ .strand sid → ∃ c, t.thread? (.strand sid) = some c ∧ c.pc = start ∧ c.lid = s.cpu.lid ∧ c.part = p.num ∧
        c.asid = s.cpu.asid ∧ c.sts = (s.cpu.sts &&& 0xD001#64) ||| word (512 * (max (askedLevel s m) p.pric % 4)) ∧
        c.home = pl.bound ∧ ∀ k < 4, c.reg (24 + k) = s.cpu.reg (8 + k)) := by
  obtain ⟨number, made⟩ := spawned_holds (m := m) (start := start) hp all hb hsid
  have answers := answers_answerDone fl d (spawned s m pl start).2
  have runs : s.spawn m d a start = (spawned s m pl start).1.answerDone d (spawned s m pl start).2 := exec_spawned ok hpl hp all hb
  rw [← number]
  refine ⟨_, entry.trans (congrArg _ runs), answers, fun other => ?_⟩
  obtain ⟨⟨u, hu, same⟩, cur⟩ := made other
  have left := answers.1.thread? (x := .strand sid) (by rwa [cur])
  obtain ⟨hpc, hlid, hpart, hasid, hsts, hhome, hregs⟩ := same.unbound
  obtain ⟨npc, nlid, npart, nasid, nsts⟩ := newThread_fields p sid s.cpu.asid start s.cpu.lid _ _
  refine ⟨u, left.trans hu, hpc.trans npc, hlid.trans nlid, hpart.trans npart, hasid.trans nasid, hsts.trans nsts, hhome, fun k hk => ?_⟩
  rw [Thread.reg_scalar _ (by omega) (by omega), hregs]
  exact newThread_args s.cpu p _ _ _ _ _ hk

/-- Settles O16: the checks of `SPAWN` in their order (`exec_spawned`), and the context that a created strand keeps while it joins its
die's pool (`spawned_holds`). -/
theorem spawns : Obligations.Spawns := by
  refine ⟨fun s m d a start i p form => ⟨fun bad => ?badStart, fun high low top => ?goodStart⟩,
    fun pt sid asid pc lid sts a b c e => ?fresh⟩
  case fresh =>
    refine ⟨newThread_settled pt sid asid pc lid sts a b c e, rfl, rfl, rfl, rfl, rfl, rfl, rfl, rfl, rfl, rfl, rfl, ?_⟩
    exact spillTop_eq pt (sid / 2 ^ 19) (sid % 2 ^ 19)
  case badStart =>
    have ok : startOk start = false := by
      rw [← Bool.not_eq_true, startOk_iff]
      omega
    rw [exec_spawn p form, State.spawn, if_pos (by simp [ok])]
  case goodStart =>
    have ok := (startOk_iff start).mpr ⟨high, low, top⟩
    have entry : exec i s = .next (s.spawn m d a start) := exec_spawn p form
    refine ⟨fun hpl => ?_, fun pl hpl => ⟨fun hp => ?_, fun pt hp => ⟨fun all => ?_, fun all busy => ?_, fun all hb fl => ?_⟩⟩⟩
    · rw [entry, spawn_noPlace ok hpl]; rfl
    · exact refuses_answerDone (entry.trans (congrArg _ (spawn_noPart ok hpl hp))) denied_eq
    · exact refuses_answerDone (entry.trans (congrArg _ (spawn_outside ok hpl hp all))) denied_eq
    · exact refuses_answerDone (entry.trans (congrArg _ (spawn_busy ok hpl hp all busy))) busy_eq
    · exact spawn_starts entry ok hpl hp all hb rfl fl

end Sys2Proof.Machine
end

section

namespace Sys2Proof.Machine

set_option Elab.async false

/-! ### Records in memory (R221) -/

theorem recordStops_of {s : State} {i : Instr} {d : Reg} {va : Word} {n : Nat}
    (stopped : ∀ s1, s.readRecord va n = .stopped s1 → exec i s = .next s1)
    (walked : s.readRecord va n = .walked → exec i s = .next (s.answerDone d badShape)) : RecordStops s i d va n :=
  ⟨stopped, fun h => refuses_answerDone (walked h) badShape_eq⟩

/-! ### The id of a launch (R109) -/

theorem dieOf_lt {core : Nat} (h : core < 6240) : dieOf core < 24 := by
  rw [dieOf]
  split
  · omega
  · omega

section
variable {d g i : Nat} (hd : d < 32) (hg : g < 2 ^ 15) (hi : i < 4096)
include hd hg hi

theorem lidOf_toNat : (lidOf d g i).toNat = d * 2 ^ 27 + g * 2 ^ 12 + i := by
  rw [lidOf, word, BitVec.toNat_ofNat, Nat.shiftLeft_eq, Nat.shiftLeft_eq]
  exact Nat.mod_eq_of_lt (by omega)

theorem lidOf_fields : field (lidOf d g i) 63 32 = 0 ∧ field (lidOf d g i) 31 27 = d ∧ field (lidOf d g i) 26 12 = g ∧
    field (lidOf d g i) 11 0 = i := by
  simp only [field, lidOf_toNat hd hg hi, Nat.shiftRight_eq_div_pow]
  omega

end

theorem nextGen_lt (x : Die) (d i : Nat) : x.nextGen d i < 2 ^ 15 := by
  unfold Die.nextGen
  dsimp only
  split
  · split
    · decide
    · decide
  · split
    · decide
    · exact Nat.mod_lt _ (by decide)

/-- A free entry of a die is the number of none of its launches. -/
theorem freeLaunch_spec {x : Die} {i : Nat} (h : x.freeLaunch = some i) : i < 4096 ∧ ∀ l ∈ x.launches, l.idx ≠ i := by
  have hm := List.mem_of_find?_eq_some h
  have free := List.find?_some h
  refine ⟨List.mem_range.mp hm, fun l hl e => ?_⟩
  rw [Bool.not_eq_true', List.any_eq_false] at free
  exact free l hl (by rw [e]; exact beq_self_eq_true i)

/-! ### Accepting a launch (R113) -/

/-- The launch that a die accepts. -/
def newLaunch (s : State) (p : Part) (d asid : Nat) (ws : List Word) (by_ port : Option Nat) (sid : Nat) (parent : Word) : Launch :=
  { idx := (s.die d).freeLaunch.getD 0, gen := (s.die d).nextGen d ((s.die d).freeLaunch.getD 0), part := p.num, asid, desc := ws, by_, port,
    sid, parent, hmap := p.hmap }

theorem acceptLaunch_launches (s : State) (p : Part) (d asid : Nat) (ws : List Word) (by_ port : Option Nat) (sid : Nat) (parent : Word) :
    ((s.acceptLaunch p d asid ws by_ port sid parent).1.die d).launches =
      (s.die d).launches ++ [newLaunch s p d asid ws by_ port sid parent] := by
  rw [State.acceptLaunch]
  dsimp only
  rw [State.journal, State.die_modDie, if_pos rfl, State.die, State.setDie, lookup_insert, if_pos rfl]
  rfl

theorem acceptLaunch_launch {s : State} {p : Part} {d asid : Nat} {ws : List Word} {by_ port : Option Nat} {sid : Nat} {parent : Word}
    {i : Nat} (hd : d < 32) (free : (s.die d).freeLaunch = some i) :
    (s.acceptLaunch p d asid ws by_ port sid parent).1.launch? (s.acceptLaunch p d asid ws by_ port sid parent).2 =
      some (newLaunch s p d asid ws by_ port sid parent) := by
  obtain ⟨hi, others⟩ := freeLaunch_spec free
  obtain ⟨high, die, gen, idx⟩ := lidOf_fields hd (nextGen_lt (s.die d) d i) hi
  have id : (s.acceptLaunch p d asid ws by_ port sid parent).2 = lidOf d ((s.die d).nextGen d i) i := by
    show lidOf d ((s.die d).nextGen d ((s.die d).freeLaunch.getD 0)) ((s.die d).freeLaunch.getD 0) = _
    rw [free, Option.getD_some]
  rw [id, State.launch?, if_neg (not_not.mpr high), die, gen, idx, acceptLaunch_launches, List.find?_append]
  have none : (s.die d).launches.find? (fun l => l.idx == i && l.gen == (s.die d).nextGen d i) = none := by
    rw [List.find?_eq_none]
    intro l hl
    simp [others l hl]
  rw [none, Option.none_or, List.find?_cons_of_pos]
  simp [newLaunch, free]

/-! ### LAUNCH (R109 to R113) -/

theorem descRefusal_badStart {p : Part} {ws : List Word} {origin : Nat} {by_ : Option Nat} (h : startOk (ws.headD 0#64) = false) :
    p.descRefusal ws origin by_ = some badShape := by
  have bad : (!descOk ws by_) = true := by simp only [descOk, h, Bool.false_and, Bool.not_false]
  exact if_pos bad

section
variable {s : State} {d a : Reg} (p : s.noPrefix) (aligned : (s.rd a).toNat % 64 = 0)
include p

theorem exec_launch : exec (.launch d a) s = .next (s.doLaunch d a) := by
  show execLaunch _ _ s = _
  rw [execLaunch, plain_next p]

include aligned

theorem launch_stopped {s1 : State} (h : s.readRecord (s.rd a) 64 = .stopped s1) : exec (.launch d a) s = .next s1 := by
  rw [exec_launch p, State.doLaunch]
  dsimp only
  rw [if_neg (by omega), h]

theorem launch_walked (h : s.readRecord (s.rd a) 64 = .walked) : exec (.launch d a) s = .next (s.answerDone d badShape) := by
  rw [exec_launch p, State.doLaunch]
  dsimp only
  rw [if_neg (by omega), h]

variable {s1 : State} {ws : List Word} (h : s.readRecord (s.rd a) 64 = .ok s1 ws)
include h

theorem launch_noPart (hp : s1.part? s1.cpu.part = none) : exec (.launch d a) s = .next (s1.answerDone d denied) := by
  rw [exec_launch p, State.doLaunch]
  dsimp only
  rw [if_neg (by omega), h]
  dsimp only
  rw [hp]

variable {pt : Part} (hp : s1.part? s1.cpu.part = some pt)
include hp

theorem launch_refused {r : Word} (hr : pt.descRefusal ws s1.here (some s1.cpu.core) = some r) :
    exec (.launch d a) s = .next (s1.answerDone d r) := by
  rw [exec_launch p, State.doLaunch]
  dsimp only
  rw [if_neg (by omega), h]
  dsimp only
  rw [hp]
  dsimp only
  rw [hr]

variable (hr : pt.descRefusal ws s1.here (some s1.cpu.core) = none)
include hr

theorem launch_busy (full : s1.launchBusy pt s1.here ws = true) : exec (.launch d a) s = .next (s1.answerDone d busy) := by
  rw [exec_launch p, State.doLaunch]
  dsimp only
  rw [if_neg (by omega), h]
  dsimp only
  rw [hp]
  dsimp only
  rw [hr]
  exact congrArg _ (if_pos full)

variable (room : s1.launchBusy pt s1.here ws = false)
include room

theorem launch_accepted : exec (.launch d a) s = .next ((launched s1 ws).1.answerDone d (launched s1 ws).2) := by
  rw [exec_launch p, State.doLaunch, launched]
  dsimp only
  rw [if_neg (by omega), h]
  dsimp only
  rw [hp]
  dsimp only
  rw [hr]
  dsimp only
  rw [room]
  rfl

omit p aligned h in
theorem launched_launch (low : s1.cpu.core < 6240) : ∃ l, (launched s1 ws).1.launch? (launched s1 ws).2 = some l ∧ l.desc = ws ∧
    l.part = pt.num ∧ l.asid = s1.cpu.asid ∧ l.by_ = some s1.cpu.core ∧ l.sid = s1.cpu.sid ∧ l.parent = s1.cpu.lid ∧ l.made = 0 ∧
    l.ended = false := by
  have made : launched s1 ws = (s1.release .part).acceptLaunch pt s1.here s1.cpu.asid ws (some s1.cpu.core) none s1.cpu.sid s1.cpu.lid := by
    rw [launched, hp]
    dsimp only
    rw [hr]
    dsimp only
    rw [room]
    rfl
  have hd : s1.here < 32 := Nat.lt_trans (dieOf_lt low) (by decide)
  obtain ⟨i, free⟩ : ∃ i, ((s1.release .part).die s1.here).freeLaunch = some i := by
    obtain ⟨bs, hb⟩ := (SameDies.refl s1).release .part s1.here
    rw [State.launchBusy, Bool.or_eq_false_iff, Bool.or_eq_false_iff] at room
    rw [hb]
    exact Option.isSome_iff_exists.mp (Option.isNone_eq_false_iff.mp room.1.2)
  rw [made]
  exact ⟨_, acceptLaunch_launch hd free, rfl, rfl, rfl, rfl, rfl, rfl, rfl, rfl⟩

end

/-- Settles O17: the refusals of `LAUNCH` in their order, and the entry that an accepted launch has (`acceptLaunch_launch`). -/
theorem launches : Obligations.Launches := by
  refine fun s d a p => ⟨fun bad => ?misaligned, fun aligned => ⟨recordStops_of (fun _ => launch_stopped p aligned) (launch_walked p aligned),
    fun s1 ws h => ⟨fun hp => ?noPart, fun pt hp => ⟨fun bad => ?badEntry, fun r hr => ?refused, fun hr full => ?busy, fun hr room low => ?accepted⟩⟩⟩⟩
  case misaligned =>
    rw [exec_launch p, State.doLaunch]
    exact congrArg _ (if_pos bad)
  case noPart => exact gives_answerDone (denied_eq ▸ launch_noPart p aligned h hp)
  case badEntry =>
    have bad : startOk (ws.headD 0#64) = false := by
      rw [← Bool.not_eq_true, startOk_iff]
      omega
    exact gives_answerDone (badShape_eq ▸ launch_refused p aligned h hp (descRefusal_badStart bad))
  case refused => exact gives_answerDone (launch_refused p aligned h hp hr)
  case busy => exact gives_answerDone (busy_eq ▸ launch_busy p aligned h hp hr full)
  case accepted => exact ⟨gives_answerDone (launch_accepted p aligned h hp hr room), launched_launch hp hr room low⟩

end Sys2Proof.Machine
end

section

namespace Sys2Proof.Machine

set_option Elab.async false

/-! ### What accesses leave of the context in issue

Reads, writes, drains and uses of blocks note stale copies of lines and blocks in use in contexts, and nothing else. -/

/-- A context without its copies of lines and the blocks it uses. -/
def Thread.bare (t : Thread) : Thread := { t with lines := [], use := none, passed := [], carried := [] }

/-- The same context is in issue, but for its copies of lines and the blocks it uses. -/
structure SameIssue (s t : State) : Prop where
  cur : t.cur = s.cur
  bare : t.cpu.bare = s.cpu.bare

namespace SameIssue

variable {s t u : State}

theorem refl (s : State) : SameIssue s s := ⟨rfl, rfl⟩

theorem trans (h : SameIssue s t) (k : SameIssue t u) : SameIssue s u := ⟨k.cur.trans h.cur, k.bare.trans h.bare⟩

theorem of_eq (h : SameIssue s t) (cur : u.cur = t.cur := by rfl) (bare : u.cpu.bare = t.cpu.bare := by rfl) : SameIssue s u :=
  h.trans ⟨cur, bare⟩

theorem pc (h : SameIssue s t) : t.cpu.pc = s.cpu.pc := congrArg (·.pc) h.bare

theorem lineN (h : SameIssue s t) : t.cpu.lineN = s.cpu.lineN := congrArg (·.lineN) h.bare

theorem core (h : SameIssue s t) : t.cpu.core = s.cpu.core := congrArg (·.core) h.bare

theorem kill (h : SameIssue s t) : t.cpu.kill = s.cpu.kill := congrArg (·.kill) h.bare

theorem sts (h : SameIssue s t) : t.cpu.sts = s.cpu.sts := congrArg (·.sts) h.bare

theorem regs (h : SameIssue s t) : t.cpu.regs = s.cpu.regs := congrArg (·.regs) h.bare

theorem fly (h : SameIssue s t) : t.cpu.fly = s.cpu.fly := congrArg (·.fly) h.bare

theorem here (h : SameIssue s t) : t.here = s.here := congrArg dieOf h.core

theorem seqPc (h : SameIssue s t) : t.seqPc = s.seqPc := by rw [State.seqPc, h.pc, h.lineN, State.seqPc]

theorem flows (h : SameIssue s t) : t.flows ↔ s.flows := by rw [State.flows, h.pc, h.lineN, State.flows]

theorem noPrefix (h : SameIssue s t) : t.noPrefix ↔ s.noPrefix := by
  have pfxf : t.cpu.pfxf = s.cpu.pfxf := congrArg (bitOf · 2) h.sts
  have pfxr : t.cpu.pfxr = s.cpu.pfxr := congrArg (bitOf · 8) h.sts
  rw [State.noPrefix, pfxf, pfxr, State.noPrefix]

theorem killable (h : SameIssue s t) : t.cpu.killable = s.cpu.killable := by
  have koff : t.cpu.koff = s.cpu.koff := congrArg (bitOf · 13) h.sts
  rw [Thread.killable, h.kill, koff, Thread.killable]

theorem foldl {α : Type} {f : State → α → State} (h : SameIssue s t) (hf : ∀ u a, SameIssue u (f u a)) (l : List α) :
    SameIssue s (l.foldl f t) := by
  induction l generalizing t with
  | nil => exact h
  | cons a l ih => exact ih (h.trans (hf t a))

/-! ### Memory and posted writes -/

theorem modDie (h : SameIssue s t) (d : Nat) (f : Die → Die) : SameIssue s (t.modDie d f) := .of_eq h

theorem setBlock (h : SameIssue s t) (d : Nat) (b : Block) : SameIssue s (t.setBlock d b) := .of_eq h

theorem modBank (h : SameIssue s t) (l : Loc) (n : Nat) (f : Bank → Nat → Bank) : SameIssue s (t.modBank l n f) := by
  cases l
  case loc => exact .of_eq h
  case direct => exact .of_eq h
  case frame => exact .setBlock h _ _

theorem noteStore (h : SameIssue s t) (w : Writer) (l : Loc) (v n : Nat) : SameIssue s (t.noteStore w l v n) := .of_eq h

theorem writeCopy (h : SameIssue s t) (l : Loc) (v n : Nat) : SameIssue s (t.writeCopy l v n) := .modBank h _ _ _

theorem drainOne (h : SameIssue s t) (p : Posted) : SameIssue s (t.drainOne p) := by
  have written := (h.noteStore p.by_ p.at_ p.val p.size).writeCopy p.at_ p.val p.size
  rw [State.drainOne]
  split
  · exact .modBank written _ _ _
  · exact written

theorem drain (h : SameIssue s t) (f : Posted → Bool) : SameIssue s (t.drain f) :=
  t.drain_induction f (.of_eq h) fun _ p hu => hu.drainOne p

theorem release (h : SameIssue s t) (sc : Scope) : SameIssue s (t.release sc) := by
  rw [State.release]
  split
  · exact .drain h _
  · exact h

theorem setD (h : SameIssue s t) (a : Nat) : SameIssue s (t.setD a) := by
  rw [State.setD]
  split
  · exact h
  · exact .writeCopy h _ _ _

theorem setDirty (h : SameIssue s t) (c : Comp) : SameIssue s (t.setDirty c) := by
  rw [State.setDirty]
  split
  · exact .setD h _
  · exact .setD (.writeCopy (.setD h _) _ _ _) _

theorem cacheComp (h : SameIssue s t) (d part asid va : Nat) (c : Comp) (ipas : List Nat) :
    SameIssue s (t.cacheComp d part asid va c ipas) := by
  rw [State.cacheComp]
  dsimp only
  split
  · exact h
  · exact .of_eq h

/-! ### Uses of blocks -/

theorem freeFrame (h : SameIssue s t) (d : Nat) (b : Block) : SameIssue s (t.freeFrame d b) := .of_eq h

theorem startEvict (h : SameIssue s t) (d : Nat) (k : BlockKey) : SameIssue s (t.startEvict d k) := by
  rw [State.startEvict]
  split
  · exact .drain h _
  · split
    · exact .drain h _
    · split
      · exact .freeFrame (.drain h _) _ _
      · exact .setBlock (.drain h _) _ _

theorem noteIdle (h : SameIssue s t) (k : BlockKey) : SameIssue s (t.noteIdle k) := by
  rw [State.noteIdle]
  split
  · exact h
  · dsimp only
    split
    · exact h
    · split
      · exact h
      · split
        · exact .startEvict (.setBlock h _ _) _ _
        · exact .setBlock h _ _

theorem cacheFound (h : SameIssue s t) (f : Found) : SameIssue s (t.cacheFound f) := by
  unfold State.cacheFound
  split
  · exact .cacheComp h _ _ _ _ _ _
  · exact .cacheComp h _ _ _ _ _ _
  · exact h

theorem useBlocks (h : SameIssue s t) (fs : List Found) : SameIssue s (t.useBlocks fs) := by
  rw [State.useBlocks]
  split
  · exact h
  · dsimp only
    split
    · exact .noteIdle (.of_eq h) _
    · exact .of_eq h

theorem touched (h : SameIssue s t) (fs : List Found) : SameIssue s (t.touched fs) :=
  .useBlocks (.foldl h (fun u f => .cacheFound (.refl u) f) fs) fs

theorem touch (h : SameIssue s t) (f : Found) : SameIssue s (t.touch f) := h.touched [f]

theorem ownFirst (h : SameIssue s t) (n : Nat) (fs : List Found) : SameIssue s (t.ownFirst n fs) := .drain h _

theorem dropCarried (h : SameIssue s t) : SameIssue s t.dropCarried := by
  rw [State.dropCarried]
  split
  · exact h
  · exact .foldl (.of_eq h) (fun u k => .noteIdle (.refl u) k) _

theorem dropUse (h : SameIssue s t) : SameIssue s t.dropUse := by
  rw [State.dropUse]
  split
  · exact h
  · exact .noteIdle (.of_eq h) _

/-! ### Stores -/

theorem writeBy (h : SameIssue s t) (w : Writer) (d : Nat) (l : Loc) (v n : Nat) : SameIssue s (t.writeBy w d l v n) :=
  .writeCopy (.noteStore (.drain h _) _ _ _ _) _ _ _

theorem writeAt (h : SameIssue s t) (d : Nat) (l : Loc) (v n : Nat) : SameIssue s (t.writeAt d l v n) := .writeBy h _ _ _ _ _

theorem writeWords (h : SameIssue s t) (d : Nat) (l : Loc) (ws : List Word) : SameIssue s (t.writeWords d l ws) := by
  induction ws generalizing t l with
  | nil => exact h
  | cons w ws ih => exact ih (.writeAt h _ _ _ _) _

/-- The state that a write of the spill stack leaves, where it goes on. -/
theorem spillWrite (h : SameIssue s t) {va : Word} {ws : List Word} (e : t.spillWrite va ws = .ok u) : SameIssue s u := by
  rw [State.spillWrite] at e
  split at e
  · cases e
    exact .modBank (.writeWords (.setDirty (.touch h _) _) _ _ _) _ _ _
  · cases e

end SameIssue

end Sys2Proof.Machine
end

section

namespace Sys2Proof.Machine

set_option Elab.async false

/-! ### A flush leaves the core of its strand -/

theorem commitOldest_core (t : Thread) : t.commitOldest.core = t.core := congrArg (·.core) (settle_rest _ t)

theorem spillOldest_core {s t : State} (e : s.spillOldest = .ok t) : t.cpu.core = s.cpu.core := by
  rw [State.spillOldest] at e
  split at e
  · cases e
    rfl
  · dsimp only at e
    split at e
    · cases e
      exact commitOldest_core _
    · split at e
      · cases e
      next written =>
        cases e
        exact ((SameIssue.refl _).spillWrite written).core.trans (commitOldest_core _)

theorem spillMany_core {s t : State} {n : Nat} (e : s.spillMany n = .ok t) : t.cpu.core = s.cpu.core := by
  induction n generalizing s with
  | zero =>
    cases e
    rfl
  | succ n ih =>
    rw [State.spillMany] at e
    split at e
    next written => exact (ih e).trans (spillOldest_core written)
    next => cases e

theorem spillPieces_core {s t : State} {l : List (Word × List Word)} (e : s.spillPieces l = .ok t) : t.cpu.core = s.cpu.core := by
  induction l generalizing s with
  | nil =>
    cases e
    rfl
  | cons p l ih =>
    rw [State.spillPieces] at e
    split at e
    next => cases e
    next written => exact (ih e).trans ((SameIssue.refl _).spillWrite written).core

theorem flush_core {s t : State} (e : s.flush = .ok t) : t.cpu.core = s.cpu.core := by
  have committed : (s.modCpu Thread.commit).cpu.core = s.cpu.core := congrArg (·.core) s.cpu.commit_rest
  rw [State.flush] at e
  split at e
  next => cases e
  next spilled =>
    split at e
    next => cases e
    next =>
      split at e
      next => cases e
      next written =>
        cases e
        exact (spillPieces_core written).trans ((spillMany_core spilled).trans committed)

/-! ### Leaving a slot (R120, R121, R136) -/

/-- An instruction that completes ends with no wait. -/
theorem Completes.wait {s t : State} {h : Nat} {pc : Word} {ds : List Nat} {sets : Word} {reqs : List Req}
    (c : Completes s t h pc ds sets reqs) : t.cpu.wait = .none := congrArg (·.wait) c.context

section
variable {s : State} {fin go : State → State} (ends : (fin s).cpu.wait = .none)
include ends

theorem flushAfter_ok {t : State} (h : (fin s).flush = .ok t) : s.flushAfter fin go = go t := by
  rw [State.flushAfter, ends, if_neg (by decide), h]

theorem flushAfter_stopped {t u : State} (h : (fin s).flush = .stopped t) (h' : s.flush = .stopped u) : s.flushAfter fin go = u := by
  rw [State.flushAfter, ends, if_neg (by decide), h]
  dsimp only
  rw [h']

end

/-! ### Moving a strand (R121, R380) -/

theorem performed_killable (s : State) : s.performed.cpu.killable = s.cpu.killable := by
  have drained := (SameIssue.refl s).drain (fun p => p.ctx == s.cur)
  have rest := Thread.commit_rest (s.drain (fun p => p.ctx == s.cur)).cpu
  have kill : (s.drain (fun p => p.ctx == s.cur)).cpu.commit.kill = (s.drain (fun p => p.ctx == s.cur)).cpu.kill := congrArg (·.kill) rest
  have sts : (s.drain (fun p => p.ctx == s.cur)).cpu.commit.sts = (s.drain (fun p => p.ctx == s.cur)).cpu.sts := congrArg (·.sts) rest
  show (!(s.drain _).cpu.commit.kill.isEmpty && !(s.drain _).cpu.commit.sts.getLsbD 13) = _
  rw [kill, sts]
  exact drained.killable

theorem performed_core (s : State) : s.performed.cpu.core = s.cpu.core :=
  (congrArg (·.core) (Thread.commit_rest _)).trans ((SameIssue.refl s).drain _).core

theorem moveTo_eq (s : State) (d : Reg) (die : Nat) (core : Option Nat) : s.moveTo d die core =
    if s.cpu.killable then (s.performed.setPend d 0#64).killHere
    else if core = some s.cpu.core then s.performed.answerDone d 0#64
    else s.performed.flushAfter (fun s => s.answerDone d 0#64) (fun s => if die = s.here then s.giveFlushed core else s.ship die core none) := by
  rw [← performed_killable, ← performed_core]
  rfl

/-- An instruction that moves its strand. -/
theorem moves_moveTo {s s1 : State} {i : Instr} {d : Reg} {die : Nat} {core : Option Nat} (h : exec i s = .next (s1.moveTo d die core)) :
    Moves s i s1 d die core := by
  rw [moveTo_eq] at h
  refine ⟨fun k => ?_, fun k own => ?_, fun k other fl => ?_⟩
  · rw [h, if_pos k]
  · rw [if_neg (by simp [k]), if_pos own] at h
    exact gives_answerDone h
  · rw [if_neg (by simp [k]), if_neg other] at h
    have ends : ((fun s : State => s.answerDone d 0#64) s1.performed).cpu.wait = .none := (answers_answerDone fl d 0#64).1.wait
    refine ⟨fun t flushed => ?_, fun t u stopped stopped' => ?_⟩
    · have done : (s1.performed.answerDone d 0#64).cpu.core = s1.performed.cpu.core :=
        congrArg (·.core) (answers_answerDone fl d 0#64).1.context
      have here : t.here = s1.here := congrArg dieOf ((flush_core flushed).trans (done.trans (performed_core s1)))
      rw [h, flushAfter_ok (fin := fun s => s.answerDone d 0#64) ends flushed, here]
    · rw [h, flushAfter_stopped (fin := fun s => s.answerDone d 0#64) ends stopped stopped']

theorem migrate_eq {s : State} {p : Part} (hp : s.part? s.cpu.part = some p) (d : Reg) (pl : Placed) :
    s.migrate d pl = if p.allows pl then s.moveTo d pl.die pl.bound else s.answerDone d denied := by
  rw [State.migrate, hp]

/-- A move to a destination outside the partition is denied, and any other moves the strand. -/
theorem migrate_goes {s s1 : State} {i : Instr} {d : Reg} {pl : Placed} {p : Part} (hp : s1.part? s1.cpu.part = some p)
    (h : exec i s = .next (s1.migrate d pl)) :
    (p.allows pl = false → Gives s i s1 d (refused 4)) ∧ (p.allows pl = true → Moves s i s1 d pl.die pl.bound) := by
  rw [migrate_eq hp] at h
  refine ⟨fun out => ?_, fun all => ?_⟩
  · rw [out, denied_eq] at h
    exact gives_answerDone h
  · rw [if_pos all] at h
    exact moves_moveTo h

section
variable {s : State} {d a : Reg} (p : s.noPrefix)
include p

theorem exec_migrate_sup (sup : s.isSup = true) : exec (.migrate d a) s = .next (s.answerDone d denied) := by
  show execMigrate _ _ s = _
  rw [execMigrate, plain_next p, if_pos sup]

theorem exec_migrate_illegal (sup : s.isSup = false) (h : ∀ c, place (s.rd a) s.cpu.core ≠ some (.core c)) :
    exec (.migrate d a) s = .next s.illegal := by
  show execMigrate _ _ s = _
  rw [execMigrate, plain_next p, if_neg (by simp [sup])]
  split
  next c e => exact absurd e (h c)
  next => rfl

theorem exec_migrate_core (sup : s.isSup = false) {c : Nat} (h : place (s.rd a) s.cpu.core = some (.core c)) :
    exec (.migrate d a) s = .next (s.migrate d (.core c)) := by
  show execMigrate _ _ s = _
  rw [execMigrate, plain_next p, if_neg (by simp [sup]), h]

end

/-- A placement word of a pool names no core. -/
theorem place_pool {w : Word} {c : Nat} (h : field w 15 13 = 1 ∨ field w 15 13 = 2) (k : Nat) : place w c ≠ some (.core k) := by
  rw [place]
  split
  · exact nofun
  · rcases h with h | h
    · simp only [h]
      split
      · exact nofun
      · exact nofun
    · simp only [h]
      split
      · exact nofun
      · exact nofun

theorem migrate_core : ∀ (s : State) (d a : Reg), s.noPrefix →
    (s.isSup = true → Refuses s (.migrate d a) d 4) ∧
    (s.isSup = false →
      (field (s.rd a) 15 13 = 1 ∨ field (s.rd a) 15 13 = 2 ∨ place (s.rd a) s.cpu.core = none →
        exec (.migrate d a) s = .next (s.trap 0x03 s.cpu.operandVal)) ∧
      ∀ core, place (s.rd a) s.cpu.core = some (.core core) →
        ((∀ p, s.part? s.cpu.part = some p → p.owns core = false) → Refuses s (.migrate d a) d 4) ∧
        ∀ p, s.part? s.cpu.part = some p → p.owns core = true → Moves s (.migrate d a) s d (dieOf core) (some core)) := by
  refine fun s d a p => ⟨fun sup => refuses_answerDone (exec_migrate_sup p sup) denied_eq, fun sup => ⟨fun bad => ?_, fun c hc => ?_⟩⟩
  · refine exec_migrate_illegal p sup fun c => ?_
    rcases bad with h | h | h
    · exact place_pool (.inl h) c
    · exact place_pool (.inr h) c
    · rw [h]
      exact nofun
  · have moves := exec_migrate_core (d := d) p sup hc
    refine ⟨fun out => ?_, fun pt hp own => (migrate_goes hp moves).2 own⟩
    rcases Option.eq_none_or_eq_some (s.part? s.cpu.part) with hp | ⟨pt, hp⟩
    · rw [State.migrate, hp] at moves
      exact refuses_answerDone moves denied_eq
    · exact (migrate_goes hp moves).1 (out pt hp)

section
variable {s : State} {d a : Reg} (p : s.noPrefix)
include p

theorem exec_migrateNear_sup (sup : s.isSup = true) : exec (.migrateNear d a) s = .next (s.answerDone d denied) := by
  show execMigrateNear _ _ s = _
  rw [execMigrateNear, plain_next p]
  exact congrArg _ (if_pos sup)

variable (sup : s.isSup = false)
include sup

theorem exec_migrateNear_trap (bad : field (s.rd a) 63 57 ≠ 0 ∨ (bitOf (s.rd a) 56 = true ∧ field (s.rd a) 55 18 ≠ 0)) :
    exec (.migrateNear d a) s = .next (s.trap 0x13 (s.rd a)) := by
  show execMigrateNear _ _ s = _
  rw [execMigrateNear, plain_next p]
  dsimp only
  rw [if_neg (by simp [sup]), if_pos (by simpa using bad)]

variable (high : field (s.rd a) 63 57 = 0)
include high

theorem exec_migrateNear_local (aperture : bitOf (s.rd a) 56 = true) (low : field (s.rd a) 55 18 = 0) :
    exec (.migrateNear d a) s = .next (s.migrate d (.pool s.here)) := by
  show execMigrateNear _ _ s = _
  rw [execMigrateNear, plain_next p]
  dsimp only
  rw [if_neg (by simp [sup]), if_neg (by simp [high, low]), if_pos aperture]

variable (virtual : bitOf (s.rd a) 56 = false)
include virtual

theorem exec_migrateNear_noPart (hp : s.part? s.cpu.part = none) : exec (.migrateNear d a) s = .next (s.answerDone d denied) := by
  show execMigrateNear _ _ s = _
  rw [execMigrateNear, plain_next p]
  dsimp only
  rw [if_neg (by simp [sup]), if_neg (by simp [high, virtual]), if_neg (by simp [virtual]), hp]

variable {pt : Part} (hp : s.part? s.cpu.part = some pt)
include hp

theorem exec_migrateNear_fail {f : WalkFail} (h : s.lookupComp s.here pt s.cpu.asid (s.rd a).toNat = .fail f) :
    exec (.migrateNear d a) s = .next (s.faultWait (s.rd a) .read f) := by
  show execMigrateNear _ _ s = _
  rw [execMigrateNear, plain_next p]
  dsimp only
  rw [if_neg (by simp [sup]), if_neg (by simp [high, virtual]), if_neg (by simp [virtual]), hp]
  dsimp only
  rw [h]

theorem exec_migrateNear_conflict (h : s.lookupComp s.here pt s.cpu.asid (s.rd a).toNat = .conflict) :
    exec (.migrateNear d a) s = .next (s.conflictTrap (s.rd a)) := by
  show execMigrateNear _ _ s = _
  rw [execMigrateNear, plain_next p]
  dsimp only
  rw [if_neg (by simp [sup]), if_neg (by simp [high, virtual]), if_neg (by simp [virtual]), hp]
  dsimp only
  rw [h]

theorem exec_migrateNear_page {c : Comp} {ipas : List Nat} (h : s.lookupComp s.here pt s.cpu.asid (s.rd a).toNat = .ok c ipas) {die : Nat}
    (hdie : die = if c.w then pt.homeDie (s.rd a).toNat else
      if 2 ^ 41 ≤ c.pa + (s.rd a).toNat % 4096 then deviceDie s.here (c.pa + (s.rd a).toNat % 4096)
      else stackDie (c.pa + (s.rd a).toNat % 4096)) :
    exec (.migrateNear d a) s = .next ((s.cacheComp s.here pt.num s.cpu.asid (s.rd a).toNat c ipas).migrate d (.pool die)) := by
  have here := ((SameIssue.refl s).cacheComp s.here pt.num s.cpu.asid (s.rd a).toNat c ipas).here
  show execMigrateNear _ _ s = _
  rw [execMigrateNear, plain_next p]
  dsimp only
  rw [if_neg (by simp [sup]), if_neg (by simp [high, virtual]), if_neg (by simp [virtual]), hp]
  dsimp only
  rw [h]
  dsimp only
  rw [here, hdie]

end

theorem cacheComp_part (s : State) (d part asid va : Nat) (c : Comp) (ipas : List Nat) (n : Nat) :
    (s.cacheComp d part asid va c ipas).part? n = s.part? n := by
  rw [State.cacheComp]
  dsimp only
  split
  · rfl
  · rfl

/-- Settles O18: the refusals of both forms in their order, and the move itself (`moves_moveTo`). -/
theorem migrations : Obligations.Migrations := by
  refine ⟨migrate_core, fun s d a p => ⟨fun sup => refuses_answerDone (exec_migrateNear_sup p sup) denied_eq,
    fun sup bad => exec_migrateNear_trap p sup bad, fun sup high low => ⟨fun hp => ?noPart, fun pt hp => ⟨fun aperture => ?near, fun virtual => ?far⟩⟩⟩⟩
  case noPart =>
    by_cases aperture : bitOf (s.rd a) 56 = true
    · have moves := exec_migrateNear_local (d := d) p sup high aperture (low aperture)
      rw [State.migrate, hp] at moves
      exact refuses_answerDone moves denied_eq
    · exact refuses_answerDone (exec_migrateNear_noPart p sup high (by simpa using aperture) hp) denied_eq
  case near => exact migrate_goes hp (exec_migrateNear_local p sup high aperture (low aperture))
  case far =>
    refine ⟨fun f h => exec_migrateNear_fail p sup high virtual hp h, fun h => exec_migrateNear_conflict p sup high virtual hp h,
      fun c ipas h => ?_⟩
    have hp' : (s.cacheComp s.here pt.num s.cpu.asid (s.rd a).toNat c ipas).part?
        (s.cacheComp s.here pt.num s.cpu.asid (s.rd a).toNat c ipas).cpu.part = some pt := by rwa [cacheComp_part, cacheComp_cpu]
    refine ⟨fun w => migrate_goes hp' (exec_migrateNear_page p sup high virtual hp h ?_),
      fun w small => migrate_goes hp' (exec_migrateNear_page p sup high virtual hp h ?_),
      fun w large => migrate_goes hp' (exec_migrateNear_page p sup high virtual hp h ?_)⟩
    · rw [if_pos w]
    · rw [if_neg (by simp [w]), if_neg (Nat.not_le.mpr small)]
    · rw [if_neg (by simp [w]), if_pos large]

end Sys2Proof.Machine
end

section

namespace Sys2Proof.Machine

set_option Elab.async false

/-! ### Safe points (R119, R257, R258) -/

theorem isSup_strand {s : State} {sid : Nat} (h : s.cur = .strand sid) : s.isSup = false := by
  rw [State.isSup, h]

theorem done_completes {s : State} (fl : s.flows) : Completes s s.done 0 s.seqPc [] 0#64 [] :=
  completes_doneHold (f := id) fl (Effect.refl s.cpu) 0

/-- What a strand whose launch is being ended does at a safe point. -/
theorem safeFinish_ending {s : State} {fin : State → State} {sid : Nat} (hc : s.cur = .strand sid) (ends : (fin s).cpu.wait = .none)
    (h : s.cpu.ending = true) : s.safeFinish fin = (fin s).retire sid := by
  rw [State.safeFinish, hc]
  dsimp only
  rw [if_pos h, ends, if_neg (by decide)]

/-- What a strand whose core's slice has ended does at a safe point. -/
theorem safeFinish_preempts {s : State} {fin : State → State} {sid : Nat} (hc : s.cur = .strand sid) (h : s.cpu.ending = false)
    (preempts : s.preempts = true) : s.safeFinish fin = s.flushAfter fin (fun s => s.giveFlushed (some s.cpu.core)) := by
  rw [State.safeFinish, hc]
  dsimp only
  rw [if_neg (by simp [h]), if_pos preempts]

/-! ### QUIT, YIELD and KPT (R115, R119, R120, R261) -/

section
variable {s : State} (p : s.noPrefix)
include p

theorem exec_quit_sup {c : Nat} (h : s.cur = .sup c) : exec .quit s = .next (s.trap 0x01 (s.cpu.head.setWidth 64)) := by
  show execQuit s = _
  rw [execQuit, plain_next p, h]
  rfl

theorem exec_quit_strand {sid : Nat} (h : s.cur = .strand sid) : exec .quit s = .next (s.countRetired.retire sid) := by
  show execQuit s = _
  rw [execQuit, plain_next p, h]

theorem exec_yield_sup (h : s.isSup = true) : exec .yield s = .next s.done := by
  show execYield s = _
  rw [execYield, plain_next p, if_pos h]

theorem exec_yield_safe (notSup : s.isSup = false)
    (h : s.cpu.ending = true ∨ s.preempts = true ∨ s.cpu.vlive = true ∨ s.yieldsTo = false) :
    exec .yield s = .next (s.safeFinish State.done) := by
  show execYield s = _
  rw [execYield, plain_next p, if_neg (by simp [notSup]), if_pos (by simpa [or_assoc] using h)]

theorem exec_yield_gives (notSup : s.isSup = false) (ending : s.cpu.ending = false) (preempts : s.preempts = false)
    (drained : s.cpu.vlive = false) (other : s.yieldsTo = true) :
    exec .yield s = .next (s.flushAfter State.done (fun s => s.giveFlushed (some s.cpu.core))) := by
  show execYield s = _
  rw [execYield, plain_next p, if_neg (by simp [notSup]), if_neg (by simp [ending, preempts, drained, other])]

theorem exec_kpt_safe (h : s.cpu.killable = false) : exec .kpt s = .next (s.safeFinish State.done) := by
  show execKpt s = _
  rw [execKpt, plain_next p, if_neg (by simp [h])]

theorem exec_kpt_kill (h : s.cpu.killable = true) : exec .kpt s = .next s.killHere := by
  show execKpt s = _
  rw [execKpt, plain_next p, if_pos h]

theorem exec_ending {i : Instr} {sid : Nat} (hc : s.cur = .strand sid) (fl : s.flows) (hi : i = .yield ∨ (i = .kpt ∧ s.cpu.killable = false))
    (ending : s.cpu.ending = true) : exec i s = .next (s.done.retire sid) := by
  have ends := safeFinish_ending (fin := State.done) hc (done_completes fl).wait ending
  rcases hi with rfl | ⟨rfl, k⟩
  · rw [exec_yield_safe p (isSup_strand hc) (.inl ending), ends]
  · rw [exec_kpt_safe p k, ends]

theorem exec_leaves {i : Instr} {sid : Nat} (hc : s.cur = .strand sid) (hi : i = .yield ∨ (i = .kpt ∧ s.cpu.killable = false))
    (ending : s.cpu.ending = false) (h : s.preempts = true ∨ (i = .yield ∧ s.cpu.vlive = false ∧ s.yieldsTo = true)) :
    exec i s = .next (s.flushAfter State.done (fun s => s.giveFlushed (some s.cpu.core))) := by
  by_cases preempts : s.preempts = true
  · have leaves := safeFinish_preempts (fin := State.done) hc ending preempts
    rcases hi with rfl | ⟨rfl, k⟩
    · rw [exec_yield_safe p (isSup_strand hc) (.inr (.inl preempts)), leaves]
    · rw [exec_kpt_safe p k, leaves]
  · obtain ⟨rfl, drained, other⟩ := h.resolve_left preempts
    exact exec_yield_gives p (isSup_strand hc) ending (by simpa using preempts) drained other

end

/-- Settles O19: each instruction at a safe point goes on, leaves its slot or ends as `safeFinish` and `flushAfter` do. -/
theorem strandEnds : Obligations.StrandEnds := by
  refine fun s p => ⟨fun c h => exec_quit_sup p h, fun sid h => exec_quit_strand p h, fun fl keeps h => ?goesOn,
    fun i sid hc fl hi => ⟨exec_ending p hc fl hi, fun ending h => ⟨fun s2 flushed => ?leaves, fun s2 s3 stopped stopped' => ?stopped⟩⟩,
    fun fl keeps k => ?point, exec_kpt_kill p⟩
  case goesOn =>
    refine ⟨s.done, ?_, done_completes fl⟩
    by_cases sup : s.isSup = true
    · exact exec_yield_sup p sup
    · rw [exec_yield_safe p (by simpa using sup) (.inr (.inr (h.resolve_left sup))), safeFinish_keeps keeps]
  case leaves => rw [exec_leaves p hc hi ending h, flushAfter_ok (done_completes fl).wait flushed]
  case stopped => rw [exec_leaves p hc hi ending h, flushAfter_stopped (done_completes fl).wait stopped stopped']
  case point => exact ⟨s.done, by rw [exec_kpt_safe p k, safeFinish_keeps keeps], done_completes fl⟩

end Sys2Proof.Machine
end

section
namespace Sys2Proof.Machine

set_option Elab.async false

/-! ### A replayed message whose header has a reserved bit set (R299) -/

/-- A supervisor context of core 0 that replays a message: its core is in overflow, g1 holds a destination word with LOOP, and g2 to g5 the
message, with a header that has VALID and the reserved bit 46 set. -/
def replays : State :=
  { State.reset with
    cpu := { State.reset.cpu with sts := 0x800#64, regs := ((Vector.replicate 32 0#64).set 1 0x80000000#64).set 2 0xC00000000000#64 }
    cores := [(0, { overflow := true })] }

/-- Refutes O20: the model clears the reserved bits of a replayed message's header (`loopBack`, R292), and the statement's `looped` places
the header as the register holds it. -/
theorem not_sends : ¬ Obligations.Sends := by
  rintro ⟨-, loops⟩
  obtain ⟨s1, hs1, kept⟩ : ∃ s1, looped replays (replays.rd 1#5) 2#5 = some (s1, 0#64) ∧
      (s1.flows ∧ (s1.countRetired.core 0).inbox.map (fun m => m.words.headD 0#64) = [0xC00000000000#64]) := by
    refine ⟨_, rfl, ?_⟩
    unfold State.flows
    decide
  obtain ⟨t, ht, answers⟩ := (loops replays 0#2 0#5 1#5 2#5 (.send 0#2 0#5 1#5 2#5) ⟨rfl, rfl⟩ (by decide) (by decide) (by decide) (by decide)
    (by decide) (by decide) (by decide)).2 s1 0#64 (by decide) hs1 kept.1
  have cleared : ∃ u, exec (.send 0#2 0#5 1#5 2#5) replays = .next u ∧ (u.core 0).inbox.map (fun m => m.words.headD 0#64) = [0x800000000000#64] :=
    ⟨_, rfl, by decide⟩
  obtain ⟨u, hu, words⟩ := cleared
  obtain rfl := Host.Outcome.next.inj (ht.symm.trans hu)
  have same : (t.core 0).inbox = (s1.countRetired.core 0).inbox := by rw [answers.1.module]; rfl
  rw [same, kept.2] at words
  cases words

end Sys2Proof.Machine
end

section

namespace Sys2Proof.Machine

set_option Elab.async false

/-! ### Answers in several registers (R58) -/

/-- A register is in place: it holds a value and nothing of it is in flight. -/
structure Thread.InPlace (t : Thread) (n v : Nat) : Prop where
  reg : t.reg n = v
  fly : ∀ f ∈ t.fly, ¬ (f.reg = n ∧ f.up = 0)

namespace Thread.InPlace

variable {t : Thread} {n v : Nat}

theorem produce_same (t : Thread) (n v : Nat) : (t.produce 1 n v).InPlace n (placeVal n v) :=
  ⟨(t.produce_one n v).1, (t.produce_one n v).2⟩

theorem produce_other (h : t.InPlace n v) {m : Nat} (ne : m ≠ n) (w : Nat) : (t.produce 1 m w).InPlace n v :=
  ⟨(t.reg_put_ne ne w).trans h.reg, fun f hf => h.fly f (List.mem_filter.mp hf).1⟩

theorem foldl_other (h : t.InPlace n v) {l : List (Nat × Nat)} (out : n ∉ l.map (·.1)) :
    (l.foldl (fun t (p : Nat × Nat) => t.produce 1 p.1 p.2) t).InPlace n v := by
  induction l generalizing t with
  | nil => exact h
  | cons p l ih =>
    simp only [List.map_cons, List.mem_cons, not_or] at out
    exact ih (h.produce_other (Ne.symm out.1) p.2) out.2

/-- Each of several results with registers of their own is in its place. -/
theorem foldl_mem {l : List (Nat × Nat)} (distinct : (l.map (·.1)).Nodup) (hm : (n, v) ∈ l) (t : Thread) :
    (l.foldl (fun t (p : Nat × Nat) => t.produce 1 p.1 p.2) t).InPlace n (placeVal n v) := by
  induction l generalizing t with
  | nil => cases hm
  | cons p l ih =>
    rw [List.map_cons, List.nodup_cons] at distinct
    rcases List.mem_cons.mp hm with rfl | hm
    · exact (produce_same t _ _).foldl_other distinct.1
    · exact ih distinct.2 hm _

/-- What is in place stays while an instruction completes. -/
theorem done {s u : State} (h : u.cpu.InPlace n v) (fl : s.flows) (pc : u.cpu.pc = s.cpu.pc) (lineN : u.cpu.lineN = s.cpu.lineN) :
    u.done.cpu.reg n = v := by
  show (u.doneHold 0).cpu.reg n = v
  rw [doneHold_eq fl pc lineN, doneTo_reg _ _ _ _ h.fly, h.reg]

end Thread.InPlace

/-- An instruction whose results are answers in registers of their own completes, and each is in place. -/
theorem answer_done {s : State} (fl : s.flows) (l : List (Nat × Nat)) (ordinary relaxed : Bool) (op : Nat) :
    Completes s (s.modCpu (fun t => t.answer l ordinary relaxed op)).done 0 s.seqPc (l.map (·.1)) 0#64
      [⟨(l.map (·.1)).filter (· != 0), ordinary, relaxed, op⟩] ∧
    ((l.map (·.1)).Nodup → ∀ n v, (n, v) ∈ l → (s.modCpu (fun t => t.answer l ordinary relaxed op)).done.cpu.reg n = placeVal n v) := by
  have e := (Effect.refl s.cpu).answer l ordinary relaxed op
  rw [List.append_nil, List.nil_append] at e
  refine ⟨completes_doneHold (f := fun t => t.answer l ordinary relaxed op) fl e 0, fun distinct n v hm => ?_⟩
  have placed := Thread.InPlace.foldl_mem distinct hm s.cpu
  have answered : (s.cpu.answer l ordinary relaxed op).InPlace n (placeVal n v) := ⟨placed.reg, placed.fly⟩
  exact Thread.InPlace.done (u := s.modCpu (fun t => t.answer l ordinary relaxed op)) answered fl e.pc e.lineN

/-- A scalar register by its number. -/
theorem Thread.rdNum_reg (t : Thread) {n : Nat} (h : n < 32) : t.rdNum n = BitVec.ofNat 64 (t.reg n) := by
  rw [Thread.rdNum, if_pos h, Thread.rd_eq_reg, BitVec.toNat_ofNat, Nat.mod_eq_of_lt h]

theorem ofNat_placeVal {n : Nat} (h0 : n ≠ 0) (h : n < 32) (v : Word) : BitVec.ofNat 64 (placeVal n v.toNat) = v := by
  rw [placeVal, if_neg h0, if_pos h, Nat.mod_eq_of_lt v.isLt, BitVec.ofNat_toNat, BitVec.setWidth_eq]

/-! ### RECV (R296, R300) -/

/-- The results of `RECV`, register by register. -/
def recvResults (d : Nat) (ws : List Word) : List (Nat × Nat) := (List.range 4).map (fun i => (d + i, (ws.getD i 0#64).toNat))

/-- Four words are answered in four registers in a row. -/
theorem fourDone {s : State} (fl : s.flows) {d : Reg} (hd : d.toNat ≤ 28) (ws : List Word) :
    let ds := [d.toNat, d.toNat + 1, d.toNat + 2, d.toNat + 3]
    Completes s (s.modCpu (fun t => t.answer (recvResults d.toNat ws) false false)).done 0 s.seqPc ds 0#64 [⟨ds.filter (· != 0), false, false, 0⟩] ∧
      ∀ k < 4, d.toNat + k ≠ 0 →
        (s.modCpu (fun t => t.answer (recvResults d.toNat ws) false false)).done.cpu.rdNum (d.toNat + k) = ws.getD k 0#64 := by
  intro ds
  have regs : (recvResults d.toNat ws).map (·.1) = ds := rfl
  obtain ⟨completes, results⟩ := answer_done fl (recvResults d.toNat ws) false false 0
  rw [regs] at completes results
  have distinct : ds.Nodup := by simp [ds]
  refine ⟨completes, fun k hk h0 => ?_⟩
  have mem : (d.toNat + k, (ws.getD k 0#64).toNat) ∈ recvResults d.toNat ws := List.mem_map.mpr ⟨k, List.mem_range.mpr hk, rfl⟩
  rw [Thread.rdNum_reg _ (by omega), results distinct _ _ mem, ofNat_placeVal h0 (by omega)]

theorem exec_recv {s : State} (p : s.noPrefix) {i : Instr} {d a : Reg} (hi : i ∈ [.recv d a, .recvArrival d a]) :
    exec i s = .next (s.recvMsg d a) := by
  simp only [List.mem_cons, List.not_mem_nil, or_false] at hi
  rcases hi with rfl | rfl
  · show execRecv _ _ s = _
    rw [execRecv, plain_next p]
  · show execRecvArrival _ _ s = _
    rw [execRecvArrival, plain_next p]

/-- The words of the message that is taken, none where none is. -/
def receivedWords (s : State) (w : Word) : List Word :=
  match receivable s w with
  | some m => m.words
  | none => []

theorem recvMsg_eq {s : State} {d a : Reg} (some_ : s.rd a ≠ 0#64) (high : field (s.rd a) 63 5 = 0) (low : d.toNat ≤ 28)
    (arrival : bitOf (s.rd a) 4 = true → s.isSup = true ∧ field (s.rd a) 3 0 = 0) :
    s.recvMsg d a = ((received s (s.rd a)).modCpu (fun t => t.answer (recvResults d.toNat (receivedWords s (s.rd a))) false false)).done := by
  have legal : ¬ ((decide (s.rd a = 0#64) || field (s.rd a) 63 5 != 0 || decide (28 < d.toNat) ||
      (bitOf (s.rd a) 4 && (!s.isSup || field (s.rd a) 3 0 != 0))) = true) := by
    by_cases four : bitOf (s.rd a) 4 = true
    · simp [some_, high, low, four, arrival four]
    · simp [some_, high, low, four]
  unfold State.recvMsg
  dsimp only
  rw [if_neg legal, received, receivedWords, receivable]
  by_cases four : bitOf (s.rd a) 4 = true
  · rw [if_pos four, if_pos four]
    cases (s.core s.cpu.core).arrivals with
    | nil => rfl
    | cons m rest =>
      simp only [four, if_true]
      rfl
  · rw [if_neg four, if_neg four]
    cases (s.core s.cpu.core).inbox.find? (fun m => bitOf (s.rd a) m.ch) with
    | none => rfl
    | some m =>
      simp only [four]
      rfl

/-! ### Waiting where the context is (R28 to R30, R257, R380) -/

section
variable {s s1 s2 : State} {i : Instr} {cause : Nat} {held : Wait} {arrive : State → State}
  (keeps : ∀ u, (arrive u).cur = u.cur ∧ (arrive u).cpu = u.cpu) (h : exec i s = .next (s1.waitHere cause held arrive))
include keeps h

theorem wait_inSlot (w : s1.longWait s1.here = .inSlot) :
    (s1.isSup = true ∨ s1.cpu.killable = false → exec i s = .next (arrive { s1 with cpu := { s1.cpu with wait := held } })) ∧
    (s1.isSup = false → s1.cpu.killable = true → exec i s = .next (arrive { s1 with cpu := { s1.cpu with wait := held } }).killWait) := by
  obtain ⟨cur, cpu⟩ := keeps { s1 with cpu := { s1.cpu with wait := held } }
  have sup : (arrive { s1 with cpu := { s1.cpu with wait := held } }).isSup = s1.isSup := by rw [State.isSup, cur, State.isSup]
  have kill : (arrive { s1 with cpu := { s1.cpu with wait := held } }).cpu.killable = s1.cpu.killable := by rw [cpu]; rfl
  have told : s1.waitHere cause held arrive =
      if !(arrive { s1 with cpu := { s1.cpu with wait := held } }).isSup && (arrive { s1 with cpu := { s1.cpu with wait := held } }).cpu.killable
      then (arrive { s1 with cpu := { s1.cpu with wait := held } }).killWait else arrive { s1 with cpu := { s1.cpu with wait := held } } := by
    rw [State.waitHere, w]
    rfl
  rw [told, sup, kill] at h
  refine ⟨fun stays => ?_, fun notSup killed => ?_⟩
  · rw [h, if_neg]
    rcases stays with h | h
    · simp [h]
    · simp [h]
  · rw [h, if_pos (by simp [notSup, killed])]

omit keeps h in
/-- A context that may park is a strand's. -/
theorem strand_of_park {d : Nat} (w : s1.longWait d = .park) : ∃ sid, s1.cur = .strand sid := by
  cases hc : s1.cur with
  | sup c =>
    rw [State.longWait, hc] at w
    cases w
  | strand sid => exact ⟨sid, rfl⟩

theorem wait_park (w : s1.longWait s1.here = .park) :
    (s1.cpu.killable = true → exec i s = .next (arrive s1).killWait) ∧
    (∀ sid, s1.cur = .strand sid → s1.cpu.killable = false → s1.cpu.ending = true → exec i s = .next ((arrive s1).retire sid)) ∧
    (s1.cpu.killable = false → s1.cpu.ending = false →
      (s1.flush = .ok s2 → exec i s = .next ((arrive s2).parkOn cause s2.here)) ∧ (s1.flush = .stopped s2 → exec i s = .next s2)) := by
  obtain ⟨cur, cpu⟩ := keeps s1
  obtain ⟨sid, hsid⟩ := strand_of_park w
  have stops : (arrive s1).atWait =
      if s1.cpu.killable then some (arrive s1).killWait else if s1.cpu.ending then some ((arrive s1).retire sid) else none := by
    rw [State.atWait, cur, hsid, cpu]
  rw [State.waitHere, w] at h
  dsimp only at h
  rw [stops] at h
  refine ⟨fun killed => ?_, fun sid' e alive ending => ?_, fun alive goesOn => ⟨fun flushed => ?_, fun stopped => ?_⟩⟩
  · rw [h, if_pos killed]
  · obtain rfl : sid = sid' := CtxId.strand.inj (hsid.symm.trans e)
    rw [h, if_neg (by simp [alive]), if_pos ending]
  · rw [h, if_neg (by simp [alive]), if_neg (by simp [goesOn]), flushed]
  · rw [h, if_neg (by simp [alive]), if_neg (by simp [goesOn]), stopped]

omit keeps in
theorem wait_full (w : s1.longWait s1.here = .full) : exec i s = .next (s1.trap 0x21 (word s1.here)) := by
  rw [h, State.waitHere, w]
  rfl

/-- An instruction that waits at its current die. -/
theorem waits_waitHere : Waits s i s1 cause held arrive s2 := ⟨wait_inSlot keeps h, wait_park keeps h, wait_full h⟩

end

/-! ### WAITM (R297) -/

/-- Settles O21: the registers that `RECV` fills (`fourDone`), and the wait of `WAITM` (`waits_waitHere`). -/
theorem receives : Obligations.Receives := by
  refine ⟨fun s d a i p hi some_ high low arrival fl => ?recv, fun s s2 p => ⟨fun here fl => ?goesOn, fun empty => ?waits⟩⟩
  case recv =>
    obtain ⟨completes, words⟩ := fourDone fl low (receivedWords s (s.rd a))
    refine ⟨_, (exec_recv p hi).trans (congrArg _ (recvMsg_eq some_ high low arrival)), completes, fun k hk h0 => ?_⟩
    rw [words k hk h0, receivedWords]
    cases receivable s (s.rd a)
    all_goals rfl
  case goesOn =>
    refine ⟨s.done, ?_, done_completes fl⟩
    show execWaitm s = _
    rw [execWaitm, plain_next p, if_pos (by simpa using here)]
  case waits =>
    refine waits_waitHere (fun _ => ⟨rfl, rfl⟩) ?_
    show execWaitm s = _
    rw [execWaitm, plain_next p, if_neg (by simp [empty])]
    rfl

end Sys2Proof.Machine
end
